-- ==== Sys2Proof/Word.lean ====
section
/-! DEFINITION. The word type: one byte, as the yard link and the configuration memory carry it. -/

namespace Sys2Proof

/-- A byte on the wire or in the configuration memory (R179, R196). -/
abbrev Byte := BitVec 8

end Sys2Proof
end

