-- ==== Sys2Proof/Syntax.lean ====
section
/-! DEFINITION. The commands of the D48: one constructor of `Instr` per row of spec/opcode_table.json, with the
operands the rule of the row gives it. Numbers on the link are `Nat`s, so that a value outside its range can be
written and is discarded (R184); orders carry their argument bytes raw, so that an INVALID order can be written (R207). -/

namespace Sys2Proof

/-- The class of a bus (R28). -/
inductive BusClass where
  | midi | standard | artic
deriving DecidableEq, Repr

/-- What a run wants: a fleet number, or any bus of a class (R133). -/
inductive Demand where
  | fleet (n : Nat)
  | ofClass (c : BusClass)
deriving DecidableEq, Repr

/-- A feeder group (R87). -/
inductive Group where
  | a | b | c
deriving DecidableEq, Repr

/-- The state a FEEDER notice or a group-state input gives (R88, R89). -/
inductive FeederState where
  | opened | peak | shed
deriving DecidableEq, Repr

/-- The kind of a lane (R3). -/
inductive LaneKind where
  | deadEnd | through
deriving DecidableEq, Repr

/-- The two reader inputs of a lane (R4). -/
inductive ReaderInput where
  | front | rear
deriving DecidableEq, Repr

/-- The direction of a lane reading, IN or OUT (R4). -/
inductive Direction where
  | inward | outward
deriving DecidableEq, Repr

/-- Why a frame is abandoned (R181). -/
inductive AbandonCause where
  | idle | stopBitLow | lengthAbove32
deriving DecidableEq, Repr

/-- The commands. -/
inductive Instr where
  -- starts and the node
  | powerOn
  | resetLineAsserted
  | resetHoldExpiry
  | resetLineReleased
  | configReadComplete (image : List Byte)
  | listenTimerExpiry
  -- lanes
  | laneReaderReading (lane : Nat) (input : ReaderInput) (fleet : Nat) (dir : Direction)
  | berthDetectorChange (lane pos : Nat) (occupied : Bool)
  | berthSettleExpiry (lane pos : Nat)
  | surveyPeriodEnd (lane : Nat)
  -- wash lane
  | entryReaderReading (fleet : Nat)
  | bypassReaderReading (fleet : Nat)
  | stageDetectorChange (stage : Nat) (occupied : Bool)
  | entryCallTimeout
  | spinupExpiry (stage : Nat)
  | dwellExpiry (stage : Nat)
  | runonExpiry (stage : Nat)
  | advanceTimeout (stage : Nat)
  | stopInputAsserted
  | stopInputCleared
  | temperatureReading (degrees : Int)
  | frostClearExpiry
  -- berth allocation
  | callTimerExpiry
  | unplacedRetryExpiry (fleet : Nat)
  | offerWindowExpiry (caller : Nat)
  | takeWaitExpiry
  | takeWatchExpiry (fleet : Nat)
  | transitTimeout (fleet : Nat)
  -- chargers
  | connectionReport (berth energy : Nat)
  | disconnectReport (berth : Nat)
  | faultReport (berth : Nat)
  | meterPulse (berth : Nat)
  | chargerSettleExpiry (berth : Nat)
  | rampTimerExpiry (berth : Nat)
  | turnBoundary
  | planHoldExpiry
  -- feeders
  | drawTimerExpiry
  | freshnessTimerExpiry (station : Nat)
  | feederInputChange (group : Group) (state : FeederState) (hot : Bool)
  | feederRefreshExpiry (group : Group)
  -- runs and departure
  | claimWindowExpiry (run : Nat)
  | claimRefreshExpiry (run : Nat)
  | claimPeriodEntry (run : Nat)
  | shuntLeadReached (run : Nat)
  | shuntTimerExpiry (fleet : Nat)
  | releaseLeadReached (run : Nat)
  | releaseTimerExpiry
  | gracePassed (run : Nat)
  | exitGapHolds
  -- notices heard
  | roll (sender : Nat) (ask wash bypass : Bool) (lanes berths chargers maxA maxB maxC : Nat)
  | draw (sender comA comB comC planA planB planC : Nat)
  | feeder (sender : Nat) (group : Group) (state : FeederState) (hot : Bool)
  | clock (sender seconds : Nat)
  | run (sender run pullOut route : Nat) (demand : Demand) (allowance : Nat)
  | runCancel (sender run : Nat)
  | clearRuns (sender : Nat)
  | parkCall (sender seq fleet : Nat) (cls : BusClass) (route pullOut : Option Nat) (washed : Bool)
  | offer (sender caller seq cost : Nat)
  | take (sender caller seq lane cost : Nat)
  | found (sender fleet lane : Nat)
  | claim (sender run fleet cost : Nat)
  | depart (sender run fleet seconds : Nat)
  | late (sender run : Nat)
  | answerOrAlertHeard (sender kind : Nat) (body : List Byte)
  -- link events
  | frameRejected (bytes : List Byte)
  | frameAbandoned (cause : AbandonCause)
  | frameSendStart
  | frameWithdrawn
  | frameSent
  -- alerts and orders
  | ackButtonPress
  | survey (sender tag : Nat) (args : List Byte)
  | identify (sender tag : Nat) (args : List Byte)
  | laneOpen (sender tag : Nat) (args : List Byte)
  | laneClose (sender tag : Nat) (args : List Byte)
  | laneKind (sender tag : Nat) (args : List Byte)
  | washSkip (sender tag : Nat) (args : List Byte)
  | washResume (sender tag : Nat) (args : List Byte)
  | hold (sender tag : Nat) (args : List Byte)
  | unhold (sender tag : Nat) (args : List Byte)
  | feed (sender tag : Nat) (args : List Byte)
  | forget (sender tag : Nat) (args : List Byte)
  | ack (sender tag : Nat) (args : List Byte)
  | report (sender tag : Nat) (args : List Byte)
  | restart (sender tag : Nat) (args : List Byte)
  | restartAnswerLeft
  | orderUnknownKind (sender tag kind : Nat) (args : List Byte)
  | idleOf10BitTimes
  | orderForAnotherStation (sender target tag kind : Nat) (args : List Byte)
deriving DecidableEq, Repr

end Sys2Proof
end

