-- ==== Sys2Proof/Config.lean ====
section
/-! DEFINITION. The configuration of a node: what the image of R196 holds, after the clamping of R199. The spec
leaves no result value open, so there is no opaque free value here (INVENTORY, What the manual leaves open). -/

namespace Sys2Proof

/-- One value for each of the feeder groups A, B, C. -/
structure PerGroup (α : Type) where
  a : α
  b : α
  c : α
deriving DecidableEq, Repr

/-- A subset of the groups A, B, C: a charger's mask (R105). -/
abbrev Mask := PerGroup Bool

/-- A subset of the bus classes (R3). -/
structure ClassSet where
  midi : Bool
  standard : Bool
  artic : Bool
deriving DecidableEq, Repr

/-- What a charger may draw in PEAK (R117). -/
inductive PeakRemap where
  | full | floor | pause
deriving DecidableEq, Repr

/-- What a charger may draw in SHED (R117). -/
inductive ShedRemap where
  | floor | pause
deriving DecidableEq, Repr

/-- The configured values of a charger (R105). -/
structure ChargerConfig where
  home : Mask
  pmax : Nat
  pmin : Nat
  floor : Nat
  peak : PeakRemap
  shed : ShedRemap
  rank : Nat
deriving DecidableEq, Repr

/-- The configured values of a lane (R3). The berth count is the length of `berths`; `chargers` has one entry per
position of a charged lane and none otherwise. A window of `none` is ALL. -/
structure LaneConfig where
  kind : LaneKind
  berths : List Nat
  classes : ClassSet
  window : Option (Nat × Nat)
  charged : Bool
  kindChange : Bool
  chargers : List ChargerConfig
deriving DecidableEq, Repr

/-- The configured times of a wash stage (R43). -/
structure StageConfig where
  spinup : Nat
  dwell : Nat
  runon : Nat
deriving DecidableEq, Repr

/-- The configured values of a feeder group (R87). -/
structure GroupConfig where
  cap : Nat
  shedCap : Nat
  limit : Nat
  duty : Nat
  hotDuty : Nat
deriving DecidableEq, Repr

/-- The loaded copy of the configuration image (R196, R197). Times are in the units of the layout. -/
structure NodeConfig where
  station : Nat
  lineRate : Nat
  keepYard : Bool
  warmRestore : Bool
  impliedShunt : Bool
  wildcard : Bool
  monitor : Bool
  washLane : Bool
  bypass : Bool
  dayChange : Nat
  spareReady : Nat
  firstStandard : Nat
  firstArtic : Nat
  laneSettle : Nat
  offerWindow : Nat
  takeWait : Nat
  transitTimeout : Nat
  chargerSettle : Nat
  staggerInterval : Nat
  turnTick : Nat
  turnExponent : Nat
  rampInterval : Nat
  rampStep : Nat
  readyMargin : Nat
  claimLead : Nat
  claimWindow : Nat
  releaseLead : Nat
  exitGap : Nat
  releaseTimeout : Nat
  lateGrace : Nat
  shuntLead : Nat
  shuntTimeout : Nat
  shuntAttempts : Nat
  stageCount : Nat
  advanceTimeout : Nat
  frostThreshold : Int
  stages : List StageConfig
  groups : PerGroup GroupConfig
  lanes : List LaneConfig
deriving DecidableEq, Repr

/-- The copy before the first image is read (DESIGN CHOICE, log 4): nothing is configured. No block uses it, since a
node without a good image is LOADING or CONFIG_FAULT (R201). -/
def NodeConfig.blank : NodeConfig where
  station := 0
  lineRate := 0
  keepYard := false
  warmRestore := false
  impliedShunt := false
  wildcard := false
  monitor := false
  washLane := false
  bypass := false
  dayChange := 0
  spareReady := 0
  firstStandard := 0
  firstArtic := 0
  laneSettle := 0
  offerWindow := 0
  takeWait := 0
  transitTimeout := 0
  chargerSettle := 0
  staggerInterval := 0
  turnTick := 0
  turnExponent := 0
  rampInterval := 0
  rampStep := 0
  readyMargin := 0
  claimLead := 0
  claimWindow := 0
  releaseLead := 0
  exitGap := 0
  releaseTimeout := 0
  lateGrace := 0
  shuntLead := 0
  shuntTimeout := 0
  shuntAttempts := 0
  stageCount := 0
  advanceTimeout := 0
  frostThreshold := 0
  stages := []
  groups := ⟨⟨0, 0, 0, 0, 0⟩, ⟨0, 0, 0, 0, 0⟩, ⟨0, 0, 0, 0, 0⟩⟩
  lanes := []

end Sys2Proof
end

