-- ==== Sys2Proof/Machine/State.lean ====
section
/-! DEFINITION. The state of a D48: one structure per block of 00_scope.md, each piece of state the spec names
(INVENTORY, State), as plain data. A timer is the instant of its expiry, or `none` when it does not run. -/

namespace Sys2Proof.Machine

/-! ### Lanes (Lane Monitor) -/

/-- What a reservation is for (R3). -/
inductive ReservationKind where
  | transit | shunt
deriving DecidableEq, Repr

/-- One entry of a lane's reservation list (R3). -/
structure Reservation where
  kind : ReservationKind
  fleet : Nat
deriving DecidableEq, Repr

/-- One entry of a lane's hold list: the calling station and the call sequence (R3). -/
structure OfferHold where
  caller : Nat
  seq : Nat
deriving DecidableEq, Repr

/-- The settle state of a berth, with the instant its settle timer expires (R18). -/
inductive BerthSettle where
  | quiet
  | awaitEvent (expiry : Nat)
  | awaitDetector (expiry : Nat)
  | mismatch
deriving DecidableEq, Repr

/-- A lane record (R3). The stack is not stored: a record's place names its lane and position (R28). `conf` holds the
configured fields; `kind` is the kind now in force (R25). -/
structure Lane where
  number : Nat
  kind : LaneKind
  conf : LaneConfig
  closed : Bool
  suspect : Bool
  reservations : List Reservation
  holds : List OfferHold
  settle : List BerthSettle
  survey : Option Nat
deriving DecidableEq, Repr

/-! ### Bus records (Bus Table) -/

/-- The placeholder kind of a record (R28). -/
inductive PlaceholderKind where
  | named | occupied | gap
deriving DecidableEq, Repr

/-- A take this node sent, with its take watch timer (R67, R76). -/
structure SentTake where
  caller : Nat
  seq : Nat
  cost : Nat
  watch : Option Nat
deriving DecidableEq, Repr

/-- The place of a record with the fields present in that place (R28, R30). APRON carries the unplaced mark and the
retry timer, TRANSIT its transit entry (R67). -/
inductive Place where
  | queued
  | washing (stage : Nat)
  | apron (unplaced : Bool) (retry : Option Nat)
  | transit (lane : Nat) (start : Nat) (lost : Bool) (sent : Option SentTake)
  | parked (lane pos : Nat)
  | shunting (lane pos : Nat)
  | shuntingBetween
  | released (lane pos : Nat)
deriving DecidableEq, Repr

/-- A bus record (R28). `id` is the model's own handle (log 5). -/
structure Bus where
  id : Nat
  fleet : Option Nat
  kind : PlaceholderKind
  cls : BusClass
  place : Place
  washed : Bool
  run : Option Nat
  pullOut : Option Nat
  route : Option Nat
  need : Option Nat
  hold : Bool
  seq : Nat
deriving DecidableEq, Repr

/-- The Bus Table (R28): its records, the arrival sequence counter (R32) and the handle counter (log 5). -/
structure BusTable where
  records : List Bus
  counter : Nat
  nextId : Nat
deriving DecidableEq, Repr

/-! ### Wash Sequencer -/

/-- The state of a wash stage (R51). -/
inductive StageState where
  | empty | spinup | dwell | doneWait | leaving | runon | fault
deriving DecidableEq, Repr

/-- A wash stage: its state and its one timer (R51). Its record is the WASHING record that names it. -/
structure Stage where
  state : StageState
  timer : Option Nat
deriving DecidableEq, Repr

/-- The mode of the wash lane (R50); IDLE and RUNNING are the two faces of `normal`. -/
inductive WashMode where
  | normal | frostHold | stopped
deriving DecidableEq, Repr

/-- The Wash Sequencer (R48, R50 to R54, R60). The wash queue is a view (R47). -/
structure Wash where
  mode : WashMode
  stages : List Stage
  called : Option Nat
  callTimer : Option Nat
  frost : Bool
  clearing : Option Nat
  promised : Bool
  apron : List Nat
deriving DecidableEq, Repr

/-! ### Berth Allocator -/

/-- The fields of a PARK_CALL (R68). -/
structure Call where
  seq : Nat
  fleet : Nat
  cls : BusClass
  route : Option Nat
  pullOut : Option Nat
  washed : Bool
deriving DecidableEq, Repr

/-- The best TAKE heard for a call (R67). -/
structure HeardTake where
  station : Nat
  lane : Nat
  cost : Nat
deriving DecidableEq, Repr

/-- The caller state (R67): the fields of the call and the number of calls of the series, which ends only with the take wait
(R78); CALLING with the call timer, TAKEN with the best TAKE and the take wait timer. -/
inductive Caller where
  | idle
  | calling (call : Call) (count : Nat) (timer : Nat)
  | taken (call : Call) (count : Nat) (best : HeardTake) (timer : Nat)
deriving DecidableEq, Repr

/-- An open offer record (R67). -/
structure OfferRecord where
  caller : Nat
  call : Call
  lane : Nat
  cost : Nat
  withdrawn : Bool
  best : Option (Nat × Nat)
  window : Nat
deriving DecidableEq, Repr

/-- A take whose bus has arrived while its take watch still runs (R77; log 12). -/
structure ArrivedTake where
  fleet : Nat
  sent : SentTake
deriving DecidableEq, Repr

/-- The apron display (R79). -/
structure Assignment where
  fleet : Nat
  station : Nat
  lane : Nat
deriving DecidableEq, Repr

/-- The Berth Allocator (R67). -/
structure Allocator where
  seq : Nat
  caller : Caller
  offers : List OfferRecord
  arrived : List ArrivedTake
  display : Option Assignment
deriving DecidableEq, Repr

/-! ### Feeder Budget Unit -/

/-- The state of a feeder group (R87). -/
inductive GroupState where
  | unknown
  | told (state : FeederState)
deriving DecidableEq, Repr

/-- The stored values of a group record (R87, R89). -/
structure GroupRec where
  state : GroupState
  hot : Bool
  grant : Nat
  refresh : Option Nat
deriving DecidableEq, Repr

/-- A station's description, from its ROLL (R91). -/
structure Description where
  lanes : Nat
  berths : Nat
  chargers : Nat
  wash : Bool
  bypass : Bool
deriving DecidableEq, Repr

/-- An entry of the station table (R91). `fresh` is the end of its freshness timer: FRESH while it runs. -/
structure StationEntry where
  station : Nat
  maxima : PerGroup Nat
  description : Option Description
  committed : PerGroup Nat
  planned : PerGroup Nat
  lastDraw : Option Nat
  fresh : Option Nat
deriving DecidableEq, Repr

/-- The Feeder Budget Unit (R87, R91, R99, R100). -/
structure Feeders where
  groups : PerGroup GroupRec
  stations : List StationEntry
  drawTimer : Option Nat
  planHold : Option Nat
deriving DecidableEq, Repr

/-! ### Charge Scheduler -/

/-- The part of a charger's state that link reports and the settle timer set; FULL, HELD, WAITING, RAMPING and
DRAWING are the faces of `connected` (R107). -/
inductive ChargerPhase where
  | idle
  | settling (expiry : Nat)
  | connected
  | fault
deriving DecidableEq, Repr

/-- A claimant's figures at the latest boundary: deadline T, granted rate Q', slack S (R132). -/
structure Figures where
  deadline : Nat
  rate : Nat
  slack : Int
deriving DecidableEq, Repr

/-- A charger record (R105). -/
structure Charger where
  berth : Nat
  lane : Nat
  pos : Nat
  conf : ChargerConfig
  mask : Mask
  phase : ChargerPhase
  session : Option Nat
  connectedAt : Option Nat
  staggerEnd : Option Nat
  planned : Nat
  target : Nat
  present : Nat
  ramp : Option Nat
  turnAge : Nat
  figures : Option Figures
  statusAsked : Bool
deriving DecidableEq, Repr

/-- The Charge Scheduler (R105, R120, R124). -/
structure Charging where
  chargers : List Charger
  order : List Nat
  boundary : Option Nat
deriving DecidableEq, Repr

/-! ### Run List -/

/-- The state of a run (R134). -/
inductive RunState where
  | pending | claiming | claimedElsewhere | mine | late | departed | lapsed | cancelled
deriving DecidableEq, Repr

/-- This node's claim for a run (R133). -/
structure OwnClaim where
  fleet : Nat
  cost : Nat
deriving DecidableEq, Repr

/-- The best claim heard for a run (R133). -/
structure HeardClaim where
  station : Nat
  fleet : Nat
  cost : Nat
deriving DecidableEq, Repr

/-- A run record (R133). Its bound record is the bus record that names it (R140). -/
structure Run where
  run : Nat
  pullOut : Nat
  route : Nat
  demand : Demand
  allowance : Nat
  state : RunState
  ownMark : Bool
  claim : Option OwnClaim
  best : Option HeardClaim
  heardOther : Bool
  window : Option Nat
  refresh : Option Nat
  ownDeparture : Bool
deriving DecidableEq, Repr

/-- The Run List (R133, R135). -/
structure RunList where
  runs : List Run
  frontMark : Nat
deriving DecidableEq, Repr

/-! ### Departure Controller -/

/-- The release in progress (R154). `demand` is the model's own: the run's demand when the release began, since a RUN
may change it meanwhile (R137; log 19). -/
structure Release where
  run : Nat
  fleet : Nat
  lane : Nat
  pos : Nat
  timer : Nat
  demand : Demand
deriving DecidableEq, Repr

/-- The phase of a shunt order (R154). -/
inductive ShuntPhase where
  | atFrom | between
deriving DecidableEq, Repr

/-- A shunt order (R154). -/
structure ShuntOrder where
  fleet : Nat
  run : Nat
  fromLane : Nat
  fromPos : Nat
  fromBerth : Nat
  target : Nat
  toBerth : Nat
  reserved : Bool
  phase : ShuntPhase
  attempts : Nat
  timer : Nat
deriving DecidableEq, Repr

/-- The Departure Controller (R154). Shunt orders stand in order of issue or reissue, the latest last (R176). A
shunt-failed mark is a lane and the handle of the record it names. -/
structure Departures where
  lastExit : Option Nat
  release : Option Release
  shunts : List ShuntOrder
  failed : List (Nat × Nat)
deriving DecidableEq, Repr

/-! ### Orders and alerts -/

/-- The outcome of a survey at one lane: lane, outcome code, positions as a set of bits (R207). -/
structure SurveyOutcome where
  lane : Nat
  outcome : Nat
  positions : Nat
deriving DecidableEq, Repr

/-- What the order in execution waits for (R206). -/
inductive OrderWork where
  | survey (waiting : List Nat) (outcomes : List SurveyOutcome)
  | restart (answerLeft : Bool)
deriving DecidableEq, Repr

/-- The order in execution (R206). -/
structure Order where
  station : Nat
  tag : Nat
  work : OrderWork
deriving DecidableEq, Repr

/-- The alerts (R211). -/
inductive AlertCode where
  | configBad | configClamped | stationClash | linkCongested | laneSuspect | stray | mispark | noBerth
  | entryOverflow | busTableFull | washStageTimeout | frostHold | chargerFault | runListFull | runLate
  | shuntFailed | releaseTimeout | doubleDeparture
deriving DecidableEq, Repr

/-- An entry of the alert list (R212); `time = none` is UNSET. -/
structure AlertEntry where
  code : AlertCode
  subject : Nat
  time : Option Nat
  acknowledged : Bool
deriving DecidableEq, Repr

/-- The Alert List (R212). -/
structure Alerts where
  entries : List AlertEntry
  full : Bool
deriving DecidableEq, Repr

/-! ### The yard link -/

/-- The answer codes (R183). -/
inductive AnswerCode where
  | done | refused | invalid | busy | notFound
deriving DecidableEq, Repr

/-- The notices a node sends (R183). -/
inductive Notice where
  | roll (ask : Bool) (description : Description) (maxima : PerGroup Nat)
  | draw (committed planned : PerGroup Nat)
  | feeder (group : Group) (state : FeederState) (hot : Bool)
  | parkCall (call : Call)
  | offer (caller seq cost : Nat)
  | take (caller seq lane cost : Nat)
  | found (fleet lane : Nat)
  | claim (run fleet cost : Nat)
  | depart (run fleet seconds : Nat)
  | late (run : Nat)
  | answer (station tag : Nat) (code : AnswerCode) (next : Nat) (payload : List Byte)
  | alert (code : AlertCode) (subject : Nat) (time : Option Nat)
deriving DecidableEq, Repr

/-- A frame of the send queue with its withdrawal count (R188); `ofRestart` marks the ANSWER of a RESTART (R209). -/
structure SendFrame where
  notice : Notice
  withdrawals : Nat
  ofRestart : Bool
deriving DecidableEq, Repr

/-- The two classes of the send queue (R188). -/
inductive FrameClass where
  | urgent | other
deriving DecidableEq, Repr

/-- The receiver (R181). -/
inductive Receiver where
  | waitIdle | ready | receiving
deriving DecidableEq, Repr

/-- The Link Controller (R186 to R189). `sending` names the class whose first frame is under way. -/
structure Link where
  urgent : List SendFrame
  other : List SendFrame
  sending : Option FrameClass
  latch : Bool
  receiver : Receiver
  idle : Nat
deriving DecidableEq, Repr

/-! ### Node, clock, inputs -/

/-- The node states (R201). -/
inductive NodeState where
  | loading | configFault | listen | run | mute
deriving DecidableEq, Repr

/-- The reset line (R202): held, with the instant at which it has been held for 1 s; or held that long already. While it
is held, `alert` is the level that the alert line keeps (R202, R213). -/
inductive ResetLine where
  | released
  | held (expiry : Nat) (alert : Bool)
  | heldLong (alert : Bool)
deriving DecidableEq, Repr

/-- The node as a whole (R201, R202, R205). -/
structure Node where
  state : NodeState
  listenTimer : Option Nat
  resetLine : ResetLine
deriving DecidableEq, Repr

/-- The Service Clock (R194). -/
structure Clock where
  time : Nat
  isSet : Bool
deriving DecidableEq, Repr

/-- The group-state and hot inputs of one group (R89). -/
structure GroupInput where
  state : FeederState
  hot : Bool
deriving DecidableEq, Repr

/-- The levels on the local lines: the occupied berth detectors as (lane, position), the occupied stage detectors,
the stop and temperature inputs and the feeder monitor's inputs (R17, R52, R60, R62, R89). -/
structure Inputs where
  berths : List (Nat × Nat)
  stages : List Nat
  stop : Bool
  temperature : Int
  groups : PerGroup GroupInput
deriving DecidableEq, Repr

/-! ### The whole -/

/-- The state of a D48 and its queue of waiting commands. -/
structure State where
  now : Nat
  node : Node
  clock : Clock
  inputs : Inputs
  cfg : NodeConfig
  link : Link
  lanes : List Lane
  buses : BusTable
  wash : Wash
  alloc : Allocator
  feeders : Feeders
  charging : Charging
  runs : RunList
  departures : Departures
  order : Option Order
  alerts : Alerts
  pending : List Instr
deriving DecidableEq, Repr

/-- The machine never faults: the spec gives every command an effect in every state (INVENTORY, Faults). -/
inductive Fault where
deriving DecidableEq, Repr

/-- Why a command is refused. -/
inductive Refusal where
  /-- Raised by an arm of `exec` whose command has no meaning yet, with its mnemonic; safe. No arm raises it now. -/
  | notModelled (mnemonic : String)
deriving DecidableEq, Repr

/-! ### Reset values -/

/-- The Link Controller after any start (R193). -/
def Link.reset : Link := ⟨[], [], none, false, .waitIdle, 0⟩

/-- The Wash Sequencer with nothing in it (R203). -/
def Wash.reset : Wash := ⟨.normal, [], none, none, false, none, false, []⟩

/-- The Berth Allocator after a cold start (R86). -/
def Allocator.reset : Allocator := ⟨0, .idle, [], [], none⟩

/-- A group record after any start (R103). -/
def GroupRec.reset : GroupRec := ⟨.unknown, false, 0, none⟩

/-- The Feeder Budget Unit after any start (R103). -/
def Feeders.reset : Feeders := ⟨⟨.reset, .reset, .reset⟩, [], none, none⟩

/-- The Departure Controller after a cold start (R178). -/
def Departures.reset : Departures := ⟨none, none, [], []⟩

/-- The input levels at power-on (DESIGN CHOICE, log 3). -/
def Inputs.reset : Inputs := ⟨[], [], false, 0, ⟨⟨.shed, false⟩, ⟨.shed, false⟩, ⟨.shed, false⟩⟩⟩

/-- The node right after power-on (R203): LOADING, every record empty, the clock UNSET at 0. -/
def State.reset : State where
  now := 0
  node := ⟨.loading, none, .released⟩
  clock := ⟨0, false⟩
  inputs := .reset
  cfg := .blank
  link := .reset
  lanes := []
  buses := ⟨[], 0, 0⟩
  wash := .reset
  alloc := .reset
  feeders := .reset
  charging := ⟨[], [], none⟩
  runs := ⟨[], 0⟩
  departures := .reset
  order := none
  alerts := ⟨[], false⟩
  pending := []

end Sys2Proof.Machine
end

