-- ==== Sys2Proof/Machine/Arith.lean ====
section
/-! DEFINITION. The manual's arithmetic (R1, R2, R36): rounding division, clamp, time-to-go, service value; sorting;
bytes of a multi-byte field; values per feeder group. -/

namespace Sys2Proof.Machine

/-- clamp(x, lo, hi) (R1). -/
def clamp (x lo hi : Nat) : Nat := if x < lo then lo else if hi < x then hi else x

/-- clamp on signed numbers (R1). -/
def clampInt (x lo hi : Int) : Int := if x < lo then lo else if hi < x then hi else x

/-- ceil(x / y) for y above 0 (R1). -/
def ceilDiv (x y : Nat) : Nat := (x + (y - 1)) / y

/-- Seconds in a day. -/
def daySeconds : Nat := 86400

/-- (x − y) mod 86 400 for clock seconds (R1). -/
def secondsBetween (x y : Nat) : Nat := (((x : Int) - (y : Int)) % 86400).toNat

/-- The time-to-go from the clock second `now` to the clock second `x` (R2). -/
def timeToGo (now x : Nat) : Int :=
  let d := secondsBetween x now
  if 72000 < d then (d : Int) - 86400 else d

/-- The service value of minute `m` with day-change minute `dayChange` (R36). -/
def serviceValue (dayChange m : Nat) : Nat := (((m : Int) - (dayChange : Int)) % 1440).toNat

/-- The distance of two numbers. -/
def absDiff (x y : Nat) : Nat := (x - y) + (y - x)

/-- Insert `x` before the first element that does not come strictly before it. -/
def insertBy {α : Type} (before : α → α → Bool) (x : α) : List α → List α
  | [] => [x]
  | y :: ys => if before y x then y :: insertBy before x ys else x :: y :: ys

/-- Stable sort by the strict order `before`. -/
def sortBy {α : Type} (before : α → α → Bool) : List α → List α
  | [] => []
  | x :: xs => insertBy before x (sortBy before xs)

/-- The least element by the strict order `before`, the earliest in the list among equals. -/
def firstBy {α : Type} (before : α → α → Bool) : List α → Option α
  | [] => none
  | x :: xs =>
    match firstBy before xs with
    | none => some x
    | some y => if before y x then some y else some x

/-- Lexicographic strict order on pairs of numbers: lower cost, then lower station (R74, R75, R77, R145 to R148). -/
def betterPair (x y : Nat × Nat) : Bool := x.1 < y.1 || (x.1 == y.1 && x.2 < y.2)

/-- The element at index `i` changed by `f`. -/
def updateAt {α : Type} (f : α → α) : Nat → List α → List α
  | _, [] => []
  | 0, x :: xs => f x :: xs
  | n + 1, x :: xs => x :: updateAt f n xs

/-- A list without its first element that satisfies `p`. -/
def removeFirst {α : Type} (p : α → Bool) : List α → List α
  | [] => []
  | x :: xs => if p x then xs else x :: removeFirst p xs

/-- The first two bytes of a number, most significant first (R180). -/
def be16 (n : Nat) : List Byte := [BitVec.ofNat 8 (n / 256), BitVec.ofNat 8 n]

/-- The first three bytes of a number, most significant first (R180). -/
def be24 (n : Nat) : List Byte := [BitVec.ofNat 8 (n / 65536), BitVec.ofNat 8 (n / 256), BitVec.ofNat 8 n]

/-- One byte. -/
def byte (n : Nat) : Byte := BitVec.ofNat 8 n

/-- A flags byte from its bits, bit 0 first (R183). -/
def flagBits : List Bool → Nat
  | [] => 0
  | b :: bs => b.toNat + 2 * flagBits bs

/-- Two bytes as a number, the first the more significant (R180). -/
def num16 (hi lo : Byte) : Nat := hi.toNat * 256 + lo.toNat

/-- The value of group `g`. -/
def groupGet {α : Type} (p : PerGroup α) : Group → α
  | .a => p.a
  | .b => p.b
  | .c => p.c

/-- The value of group `g` replaced. -/
def groupSet {α : Type} (p : PerGroup α) (g : Group) (x : α) : PerGroup α :=
  match g with
  | .a => { p with a := x }
  | .b => { p with b := x }
  | .c => { p with c := x }

/-- A value for each group. -/
def groupMake {α : Type} (f : Group → α) : PerGroup α := ⟨f .a, f .b, f .c⟩

/-- The groups in the order A, B, C (R114). -/
def allGroups : List Group := [.a, .b, .c]

/-- The code of a group (R183). -/
def groupCode : Group → Nat
  | .a => 1
  | .b => 2
  | .c => 3

end Sys2Proof.Machine
end

