-- ==== Sys2Proof/Machine/Operands.lean ====
section
/-! DEFINITION. The operand forms of the commands: the ranges of the fields of a notice (R183, R184) and the argument
bytes of an order (R207). -/

namespace Sys2Proof.Machine

/-! ### Field ranges (R183) -/

def okRun (n : Nat) : Bool := 1 ≤ n && n ≤ 999
def okFleet (n : Nat) : Bool := 1 ≤ n && n ≤ 9999
def okMinute (n : Nat) : Bool := n ≤ 1439
def okSecond (n : Nat) : Bool := n ≤ 86399
def okStation (n : Nat) : Bool := n ≤ 31
def okPeer (n : Nat) : Bool := 1 ≤ n && n ≤ 31
def okByte (n : Nat) : Bool := n ≤ 255
def okKilowatts (n : Nat) : Bool := n ≤ 4000
def okLane (n : Nat) : Bool := 1 ≤ n && n ≤ 8
def okPosition (n : Nat) : Bool := 1 ≤ n && n ≤ 6
def okBerth (n : Nat) : Bool := 1 ≤ n && n ≤ 99
/-- The cost of an OFFER or a TAKE; 4 095 is NO_FIT. -/
def okCost (n : Nat) : Bool := n ≤ 4094
/-- The cost of a CLAIM, a withdrawal included (R149). -/
def okClaimCost (n : Nat) : Bool := n ≤ 4095
def okAllowance (n : Nat) : Bool := n ≤ 6000

def okDemand : Demand → Bool
  | .fleet n => okFleet n
  | .ofClass _ => true

/-- A field that its flag bit may mark absent: tested only when present (R183). -/
def okOptional (ok : Nat → Bool) : Option Nat → Bool
  | none => true
  | some n => ok n

/-- The cost that withdraws a claim, NO_FIT (R149). -/
def noFit : Nat := 4095

/-! ### The argument bytes of an order (R207) -/

/-- No argument. -/
def args0 : List Byte → Option Unit
  | [] => some ()
  | _ => none

/-- One argument byte in a range. -/
def args1 (ok : Nat → Bool) : List Byte → Option Nat
  | [x] => if ok x.toNat then some x.toNat else none
  | _ => none

/-- Two argument bytes, each in a range. -/
def args11 (ok₁ ok₂ : Nat → Bool) : List Byte → Option (Nat × Nat)
  | [x, y] => if ok₁ x.toNat && ok₂ y.toNat then some (x.toNat, y.toNat) else none
  | _ => none

/-- One argument of two bytes in a range. -/
def args2 (ok : Nat → Bool) : List Byte → Option Nat
  | [x, y] => if ok (num16 x y) then some (num16 x y) else none
  | _ => none

/-- SURVEY: a lane 0 to 8. -/
def surveyArgs (l : List Byte) : Option Nat := args1 (fun n => n ≤ 8) l

/-- IDENTIFY: lane, position, fleet. -/
def identifyArgs : List Byte → Option (Nat × Nat × Nat)
  | [x, y, h, l] =>
    if okLane x.toNat && okPosition y.toNat && okFleet (num16 h l) then some (x.toNat, y.toNat, num16 h l) else none
  | _ => none

/-- LANE_OPEN and LANE_CLOSE: a lane. -/
def laneArgs (l : List Byte) : Option Nat := args1 okLane l

/-- LANE_KIND: a lane and a kind. -/
def laneKindArgs (l : List Byte) : Option (Nat × LaneKind) :=
  match args11 okLane (fun n => n == 1 || n == 2) l with
  | some (lane, k) => some (lane, if k == 1 then .deadEnd else .through)
  | none => none

/-- WASH_SKIP, HOLD, UNHOLD: a fleet. -/
def fleetArgs (l : List Byte) : Option Nat := args2 okFleet l

/-- The mask of bits 0 to 2 (R207). -/
def maskOfNat (n : Nat) : Mask := ⟨n % 2 == 1, n / 2 % 2 == 1, n / 4 % 2 == 1⟩

/-- FEED: a berth and a mask. -/
def feedArgs (l : List Byte) : Option (Nat × Mask) :=
  match args11 okBerth (fun n => n ≤ 7) l with
  | some (berth, m) => some (berth, maskOfNat m)
  | none => none

/-- FORGET: a station. -/
def forgetArgs (l : List Byte) : Option Nat := args1 okPeer l

/-- ACK: an alert code 0 to 18 and a subject, which is not examined with code 0 (R207, R213; DEDUCED, log 39). -/
def ackArgs : List Byte → Option (Nat × Nat)
  | [x, h, l] => if x.toNat ≤ 18 && (x.toNat == 0 || num16 h l ≤ 9999) then some (x.toNat, num16 h l) else none
  | _ => none

/-- REPORT: a subject and a start index. -/
def reportArgs (l : List Byte) : Option (Nat × Nat) := args11 (fun n => 1 ≤ n && n ≤ 7) okByte l

/-- The order kinds that R207 lists. -/
def okOrderKind (n : Nat) : Bool := 1 ≤ n && n ≤ 14

/-- The header of an ORDER that passes R184 and whose body holds at most 32 bytes (R180, R183). -/
def okOrderFrame (sender tag : Nat) (args : List Byte) : Bool :=
  okStation sender && okByte tag && args.length ≤ 29

end Sys2Proof.Machine
end

