-- ==== Sys2Proof/WellFormed.lean ====
section
/-! DEFINITION. Which commands are well formed: every operand lies in the range its rule gives it. A notice out of
range is a frame that R184 discards; a well-formed order may still be answered INVALID. -/

namespace Sys2Proof

open Machine

/-- Every operand of the command lies in its range. -/
def Instr.wellFormed : Instr → Bool
  | .powerOn => true
  | .resetLineAsserted => true
  | .resetHoldExpiry => true
  | .resetLineReleased => true
  | .configReadComplete image => image.length == 512
  | .listenTimerExpiry => true
  | .laneReaderReading lane _ fleet _ => okLane lane && fleet ≤ 65535
  | .berthDetectorChange lane pos _ => okLane lane && okPosition pos
  | .berthSettleExpiry lane pos => okLane lane && okPosition pos
  | .surveyPeriodEnd lane => okLane lane
  | .entryReaderReading fleet => fleet ≤ 65535
  | .bypassReaderReading fleet => fleet ≤ 65535
  | .stageDetectorChange stage _ => 1 ≤ stage && stage ≤ 4
  | .entryCallTimeout => true
  | .spinupExpiry stage => 1 ≤ stage && stage ≤ 4
  | .dwellExpiry stage => 1 ≤ stage && stage ≤ 4
  | .runonExpiry stage => 1 ≤ stage && stage ≤ 4
  | .advanceTimeout stage => 1 ≤ stage && stage ≤ 4
  | .stopInputAsserted => true
  | .stopInputCleared => true
  | .temperatureReading _ => true
  | .frostClearExpiry => true
  | .callTimerExpiry => true
  | .unplacedRetryExpiry fleet => okFleet fleet
  | .offerWindowExpiry caller => okPeer caller
  | .takeWaitExpiry => true
  | .takeWatchExpiry fleet => okFleet fleet
  | .transitTimeout fleet => okFleet fleet
  | .connectionReport berth _ => okBerth berth
  | .disconnectReport berth => okBerth berth
  | .faultReport berth => okBerth berth
  | .meterPulse berth => okBerth berth
  | .chargerSettleExpiry berth => okBerth berth
  | .rampTimerExpiry berth => okBerth berth
  | .turnBoundary => true
  | .planHoldExpiry => true
  | .drawTimerExpiry => true
  | .freshnessTimerExpiry station => okPeer station
  | .feederInputChange _ _ _ => true
  | .feederRefreshExpiry _ => true
  | .claimWindowExpiry rn => okRun rn
  | .claimRefreshExpiry rn => okRun rn
  | .claimPeriodEntry rn => okRun rn
  | .shuntLeadReached rn => okRun rn
  | .shuntTimerExpiry fleet => okFleet fleet
  | .releaseLeadReached rn => okRun rn
  | .releaseTimerExpiry => true
  | .gracePassed rn => okRun rn
  | .exitGapHolds => true
  | .roll sender _ _ _ lanes berths chargers maxA maxB maxC =>
      okStation sender && okLane lanes && (1 ≤ berths && berths ≤ 48) && chargers ≤ 48
        && okKilowatts maxA && okKilowatts maxB && okKilowatts maxC
  | .draw sender comA comB comC planA planB planC =>
      okStation sender && okKilowatts comA && okKilowatts comB && okKilowatts comC
        && okKilowatts planA && okKilowatts planB && okKilowatts planC
  | .feeder sender _ _ _ => okStation sender
  | .clock sender seconds => sender == 0 && okSecond seconds
  | .run sender rn pullOut route demand allowance =>
      sender == 0 && okRun rn && okMinute pullOut && okByte route && okDemand demand && okAllowance allowance
  | .runCancel sender rn => sender == 0 && okRun rn
  | .clearRuns sender => sender == 0
  | .parkCall sender seq fleet _ route pullOut _ =>
      okStation sender && okByte seq && okFleet fleet && okOptional okByte route && okOptional okMinute pullOut
  | .offer sender caller seq cost => okStation sender && okPeer caller && okByte seq && okCost cost
  | .take sender caller seq lane cost =>
      okStation sender && okPeer caller && okByte seq && okLane lane && okCost cost
  | .found sender fleet lane => okStation sender && okFleet fleet && okLane lane
  | .claim sender rn fleet cost => okStation sender && okRun rn && okFleet fleet && okClaimCost cost
  | .depart sender rn fleet seconds => okStation sender && okRun rn && okFleet fleet && okSecond seconds
  | .late sender rn => okStation sender && okRun rn
  | .answerOrAlertHeard sender kind body =>
      okStation sender && ((kind == 16 && 4 ≤ body.length && body.length ≤ 32) || (kind == 17 && body.length == 6))
  | .frameRejected bytes => bytes.length ≤ 37
  | .frameAbandoned _ => true
  | .frameSendStart => true
  | .frameWithdrawn => true
  | .frameSent => true
  | .ackButtonPress => true
  | .survey sender tag args => okOrderFrame sender tag args
  | .identify sender tag args => okOrderFrame sender tag args
  | .laneOpen sender tag args => okOrderFrame sender tag args
  | .laneClose sender tag args => okOrderFrame sender tag args
  | .laneKind sender tag args => okOrderFrame sender tag args
  | .washSkip sender tag args => okOrderFrame sender tag args
  | .washResume sender tag args => okOrderFrame sender tag args
  | .hold sender tag args => okOrderFrame sender tag args
  | .unhold sender tag args => okOrderFrame sender tag args
  | .feed sender tag args => okOrderFrame sender tag args
  | .forget sender tag args => okOrderFrame sender tag args
  | .ack sender tag args => okOrderFrame sender tag args
  | .report sender tag args => okOrderFrame sender tag args
  | .restart sender tag args => okOrderFrame sender tag args
  | .restartAnswerLeft => true
  | .orderUnknownKind sender tag kind args => okOrderFrame sender tag args && okByte kind && !okOrderKind kind
  | .idleOf10BitTimes => true
  | .orderForAnotherStation sender target tag kind args =>
      okOrderFrame sender tag args && okStation target && okByte kind

end Sys2Proof
end

