-- ==== Sys2Proof/Machine/Flags.lean ====
section
/-! DEFINITION. The views: every state, flag, count and signal that the manual defines by other stored values is
computed here, once (R5 to R8, R36, R37, R47, R50, R51, R90, R95, R97, R107, R114, R117, R134, R155 to R158, R213). -/

namespace Sys2Proof.Machine

/-! ### Node states -/

/-- The node takes local events and notices: LISTEN, RUN or MUTE (R200, R201). -/
def State.active (s : State) : Bool :=
  match s.node.state with
  | .listen => true
  | .run => true
  | .mute => true
  | .loading => false
  | .configFault => false

/-- The node is in RUN (R201). -/
def State.inRun (s : State) : Bool := s.node.state == .run

/-- The node is in RUN or MUTE: the states of releases, lateness and shunts (R177), in MUTE also where no RUN came before
it (DESIGN CHOICE, log 50). -/
def State.runOrMute (s : State) : Bool := s.node.state == .run || s.node.state == .mute

/-- The node is in LISTEN or RUN: the states in which blocks queue notices (R192). -/
def State.listenOrRun (s : State) : Bool := s.node.state == .listen || s.node.state == .run

/-- The receiver delivers a notice: LISTEN, RUN or MUTE, and the reset line not held (R192, R202). -/
def State.hears (s : State) : Bool := s.active && s.node.resetLine == .released

/-- The node reads the line and may drive it: LISTEN, RUN, MUTE or CONFIG_FAULT, and the reset line not held (R192, R200,
R202). -/
def State.mayDrive (s : State) : Bool :=
  s.node.resetLine == .released && (s.active || s.node.state == .configFault)

/-- The receiver takes the frame that now completes: it was not ignoring the line (R181). -/
def State.takesFrame (s : State) : Bool := s.hears && s.link.receiver != .waitIdle

/-- A timer has run out at instant `now`: its expiry takes effect, and one that was overtaken by a stop or a restart of the
timer does not (log 6). -/
def expired (now : Nat) : Option Nat → Bool
  | some e => e ≤ now
  | none => false

/-- A frame of `sender` passes the own-station test of R184. -/
def State.fromPeer (s : State) (sender : Nat) : Bool := sender != s.cfg.station

/-! ### Bus records -/

/-- The lane and position at which a record stands (R30). -/
def Bus.berth? (b : Bus) : Option (Nat × Nat) :=
  match b.place with
  | .parked l p => some (l, p)
  | .shunting l p => some (l, p)
  | .released l p => some (l, p)
  | .queued => none
  | .washing _ => none
  | .apron _ _ => none
  | .transit _ _ _ _ => none
  | .shuntingBetween => none

def Bus.isParked (b : Bus) : Bool := match b.place with | .parked _ _ => true | _ => false
def Bus.isReleased (b : Bus) : Bool := match b.place with | .released _ _ => true | _ => false
def Bus.isTransit (b : Bus) : Bool := match b.place with | .transit _ _ _ _ => true | _ => false
def Bus.isApron (b : Bus) : Bool := match b.place with | .apron _ _ => true | _ => false

/-- A placeholder has no fleet (R29). -/
def Bus.isPlaceholder (b : Bus) : Bool := b.fleet == none

/-- The record of a fleet (R30: at most one). -/
def State.busOf (s : State) (fleet : Nat) : Option Bus := s.buses.records.find? (fun b => b.fleet == some fleet)

/-- The record at a lane position (R30: at most one). -/
def State.occupant (s : State) (lane pos : Nat) : Option Bus :=
  s.buses.records.find? (fun b => b.berth? == some (lane, pos))

/-- The bus table has room (R32). -/
def State.tableRoom (s : State) : Bool := s.buses.records.length < 64

/-! ### Lanes -/

/-- The lane record of a lane number (R3). -/
def State.laneOf (s : State) (lane : Nat) : Option Lane := s.lanes.find? (fun l => l.number == lane)

/-- The berth count n (R3). -/
def Lane.size (l : Lane) : Nat := l.conf.berths.length

/-- The positions of a lane, 1 to n (R3). -/
def Lane.positions (l : Lane) : List Nat := (List.range l.size).map (· + 1)

/-- The occupied positions of a lane, ascending (R5). -/
def State.occupiedPositions (s : State) (l : Lane) : List Nat :=
  l.positions.filter (fun p => (s.occupant l.number p).isSome)

/-- The leaving position: k of a DEAD_END lane, f of a THROUGH lane (R5). -/
def State.leavingPos (s : State) (l : Lane) : Option Nat := (s.occupiedPositions l).head?

/-- The rear-most occupied position (b of a THROUGH lane, R5). -/
def State.rearPos (s : State) (l : Lane) : Option Nat := (s.occupiedPositions l).getLast?

/-- The record at the leaving position (R5). -/
def State.leavingBus (s : State) (l : Lane) : Option Bus :=
  match s.leavingPos l with
  | some p => s.occupant l.number p
  | none => none

/-- The entry-most occupied position: k of a DEAD_END lane, b of a THROUGH lane (R10, R72). -/
def State.entryMost (s : State) (l : Lane) : Option Nat :=
  match l.kind with
  | .deadEnd => s.leavingPos l
  | .through => s.rearPos l

/-- The entry room of a lane (R5). -/
def State.entryRoom (s : State) (l : Lane) : Nat :=
  match l.kind, s.entryMost l with
  | _, none => l.size
  | .deadEnd, some k => k - 1
  | .through, some b => l.size - b

/-- The entry position of a lane, when it has entry room (R5). -/
def State.entryPos (s : State) (l : Lane) : Option Nat :=
  match l.kind, s.entryMost l with
  | .deadEnd, none => some l.size
  | .through, none => some 1
  | .deadEnd, some k => if 1 < k then some (k - 1) else none
  | .through, some b => if b < l.size then some (b + 1) else none

/-- The lane states (R7). -/
inductive LaneState where
  | ready | suspect | closed
deriving DecidableEq, Repr

/-- The state of a lane (R7). -/
def Lane.state (l : Lane) : LaneState :=
  if l.closed then .closed else if l.suspect then .suspect else .ready

/-- Reserved count plus held count (R3). -/
def Lane.promisedCount (l : Lane) : Nat := l.reservations.length + l.holds.length

/-- The lane is READY and has room for one more promise (R8). -/
def State.laneHasRoom (s : State) (l : Lane) : Bool := l.state == .ready && l.promisedCount < s.entryRoom l

/-- The level of a berth's detector (R17). -/
def State.detector (s : State) (lane pos : Nat) : Bool := s.inputs.berths.contains (lane, pos)

/-- The recorded state of a berth: occupied or not (R17). -/
def State.recorded (s : State) (lane pos : Nat) : Bool := (s.occupant lane pos).isSome

/-- The berth agrees (R17). -/
def State.agrees (s : State) (lane pos : Nat) : Bool := s.detector lane pos == s.recorded lane pos

/-- The berth number of a position (R3). -/
def Lane.berthAt (l : Lane) (pos : Nat) : Nat := (l.conf.berths[pos - 1]?).getD 0

/-- The class set contains the class (R6). -/
def classHas (c : ClassSet) : BusClass → Bool
  | .midi => c.midi
  | .standard => c.standard
  | .artic => c.artic

/-- The first of ARTIC, STANDARD, MIDI in the set (R21, R29). -/
def placeholderClass (c : ClassSet) : BusClass :=
  if c.artic then .artic else if c.standard then .standard else .midi

/-- The route window takes the route; a bus with no route is taken by ALL alone (R6). -/
def windowTakes (window : Option (Nat × Nat)) (route : Option Nat) : Bool :=
  match window, route with
  | none, _ => true
  | some _, none => false
  | some (base, span), some r => r == 255 || (base ≤ r && r < base + span)

/-! ### Service values, runs, readiness -/

/-- The service value of a minute at this node (R36). -/
def State.service (s : State) (minute : Nat) : Nat := serviceValue s.cfg.dayChange minute

/-- The service value of a pull-out, the spare ready minute standing in for none (R36). -/
def State.serviceOf (s : State) (pullOut : Option Nat) : Nat := s.service (pullOut.getD s.cfg.spareReady)

/-- The service value of a record (R36). -/
def State.busService (s : State) (b : Bus) : Nat := s.serviceOf b.pullOut

/-- The record of a run number (R133). -/
def State.runOf (s : State) (n : Nat) : Option Run := s.runs.runs.find? (fun r => r.run == n)

/-- The bound record of a run: the record that names it (R133, R140). -/
def State.boundTo (s : State) (n : Nat) : Option Bus := s.buses.records.find? (fun b => b.run == some n)

/-- The holding states (R134). -/
def RunState.holding : RunState → Bool
  | .pending => true
  | .claiming => true
  | .claimedElsewhere => true
  | .mine => true
  | .late => false
  | .departed => false
  | .lapsed => false
  | .cancelled => false

/-- A wildcard run wants a class (R133). -/
def Run.isWildcard (r : Run) : Bool := match r.demand with | .ofClass _ => true | .fleet _ => false

/-- A run of this node: MINE, or LATE with the own mark (R134). -/
def Run.ours (r : Run) : Bool := r.state == .mine || (r.state == .late && r.ownMark)

/-- The departure front: the lowest-numbered run in a holding state (R155). -/
def State.front (s : State) : Option Nat := (s.runs.runs.find? (fun r => r.state.holding)).map (·.run)

/-- The time-to-go of a run (R133, R156). -/
def State.runTimeToGo (s : State) (r : Run) : Int := timeToGo s.clock.time (r.pullOut * 60)

/-- The claim period of a wildcard run (R142). -/
def State.inClaimPeriod (s : State) (r : Run) : Bool :=
  s.cfg.wildcard && s.clock.isSet && r.isWildcard
    && decide (-((s.cfg.lateGrace * 60 : Nat) : Int) < s.runTimeToGo r)
    && decide (s.runTimeToGo r ≤ ((s.cfg.claimLead * 60 : Nat) : Int))

/-- Shunt lead reached (R156). -/
def State.shuntLeadReached (s : State) (r : Run) : Bool :=
  s.clock.isSet && decide (s.runTimeToGo r ≤ ((s.cfg.shuntLead * 60 : Nat) : Int))

/-- Release lead reached (R156). -/
def State.releaseLeadReached (s : State) (r : Run) : Bool :=
  s.clock.isSet && decide (s.runTimeToGo r ≤ ((s.cfg.releaseLead * 60 : Nat) : Int))

/-- Grace passed (R156). -/
def State.gracePassed (s : State) (r : Run) : Bool :=
  s.clock.isSet && decide (s.runTimeToGo r ≤ -((s.cfg.lateGrace * 60 : Nat) : Int))

/-- The exit gap holds (R165). -/
def State.exitGapHolds (s : State) : Bool :=
  match s.departures.lastExit with
  | none => true
  | some x => s.cfg.exitGap ≤ secondsBetween s.clock.time x

/-- The record is ready for a run of this allowance (R37). -/
def Bus.readyFor (b : Bus) (allowance : Nat) : Bool :=
  match b.need with
  | some n => n ≤ allowance
  | none => allowance == 6000

/-- The shortfall of a record for a run of this allowance (R37). -/
def Bus.shortfall (b : Bus) (allowance : Nat) : Nat :=
  if b.readyFor allowance then 0 else b.need.getD 6000 - allowance

/-- The records between a position and the leaving position of its lane that are spares or depart later than `v` (R157). -/
def State.blockers (s : State) (lane pos v : Nat) : List Bus :=
  s.buses.records.filter (fun x =>
    match x.berth? with
    | some (l, p) => l == lane && p < pos && (x.pullOut == none || v < s.busService x)
    | none => false)

/-- The record stands at the leaving position of its lane (R157). -/
def State.atLeaving (s : State) (b : Bus) : Bool :=
  match b.berth? with
  | some (l, p) =>
    match s.laneOf l with
    | some lane => s.leavingPos lane == some p
    | none => false
  | none => false

/-! ### Wash lane -/

/-- The QUEUED records not called, latest departure first, then earlier arrival first (R47). -/
def State.washQueue (s : State) : List Bus :=
  sortBy (fun x y => s.busService y < s.busService x || (s.busService x == s.busService y && x.seq < y.seq))
    (s.buses.records.filter (fun b => b.place == .queued && b.fleet != s.wash.called))

/-- The number of records that count with the queue, the called record included (R44). -/
def State.queueCount (s : State) : Nat := (s.buses.records.filter (fun b => b.place == .queued)).length

/-- The apron has room (R48). -/
def State.apronRoom (s : State) : Bool := s.wash.apron.length + s.wash.promised.toNat < 4

/-- The record in a wash stage (R51). -/
def State.stageBus (s : State) (stage : Nat) : Option Bus :=
  s.buses.records.find? (fun b => b.place == .washing stage)

/-- The state of a stage (R51). -/
def State.stageState (s : State) (stage : Nat) : StageState :=
  match s.wash.stages[stage - 1]? with
  | some st => st.state
  | none => .empty

/-- The level of a stage's detector (R52). -/
def State.stageDetector (s : State) (stage : Nat) : Bool := s.inputs.stages.contains stage

/-- A stage is free (R52). -/
def State.stageFree (s : State) (stage : Nat) : Bool :=
  (s.stageState stage == .empty || s.stageState stage == .runon) && !s.stageDetector stage

/-- The number of stages in use at this node: the stage count with a wash lane, none without (R43). -/
def State.stageCount (s : State) : Nat := if s.cfg.washLane then s.cfg.stageCount else 0

/-- The four states of the wash lane (R50). -/
inductive WashState where
  | idle | running | frostHold | stopped
deriving DecidableEq, Repr

/-- The state of the wash lane (R50). -/
def State.washState (s : State) : WashState :=
  match s.wash.mode with
  | .frostHold => .frostHold
  | .stopped => .stopped
  | .normal => if s.wash.stages.any (fun st => st.state != .empty) || s.wash.called.isSome then .running else .idle

/-- The entry signal is green (R51, R202). -/
def State.entrySignal (s : State) : Bool :=
  s.active && s.node.resetLine == .released && s.wash.called.isSome && s.wash.mode != .stopped

/-- The signal of a stage is green (R51, R202). -/
def State.stageSignal (s : State) (stage : Nat) : Bool :=
  s.active && s.node.resetLine == .released && s.wash.mode != .stopped && s.stageState stage == .leaving

/-- The equipment of a stage runs (R51, R202). -/
def State.equipmentRuns (s : State) (stage : Nat) : Bool :=
  s.active && s.node.resetLine == .released && s.wash.mode != .stopped
    && s.stageState stage != .empty && s.stageState stage != .fault

/-! ### Feeder groups -/

/-- UNKNOWN is taken as SHED by every rule (R88). -/
def GroupState.effective : GroupState → FeederState
  | .unknown => .shed
  | .told st => st

/-- The group's state, UNKNOWN counting as SHED (R88, R114). -/
def State.groupState (s : State) (g : Group) : FeederState := (groupGet s.feeders.groups g).state.effective

/-- The effective cap E (R90). -/
def State.effectiveCap (s : State) (g : Group) : Nat :=
  let c := groupGet s.cfg.groups g
  let r := groupGet s.feeders.groups g
  let base := match r.state.effective with | .shed => c.shedCap | _ => c.cap
  let duty := if r.hot then min c.duty c.hotDuty else c.duty
  base * duty / 16

/-- The assumed draw of a peer in a group (R95). -/
def StationEntry.assumed (e : StationEntry) (g : Group) : Nat :=
  if e.fresh.isSome then max (groupGet e.committed g) (groupGet e.planned g) else groupGet e.maxima g

/-- The sum P of the assumed draws (R97). -/
def State.peerSum (s : State) (g : Group) : Nat := (s.feeders.stations.map (fun e => e.assumed g)).sum

/-- The available figure (R97); 0 outside RUN. -/
def State.available (s : State) (g : Group) : Nat :=
  if s.inRun then clamp (s.effectiveCap g - s.peerSum g) 0 (groupGet s.cfg.groups g).limit else 0

/-- The more permissive of two states, in the order OPEN, PEAK, SHED (R114). -/
def morePermissive : FeederState → FeederState → FeederState
  | .opened, _ => .opened
  | _, .opened => .opened
  | .peak, _ => .peak
  | _, .peak => .peak
  | .shed, .shed => .shed

/-- The effective state under a mask (R114). -/
def effectiveUnder (st : Group → FeederState) (m : Mask) : FeederState :=
  (allGroups.filter (groupGet m)).foldl (fun acc g => morePermissive acc (st g)) .shed

/-- The drawing group under a mask: the first group of the mask in the effective state (R114). -/
def drawingUnder (st : Group → FeederState) (m : Mask) : Group :=
  (allGroups.find? (fun g => groupGet m g && st g == effectiveUnder st m)).getD .a

/-- The ceiling in an effective state (R117). -/
def ceilingIn (c : ChargerConfig) : FeederState → Nat
  | .opened => c.pmax
  | .peak => match c.peak with | .full => c.pmax | .floor => c.floor | .pause => 0
  | .shed => match c.shed with | .floor => c.floor | .pause => 0

/-- The effective state of a charger (R114). -/
def State.effectiveState (s : State) (c : Charger) : FeederState := effectiveUnder s.groupState c.mask

/-- The drawing group of a charger (R114). -/
def State.drawingGroup (s : State) (c : Charger) : Group := drawingUnder s.groupState c.mask

/-- The ceiling of a charger (R117). -/
def State.ceiling (s : State) (c : Charger) : Nat := ceilingIn c.conf (s.effectiveState c)

/-- The chargers drawing from a group (R114). -/
def State.drawers (s : State) (g : Group) : List Charger :=
  s.charging.chargers.filter (fun c => s.drawingGroup c == g)

/-- The committed total of a group (R87). -/
def State.committed (s : State) (g : Group) : Nat := ((s.drawers g).map (·.target)).sum

/-- The planned total of a group: the sum of the planned targets (R100; log 14). -/
def State.plannedTotal (s : State) (g : Group) : Nat := ((s.drawers g).map (·.planned)).sum

/-- The node's declared maximum for a group (R93). -/
def State.declared (s : State) (g : Group) : Nat :=
  min (groupGet s.cfg.groups g).limit
    ((s.charging.chargers.filter (fun c => groupGet c.mask g)).map (fun c => c.conf.pmax)).sum

/-! ### Chargers -/

/-- The charger of a berth (R105). -/
def State.chargerOf (s : State) (berth : Nat) : Option Charger :=
  s.charging.chargers.find? (fun c => c.berth == berth)

/-- The record at a charger's berth (R6). -/
def State.chargerBus (s : State) (c : Charger) : Option Bus := s.occupant c.lane c.pos

/-- The need of a charger: the record's while one stands at the berth, the session need otherwise (R106). -/
def State.chargerNeed (s : State) (c : Charger) : Option Nat :=
  match s.chargerBus c with
  | some b => b.need
  | none => c.session

/-- The eight states of a charger (R107). -/
inductive ChargerState where
  | idle | settling | full | held | waiting | ramping | drawing | fault
deriving DecidableEq, Repr

/-- The state of a charger (R107). -/
def State.chargerState (s : State) (c : Charger) : ChargerState :=
  match c.phase with
  | .idle => .idle
  | .settling _ => .settling
  | .fault => .fault
  | .connected =>
    if s.chargerNeed c == some 0 then .full
    else if s.ceiling c == 0 then .held
    else if c.target == 0 then .waiting
    else if c.present < c.target then .ramping
    else .drawing

/-- The power a charger link is driven with: its present; 0 outside LISTEN, RUN and MUTE and while the reset line is
held (R105, R129, R200, R202). -/
def State.linkPower (s : State) (c : Charger) : Nat :=
  if s.active && s.node.resetLine == .released then c.present else 0

/-! ### Departure, alerts, link -/

/-- The exit signal of a lane is green (R154, R202). -/
def State.exitSignal (s : State) (lane : Nat) : Bool :=
  s.active && s.node.resetLine == .released
    && (match s.departures.release with | some r => r.lane == lane | none => false)

/-- The order the shunt display shows: the one issued or reissued last (R176). -/
def State.shuntDisplay (s : State) : Option ShuntOrder := s.departures.shunts.getLast?

/-- The shunt order of a fleet (R154). -/
def State.shuntOf (s : State) (fleet : Nat) : Option ShuntOrder :=
  s.departures.shunts.find? (fun o => o.fleet == fleet)

/-- The alert list asks for the alert line (R213). -/
def Alerts.assert (a : Alerts) : Bool := a.full || a.entries.any (fun e => !e.acknowledged)

/-- The alert line is asserted: as the alert list asks, and at its kept level while the reset line is held (R202, R213). -/
def State.alertLine (s : State) : Bool :=
  match s.node.resetLine with
  | .released => s.alerts.assert
  | .held _ level => level
  | .heldLong level => level

/-- The number of frames in the send queue (R188). -/
def Link.size (l : Link) : Nat := l.urgent.length + l.other.length

/-- The class of the frame at the head of the send queue: the frame under way, or the first urgent one, or the first
other one (R188). -/
def Link.headClass (l : Link) : Option FrameClass :=
  match l.sending with
  | some c => some c
  | none =>
    match l.urgent, l.other with
    | _ :: _, _ => some .urgent
    | [], _ :: _ => some .other
    | [], [] => none

/-- The frames of one class (R188). -/
def Link.frames (l : Link) : FrameClass → List SendFrame
  | .urgent => l.urgent
  | .other => l.other

/-- The frame at the head of the send queue (R188). -/
def Link.head? (l : Link) : Option SendFrame :=
  match l.headClass with
  | some c => (l.frames c).head?
  | none => none

/-- The frames of a class that wait: all but the one under way (R189). -/
def Link.waiting (l : Link) (c : FrameClass) : List SendFrame :=
  if l.sending == some c then (l.frames c).tail else l.frames c

end Sys2Proof.Machine
end

