-- ==== Sys2Proof/Machine/Wire.lean ====
section
/-! DEFINITION. Frames on the yard link: the levels on the line (R179), the layout of each notice kind (R180, R183), the
check (R182), the acceptance tests on a completed frame (R184), the reading of a frame as a command (R183, R207), and the
access gap (R186). -/

namespace Sys2Proof.Machine

/-! ### The line (R179); `true` is high -/

/-- A byte on the line: a low start bit, the data bits with the most significant first, a high stop bit. -/
def byteLevels (b : Byte) : List Bool :=
  [false, b.getLsbD 7, b.getLsbD 6, b.getLsbD 5, b.getLsbD 4, b.getLsbD 3, b.getLsbD 2, b.getLsbD 1, b.getLsbD 0, true]

/-- The bytes of a frame on the line, with no idle bit time between them. -/
def frameLevels (bytes : List Byte) : List Bool := bytes.flatMap byteLevels

/-- The level of the line under what the stations drive: high when no station drives it low. -/
def lineLevel (drives : List Bool) : Bool := drives.all id

/-- The bit time in µs for the line rate of R196. -/
def bitMicros (rate : Nat) : Nat := match rate with | 1 => 16 | 2 => 8 | _ => 4

/-- The bit times in one second. -/
def bitsPerSecond (rate : Nat) : Nat := 1000000 / bitMicros rate

/-- The bit, counted from 0, at which a station that drives `own` against `other` first reads a level that it does not
drive: there it withdraws (R187). -/
def withdrawsAt (own other : List Bool) : Option Nat :=
  ((own.zip other).map (fun p => lineLevel [p.1, p.2] != p.1)).findIdx? id

/-! ### The check (R182) -/

/-- Addition of 16-bit words with an end-around carry. -/
def addCarry (x y : Nat) : Nat := if 65536 ≤ x + y then x + y - 65535 else x + y

/-- Bytes in pairs, the first the higher; an odd last byte is paired with zero. -/
def wordsOf : List Byte → List Nat
  | [] => []
  | [x] => [x.toNat * 256]
  | x :: y :: rest => num16 x y :: wordsOf rest

/-- The end-around sum of some words. -/
def sumWords (ws : List Nat) : Nat := ws.foldl addCarry 0

/-- The check that covers some bytes: the complement of their sum. -/
def checkOf (bytes : List Byte) : Nat := 65535 - sumWords (wordsOf bytes)

/-- A frame's bytes before its check pass with this check. -/
def checkPasses (bytes : List Byte) (check : Nat) : Bool := addCarry (sumWords (wordsOf bytes)) check == 65535

/-! ### Coded values (R183) -/

def classCode : BusClass → Nat
  | .midi => 1
  | .standard => 2
  | .artic => 3

def feederCode : FeederState → Nat
  | .opened => 1
  | .peak => 2
  | .shed => 3

/-- A demand: a fleet, or FF01h to FF03h. -/
def demandCode : Demand → Nat
  | .fleet n => n
  | .ofClass c => 0xFF00 + classCode c

def answerCode : AnswerCode → Nat
  | .done => 1
  | .refused => 2
  | .invalid => 3
  | .busy => 4
  | .notFound => 5

/-- The alert codes (R211). -/
def alertCode : AlertCode → Nat
  | .configBad => 1
  | .configClamped => 2
  | .stationClash => 3
  | .linkCongested => 4
  | .laneSuspect => 5
  | .stray => 6
  | .mispark => 7
  | .noBerth => 8
  | .entryOverflow => 9
  | .busTableFull => 10
  | .washStageTimeout => 11
  | .frostHold => 12
  | .chargerFault => 13
  | .runListFull => 14
  | .runLate => 15
  | .shuntFailed => 16
  | .releaseTimeout => 17
  | .doubleDeparture => 18

/-- The kind code of a notice (R183). -/
def Notice.kind : Notice → Nat
  | .roll _ _ _ => 0x01
  | .draw _ _ => 0x02
  | .feeder _ _ _ => 0x03
  | .parkCall _ => 0x08
  | .offer _ _ _ => 0x09
  | .take _ _ _ _ => 0x0A
  | .found _ _ => 0x0B
  | .claim _ _ _ => 0x0C
  | .depart _ _ _ => 0x0D
  | .late _ => 0x0E
  | .answer _ _ _ _ _ => 0x10
  | .alert _ _ _ => 0x11

/-- The body of a notice (R183). -/
def Notice.body : Notice → List Byte
  | .roll ask d m =>
      [byte (flagBits [ask, d.wash, d.bypass]), byte d.lanes, byte d.berths, byte d.chargers]
        ++ be16 m.a ++ be16 m.b ++ be16 m.c
  | .draw c p => be16 c.a ++ be16 c.b ++ be16 c.c ++ be16 p.a ++ be16 p.b ++ be16 p.c
  | .feeder g st hot => [byte (groupCode g), byte (feederCode st), byte hot.toNat]
  | .parkCall c =>
      [byte c.seq] ++ be16 c.fleet
        ++ [byte (classCode c.cls), byte (flagBits [c.route.isSome, c.pullOut.isSome, c.washed]), byte (c.route.getD 0)]
        ++ be16 (c.pullOut.getD 0)
  | .offer caller seq cost => [byte caller, byte seq] ++ be16 cost
  | .take caller seq lane cost => [byte caller, byte seq, byte lane] ++ be16 cost
  | .found fleet lane => be16 fleet ++ [byte lane]
  | .claim n fleet cost => be16 n ++ be16 fleet ++ be16 cost
  | .depart n fleet seconds => be16 n ++ be16 fleet ++ be24 seconds
  | .late n => be16 n
  | .answer station tag code next payload => [byte station, byte tag, byte (answerCode code), byte next] ++ payload
  | .alert code subject time => [byte (alertCode code)] ++ be16 subject ++ be24 (time.getD 0xFFFFFF)

/-- The bytes of a frame before its check (R180). -/
def Notice.unchecked (station : Nat) (n : Notice) : List Byte :=
  [byte station, byte n.kind, byte n.body.length] ++ n.body

/-- The bytes of a frame as sent (R180, R182). -/
def Notice.wire (station : Nat) (n : Notice) : List Byte :=
  n.unchecked station ++ be16 (checkOf (n.unchecked station))

/-- The urgent kinds: FEEDER, TAKE, DEPART and LATE (R186). -/
def Notice.isUrgent : Notice → Bool
  | .feeder _ _ _ => true
  | .take _ _ _ _ => true
  | .depart _ _ _ => true
  | .late _ => true
  | .roll _ _ _ => false
  | .draw _ _ => false
  | .parkCall _ => false
  | .offer _ _ _ => false
  | .found _ _ => false
  | .claim _ _ _ => false
  | .answer _ _ _ _ _ => false
  | .alert _ _ _ => false

def Notice.isDraw : Notice → Bool
  | .draw _ _ => true
  | _ => false

def Notice.isRoll : Notice → Bool
  | .roll _ _ _ => true
  | _ => false

/-- The send class of a notice (R188). -/
def Notice.frameClass (n : Notice) : FrameClass := if n.isUrgent then .urgent else .other

/-- The idle bit times a station waits before this frame (R186). -/
def Notice.gap (station : Nat) (n : Notice) : Nat := (if n.isUrgent then 40 else 64) + 2 * station

/-! ### Acceptance of a completed frame (R184) -/

/-- The body lengths of a kind, least and greatest (R183). -/
def kindLengths (kind : Nat) : Option (Nat × Nat) :=
  match kind with
  | 0x01 => some (10, 10)
  | 0x02 => some (12, 12)
  | 0x03 => some (3, 3)
  | 0x04 => some (3, 3)
  | 0x05 => some (9, 9)
  | 0x06 => some (2, 2)
  | 0x07 => some (0, 0)
  | 0x08 => some (8, 8)
  | 0x09 => some (4, 4)
  | 0x0A => some (5, 5)
  | 0x0B => some (3, 3)
  | 0x0C => some (6, 6)
  | 0x0D => some (7, 7)
  | 0x0E => some (2, 2)
  | 0x0F => some (3, 32)
  | 0x10 => some (4, 32)
  | 0x11 => some (6, 6)
  | _ => none

/-- The byte at an offset of a body. -/
def bodyByte (body : List Byte) (i : Nat) : Nat := ((body[i]?).getD 0).toNat

/-- The two-byte field at an offset of a body. -/
def body16 (body : List Byte) (i : Nat) : Nat := bodyByte body i * 256 + bodyByte body (i + 1)

/-- The three-byte field at an offset of a body. -/
def body24 (body : List Byte) (i : Nat) : Nat := bodyByte body i * 65536 + body16 body (i + 1)

/-- Every field of a body lies in the range the notice table gives it (R183, R184). -/
def fieldsOk (kind : Nat) (body : List Byte) : Bool :=
  match kind with
  | 0x01 => okLane (bodyByte body 1) && (1 ≤ bodyByte body 2 && bodyByte body 2 ≤ 48) && bodyByte body 3 ≤ 48
      && [4, 6, 8].all (fun i => okKilowatts (body16 body i))
  | 0x02 => [0, 2, 4, 6, 8, 10].all (fun i => okKilowatts (body16 body i))
  | 0x03 => (1 ≤ bodyByte body 0 && bodyByte body 0 ≤ 3) && (1 ≤ bodyByte body 1 && bodyByte body 1 ≤ 3)
      && bodyByte body 2 ≤ 1
  | 0x04 => okSecond (body24 body 0)
  | 0x05 => okRun (body16 body 0) && okMinute (body16 body 2)
      && (okFleet (body16 body 5) || (0xFF01 ≤ body16 body 5 && body16 body 5 ≤ 0xFF03))
      && okAllowance (body16 body 7)
  | 0x06 => okRun (body16 body 0)
  | 0x07 => true
  | 0x08 => okFleet (body16 body 1) && (1 ≤ bodyByte body 3 && bodyByte body 3 ≤ 3)
      && (bodyByte body 4 / 2 % 2 == 0 || okMinute (body16 body 6))
  | 0x09 => okPeer (bodyByte body 0) && okCost (body16 body 2)
  | 0x0A => okPeer (bodyByte body 0) && okLane (bodyByte body 2) && okCost (body16 body 3)
  | 0x0B => okFleet (body16 body 0) && okLane (bodyByte body 2)
  | 0x0C => okRun (body16 body 0) && okFleet (body16 body 2) && okClaimCost (body16 body 4)
  | 0x0D => okRun (body16 body 0) && okFleet (body16 body 2) && okSecond (body24 body 4)
  | 0x0E => okRun (body16 body 0)
  | 0x0F => okStation (bodyByte body 0)
  | 0x10 => okStation (bodyByte body 0) && (1 ≤ bodyByte body 2 && bodyByte body 2 ≤ 5)
  | 0x11 => body16 body 1 ≤ 9999 && (okSecond (body24 body 3) || body24 body 3 == 0xFFFFFF)
  | _ => false

/-- The kinds that only station 0 may send: CLOCK, RUN, RUN_CANCEL, CLEAR_RUNS (R184). -/
def officeOnly (kind : Nat) : Bool := kind == 0x04 || kind == 0x05 || kind == 0x06 || kind == 0x07

/-- A completed frame, given as all its bytes, is accepted by station `own` (R184). -/
def frameAccepted (own : Nat) (bytes : List Byte) : Bool :=
  match bytes with
  | station :: kind :: length :: rest =>
    rest.length == length.toNat + 2
      && checkPasses (bytes.take (3 + length.toNat)) (body16 rest length.toNat)
      && okStation station.toNat
      && (match kindLengths kind.toNat with
          | some (lo, hi) => lo ≤ length.toNat && length.toNat ≤ hi
          | none => false)
      && fieldsOk kind.toNat (rest.take length.toNat)
      && (station.toNat == 0 || !officeOnly kind.toNat)
      && (station.toNat != own || kind.toNat == 0x01 || kind.toNat == 0x02)
  | _ => false

/-! ### Reading a frame (R183, R207) -/

/-- The named value of a code, the last standing for every code above the others (R183). -/
def classOfCode (n : Nat) : BusClass := match n with | 1 => .midi | 2 => .standard | _ => .artic
def stateOfCode (n : Nat) : FeederState := match n with | 1 => .opened | 2 => .peak | _ => .shed
def groupOfCode (n : Nat) : Group := match n with | 1 => .a | 2 => .b | _ => .c

/-- A demand of R183: a class code FF01h to FF03h, or a fleet. -/
def demandOfCode (n : Nat) : Demand := if 0xFF00 ≤ n then .ofClass (classOfCode (n - 0xFF00)) else .fleet n

/-- Bit `i` of a flags byte; the bits that the kind does not use are not examined (R183). -/
def bodyFlag (body : List Byte) (i : Nat) : Bool := bodyByte body 0 / 2 ^ i % 2 == 1

/-- The order that an order kind of R207 names. -/
def orderOfKind (kind sender tag : Nat) (args : List Byte) : Instr :=
  match kind with
  | 0x01 => .survey sender tag args
  | 0x02 => .identify sender tag args
  | 0x03 => .laneOpen sender tag args
  | 0x04 => .laneClose sender tag args
  | 0x05 => .laneKind sender tag args
  | 0x06 => .washSkip sender tag args
  | 0x07 => .washResume sender tag args
  | 0x08 => .hold sender tag args
  | 0x09 => .unhold sender tag args
  | 0x0A => .feed sender tag args
  | 0x0B => .forget sender tag args
  | 0x0C => .ack sender tag args
  | 0x0D => .report sender tag args
  | 0x0E => .restart sender tag args
  | kind => .orderUnknownKind sender tag kind args

/-- The ORDER that a body spells at station `own` (R183, R206, R207). -/
def readOrder (own sender : Nat) (body : List Byte) : Instr :=
  let target := bodyByte body 0
  let tag := bodyByte body 1
  let kind := bodyByte body 2
  if target == own then orderOfKind kind sender tag (body.drop 3)
  else .orderForAnotherStation sender target tag kind (body.drop 3)

/-- The PARK_CALL that a body spells: a field whose flag bit is clear is absent and not examined (R183). -/
def readParkCall (sender : Nat) (body : List Byte) : Instr :=
  let flag := bodyFlag (body.drop 4)
  .parkCall sender (bodyByte body 0) (body16 body 1) (classOfCode (bodyByte body 3))
    (if flag 0 then some (bodyByte body 5) else none) (if flag 1 then some (body16 body 6) else none) (flag 2)

/-- The command that a kind byte and a body spell at station `own` (R183). -/
def readBody (own sender kind : Nat) (body : List Byte) : Instr :=
  match kind with
  | 0x01 => .roll sender (bodyFlag body 0) (bodyFlag body 1) (bodyFlag body 2) (bodyByte body 1) (bodyByte body 2)
      (bodyByte body 3) (body16 body 4) (body16 body 6) (body16 body 8)
  | 0x02 => .draw sender (body16 body 0) (body16 body 2) (body16 body 4) (body16 body 6) (body16 body 8) (body16 body 10)
  | 0x03 => .feeder sender (groupOfCode (bodyByte body 0)) (stateOfCode (bodyByte body 1)) (bodyByte body 2 == 1)
  | 0x04 => .clock sender (body24 body 0)
  | 0x05 => .run sender (body16 body 0) (body16 body 2) (bodyByte body 4) (demandOfCode (body16 body 5)) (body16 body 7)
  | 0x06 => .runCancel sender (body16 body 0)
  | 0x07 => .clearRuns sender
  | 0x08 => readParkCall sender body
  | 0x09 => .offer sender (bodyByte body 0) (bodyByte body 1) (body16 body 2)
  | 0x0A => .take sender (bodyByte body 0) (bodyByte body 1) (bodyByte body 2) (body16 body 3)
  | 0x0B => .found sender (body16 body 0) (bodyByte body 2)
  | 0x0C => .claim sender (body16 body 0) (body16 body 2) (body16 body 4)
  | 0x0D => .depart sender (body16 body 0) (body16 body 2) (body24 body 4)
  | 0x0E => .late sender (body16 body 0)
  | 0x0F => readOrder own sender body
  | kind => .answerOrAlertHeard sender kind body

/-- The command that a completed frame spells at station `own`: none for a frame that fails a test of R184 (R180, R183). -/
def readFrame (own : Nat) (bytes : List Byte) : Option Instr :=
  match bytes with
  | station :: kind :: length :: rest =>
    if frameAccepted own bytes then some (readBody own station.toNat kind.toNat (rest.take length.toNat)) else none
  | _ => none

/-- The command as which a station hears this notice of another (R183). -/
def Notice.heardAs (station : Nat) : Notice → Instr
  | .roll ask d m => .roll station ask d.wash d.bypass d.lanes d.berths d.chargers m.a m.b m.c
  | .draw c p => .draw station c.a c.b c.c p.a p.b p.c
  | .feeder g st hot => .feeder station g st hot
  | .parkCall c => .parkCall station c.seq c.fleet c.cls c.route c.pullOut c.washed
  | .offer caller seq cost => .offer station caller seq cost
  | .take caller seq lane cost => .take station caller seq lane cost
  | .found fleet lane => .found station fleet lane
  | .claim n fleet cost => .claim station n fleet cost
  | .depart n fleet seconds => .depart station n fleet seconds
  | .late n => .late station n
  | .answer station' tag code next payload =>
    .answerOrAlertHeard station 0x10 (Notice.answer station' tag code next payload).body
  | .alert code subject time => .answerOrAlertHeard station 0x11 (Notice.alert code subject time).body

end Sys2Proof.Machine
end

