-- ==== Sys2Proof/Machine/Ops.lean ====
section
/-! DEFINITION. The named operations over the state that every block shares: one update per block, the records looked
up by their key, the send queue (R188 to R190), and the raising of an alert (R212). -/

namespace Sys2Proof.Machine

/-! ### One update per block -/

def State.setNow (s : State) (x : Nat) : State := { s with now := x }
def State.setNode (s : State) (x : Node) : State := { s with node := x }
def State.setClock (s : State) (x : Clock) : State := { s with clock := x }
def State.setInputs (s : State) (x : Inputs) : State := { s with inputs := x }
def State.setCfg (s : State) (x : NodeConfig) : State := { s with cfg := x }
def State.setLink (s : State) (x : Link) : State := { s with link := x }
def State.setLanes (s : State) (x : List Lane) : State := { s with lanes := x }
def State.setBuses (s : State) (x : BusTable) : State := { s with buses := x }
def State.setWash (s : State) (x : Wash) : State := { s with wash := x }
def State.setAlloc (s : State) (x : Allocator) : State := { s with alloc := x }
def State.setFeeders (s : State) (x : Feeders) : State := { s with feeders := x }
def State.setCharging (s : State) (x : Charging) : State := { s with charging := x }
def State.setRuns (s : State) (x : RunList) : State := { s with runs := x }
def State.setDepartures (s : State) (x : Departures) : State := { s with departures := x }
def State.setOrder (s : State) (x : Option Order) : State := { s with order := x }
def State.setAlerts (s : State) (x : Alerts) : State := { s with alerts := x }
def State.setPending (s : State) (x : List Instr) : State := { s with pending := x }

/-! ### Records by their key -/

/-- The lane record of a number changed. -/
def State.updateLane (lane : Nat) (f : Lane → Lane) (s : State) : State :=
  s.setLanes (s.lanes.map (fun l => if l.number == lane then f l else l))

/-- The bus record of a handle changed. -/
def State.updateBus (id : Nat) (f : Bus → Bus) (s : State) : State :=
  s.setBuses { s.buses with records := s.buses.records.map (fun b => if b.id == id then f b else b) }

/-- The place of a bus record changed (R31). -/
def State.setPlace (id : Nat) (p : Place) (s : State) : State := s.updateBus id (fun b => { b with place := p })

/-- The run record of a number changed. -/
def State.updateRun (n : Nat) (f : Run → Run) (s : State) : State :=
  s.setRuns { s.runs with runs := s.runs.runs.map (fun r => if r.run == n then f r else r) }

/-- The charger record of a berth changed. -/
def State.updateCharger (berth : Nat) (f : Charger → Charger) (s : State) : State :=
  s.setCharging { s.charging with chargers := s.charging.chargers.map (fun c => if c.berth == berth then f c else c) }

/-- A wash stage changed. -/
def State.setStage (stage : Nat) (st : StageState) (timer : Option Nat) (s : State) : State :=
  s.setWash { s.wash with stages := updateAt (fun _ => ⟨st, timer⟩) (stage - 1) s.wash.stages }

/-! ### Alert list (R212) -/

/-- An alert list with a new entry stored, or the list-full flag set (R212). -/
def Alerts.store (e : AlertEntry) (a : Alerts) : Alerts :=
  if a.entries.length < 16 then { a with entries := a.entries ++ [e] }
  else if a.entries.any (·.acknowledged) then
    { a with entries := removeFirst (fun x => x.acknowledged) a.entries ++ [e] }
  else { a with full := true }

/-- The time an alert carries: the clock's, or UNSET (R194, R212). -/
def State.stamp (s : State) : Option Nat := if s.clock.isSet then some s.clock.time else none

/-- The entry of an alert stored, with no notice (R212). -/
def State.storeAlert (code : AlertCode) (subject : Nat) (s : State) : State :=
  s.setAlerts (s.alerts.store ⟨code, subject, s.stamp, false⟩)

/-! ### Send queue (R188, R189) -/

/-- A frame put at the tail of its class (R188). -/
def Link.push (f : SendFrame) (l : Link) : Link :=
  match f.notice.frameClass with
  | .urgent => { l with urgent := l.urgent ++ [f] }
  | .other => { l with other := l.other ++ [f] }

/-- The first DRAW of some frames takes a new notice and keeps its withdrawal count (R189). -/
def replaceDraw (n : Notice) : List SendFrame → List SendFrame
  | [] => []
  | f :: fs => if f.notice.isDraw then { f with notice := n } :: fs else f :: replaceDraw n fs

/-- A DRAW of the node waits in the queue (R189). -/
def Link.drawWaits (l : Link) : Bool := (l.waiting .other).any (fun f => f.notice.isDraw)

/-- A ROLL of the node waits in the queue (R93). -/
def Link.rollWaits (l : Link) : Bool := (l.waiting .other).any (fun f => f.notice.isRoll)

/-- The waiting DRAW replaced (R189). -/
def Link.replaceWaitingDraw (n : Notice) (l : Link) : Link :=
  if l.sending == some .other then { l with other := l.other.take 1 ++ replaceDraw n l.other.tail }
  else { l with other := replaceDraw n l.other }

/-- The RESTART in execution learns that its answer has left the queue (R209). -/
def State.answerLeft (s : State) : State :=
  match s.order with
  | some o =>
    match o.work with
    | .restart _ => s.setOrder (some { o with work := .restart true })
    | .survey _ _ => s
  | none => s

/-- A frame that is dropped or discarded: only a RESTART's answer matters (R209). -/
def State.frameLost (f : SendFrame) (s : State) : State := if f.ofRestart then s.answerLeft else s

/-- A frame dropped on a full queue: the latch is set, and LINK_CONGESTED is stored when it goes from clear to set. Its
own ALERT would be offered to the full queue and dropped (R188). -/
def State.dropOnFull (f : SendFrame) (s : State) : State :=
  if s.link.latch then s.frameLost f
  else ((s.setLink { s.link with latch := true }).storeAlert .linkCongested f.notice.kind).frameLost f

/-- A frame offered to the send queue: taken in, replacing a waiting DRAW, or dropped on a full queue; discarded
outside LISTEN and RUN (R188, R189, R192). -/
def State.offerFrame (f : SendFrame) (s : State) : State :=
  if s.listenOrRun then
    if f.notice.isDraw && s.link.drawWaits then s.setLink (s.link.replaceWaitingDraw f.notice)
    else if s.link.size < 16 then s.setLink (s.link.push f)
    else s.dropOnFull f
  else s.frameLost f

/-- A notice queued (R190). -/
def State.send (n : Notice) (s : State) : State := s.offerFrame ⟨n, 0, false⟩

/-- An alert raised: its entry is stored and its ALERT notice is queued (R212). -/
def State.raise (code : AlertCode) (subject : Nat) (s : State) : State :=
  (s.storeAlert code subject).send (.alert code subject s.stamp)

/-- The whole send queue emptied, with no alert; a RESTART whose answer is in it is dropped with it (R188, R191, R209). -/
def State.emptyQueue (s : State) : State :=
  let held := (s.link.urgent ++ s.link.other).any (fun f => f.ofRestart)
  let s := s.setLink { s.link with urgent := [], other := [], sending := none, latch := false }
  match s.order with
  | some o =>
    match o.work with
    | .restart _ => if held then s.setOrder none else s
    | .survey _ _ => s
  | none => s

/-! ### The receiver (R181) -/

/-- No frame is under way on the line, so that the node counts idle bit times (R186). -/
def State.lineIdle (s : State) : Bool := s.mayDrive && s.link.sending.isNone && s.link.receiver != .receiving

/-- The line has been idle for `bits` more bit times, 10 or more: they are counted, and the receiver is ready for the next
start bit (R181, R186). -/
def State.idleFor (bits : Nat) (s : State) : State :=
  if s.lineIdle then s.setLink { s.link with idle := s.link.idle + bits, receiver := .ready } else s

/-- The line is idle and the gap of the frame at the head of the queue is at most `bits` (R186). -/
def State.gapWithin (bits : Nat) (s : State) : Bool :=
  s.lineIdle && (match s.link.head? with | some f => f.notice.gap s.cfg.station ≤ bits | none => false)

/-- The idle count has reached the gap of the head frame (R186). -/
def State.gapReached (s : State) : Bool := s.gapWithin s.link.idle

/-- The gap of the head frame is reached before the next ten bit times are counted, so that the instant at which the count
reaches it may be now (R186; log 10). -/
def State.gapAtHand (s : State) : Bool := s.gapWithin (s.link.idle + 9)

/-- After a frame on the line the receiver ignores it until it has been idle for 10 bit times, and the idle count starts
from 0 (R181, R186). -/
def State.frameEnded (s : State) : State := s.setLink { s.link with receiver := .waitIdle, idle := 0 }

end Sys2Proof.Machine
end

