-- ==== Sys2Proof/Machine/Buses.lean ====
section
/-! DEFINITION. The Bus Table's own operations (R28 to R33, R38): creation, class bands, the need, freeing a record. -/

namespace Sys2Proof.Machine

/-- The class of a fleet by the configured bands (R29). -/
def State.classOfFleet (s : State) (fleet : Nat) : BusClass :=
  if fleet < s.cfg.firstStandard then .midi else if fleet < s.cfg.firstArtic then .standard else .artic

/-- The arrival sequences replaced by 1, 2, 3 … in their order (R32). -/
def renumber (bs : List Bus) : List Bus :=
  bs.map (fun b => { b with seq := (bs.filter (fun x => x.seq < b.seq)).length + 1 })

/-- A record appended with the next arrival sequence; its need is absent and its hold clear (R32). The caller has
tested the room. -/
def State.addBus (fleet : Option Nat) (kind : PlaceholderKind) (cls : BusClass) (place : Place) (washed : Bool)
    (s : State) : State :=
  let full := 65535 ≤ s.buses.counter
  let olds := if full then renumber s.buses.records else s.buses.records
  let next := (if full then olds.length else s.buses.counter) + 1
  let b : Bus := ⟨s.buses.nextId, fleet, kind, cls, place, washed, none, none, none, none, false, next⟩
  s.setBuses ⟨olds ++ [b], next, s.buses.nextId + 1⟩

/-- A named record created from a reading (R29, R32). -/
def State.addNamed (fleet : Nat) (place : Place) (s : State) : State :=
  s.addBus (some fleet) .named (s.classOfFleet fleet) place false

/-- A record taken out of the table, with no other effect. -/
def State.removeBus (id : Nat) (s : State) : State :=
  s.setBuses { s.buses with records := s.buses.records.filter (fun b => b.id != id) }

/-- Run, pull-out and route become absent together (R141). -/
def State.freeBus (id : Nat) (s : State) : State :=
  s.updateBus id (fun b => { b with run := none, pullOut := none, route := none })

/-- The record takes the run with copies of its pull-out and route (R141). -/
def State.nameRun (id : Nat) (r : Run) (s : State) : State :=
  s.updateBus id (fun b => { b with run := some r.run, pullOut := some r.pullOut, route := some r.route })

/-- The need of a record set (R38). -/
def State.setNeed (id : Nat) (n : Nat) (s : State) : State := s.updateBus id (fun b => { b with need := some n })

/-- A charger that is not IDLE repeats its last report to the record that comes to its berth (R113). -/
def State.repeatNeed (lane pos : Nat) (s : State) : State :=
  match s.charging.chargers.find? (fun c => c.lane == lane && c.pos == pos), s.occupant lane pos with
  | some c, some b =>
    if c.phase == .idle then s
    else
      match c.session with
      | some n => s.setNeed b.id n
      | none => s
  | _, _ => s

end Sys2Proof.Machine
end

