-- ==== Sys2Proof/Machine/Lanes.lean ====
section
/-! DEFINITION. The Lane Monitor's shared operations (R8, R14, R18, R19): the suspect mark, settle states, holds and
reservations, the room test. -/

namespace Sys2Proof.Machine

/-! ### Suspect mark (R19) -/

/-- The suspect mark set, with no alert (R10, R21). -/
def State.markSuspect (lane : Nat) (s : State) : State := s.updateLane lane (fun l => { l with suspect := true })

/-- The suspect mark set by a reader or detector cause: LANE_SUSPECT when it was clear (R19). -/
def State.suspectLane (lane : Nat) (s : State) : State :=
  match s.laneOf lane with
  | some l => if l.suspect then s else (s.markSuspect lane).raise .laneSuspect lane
  | none => s

/-! ### Settle states (R18) -/

/-- The next settle state of a berth that now agrees or disagrees; `byEvent` tells a primary event from a detector
change, and `expiry` is the end of a settle time started now (R18). -/
def nextSettle (agree byEvent : Bool) (expiry : Nat) : BerthSettle → BerthSettle
  | .quiet => if agree then .quiet else if byEvent then .awaitDetector expiry else .awaitEvent expiry
  | .awaitEvent e => if agree then .quiet else .awaitEvent e
  | .awaitDetector e => if agree then .quiet else .awaitDetector e
  | .mismatch => if agree then .quiet else .mismatch

/-- The settle state of a berth taken on by a change at it (R18). -/
def State.settleBerth (byEvent : Bool) (lane pos : Nat) (s : State) : State :=
  let next := nextSettle (s.agrees lane pos) byEvent (s.now + s.cfg.laneSettle)
  s.updateLane lane (fun l => { l with settle := updateAt next (pos - 1) l.settle })

/-! ### Holds and reservations (R8) -/

/-- A hold appended (R8). -/
def State.addHold (lane : Nat) (h : OfferHold) (s : State) : State :=
  s.updateLane lane (fun l => { l with holds := l.holds ++ [h] })

/-- A hold released (R8). -/
def State.releaseHold (lane : Nat) (h : OfferHold) (s : State) : State :=
  s.updateLane lane (fun l => { l with holds := removeFirst (fun x => x == h) l.holds })

/-- A reservation appended (R8). -/
def State.addReservation (lane : Nat) (r : Reservation) (s : State) : State :=
  s.updateLane lane (fun l => { l with reservations := l.reservations ++ [r] })

/-- A reservation released or consumed (R8, R11). -/
def State.releaseReservation (lane : Nat) (r : Reservation) (s : State) : State :=
  s.updateLane lane (fun l => { l with reservations := removeFirst (fun x => x == r) l.reservations })

/-- A hold converted into a TRANSIT reservation (R8). -/
def State.convertHold (lane : Nat) (h : OfferHold) (fleet : Nat) (s : State) : State :=
  (s.releaseHold lane h).addReservation lane ⟨.transit, fleet⟩

/-- Every reservation of a fleet released, in whatever lane (R12). -/
def State.dropReservations (fleet : Nat) (s : State) : State :=
  s.setLanes (s.lanes.map (fun l => { l with reservations := l.reservations.filter (fun r => r.fleet != fleet) }))

/-! ### The room test (R14) -/

/-- The fleet's transit record is marked "reservation lost" (R14, R84). -/
def State.markLost (fleet : Nat) (s : State) : State :=
  s.setBuses { s.buses with records := s.buses.records.map (fun b =>
    if b.fleet == some fleet then
      match b.place with
      | .transit lane start _ sent => { b with place := .transit lane start true sent }
      | _ => b
    else b) }

/-- The offer record of a cancelled hold is marked withdrawn (R74). -/
def State.markWithdrawn (h : OfferHold) (s : State) : State :=
  s.setAlloc { s.alloc with offers := s.alloc.offers.map (fun o =>
    if o.caller == h.caller && o.call.seq == h.seq then { o with withdrawn := true } else o) }

/-- The shunt order of a cancelled reservation runs on without it (R175). -/
def State.markUnreserved (fleet : Nat) (s : State) : State :=
  s.setDepartures { s.departures with shunts := s.departures.shunts.map (fun o =>
    if o.fleet == fleet then { o with reserved := false } else o) }

/-- One entry of a lane cancelled: the oldest TRANSIT reservation, else the oldest hold, else the oldest SHUNT
reservation (R14). -/
def State.cancelOne (l : Lane) (s : State) : State :=
  match l.reservations.find? (fun r => r.kind == .transit), l.holds, l.reservations with
  | some r, _, _ => (s.releaseReservation l.number r).markLost r.fleet
  | none, h :: _, _ => (s.releaseHold l.number h).markWithdrawn h
  | none, [], r :: _ => (s.releaseReservation l.number r).markUnreserved r.fleet
  | none, [], [] => s

/-- The room test: one entry is cancelled when reserved + held exceeds the entry room (R14). -/
def State.roomTest (lane : Nat) (s : State) : State :=
  match s.laneOf lane with
  | some l => if s.entryRoom l < l.promisedCount then s.cancelOne l else s
  | none => s

/-- The room test repeated until reserved + held is within the entry room (R14, R21); `n` bounds the entries. -/
def State.roomTests (lane : Nat) : Nat → State → State
  | 0, s => s
  | n + 1, s => State.roomTests lane n (s.roomTest lane)

/-! ### Shunt and offer requests (R8) -/

/-- A record put at a position of a lane as PARKED: a primary event for its berth (R11, R12, R18, R113). -/
def State.parkAt (id lane pos : Nat) (s : State) : State :=
  ((s.setPlace id (.parked lane pos)).repeatNeed lane pos).settleBerth true lane pos

end Sys2Proof.Machine
end

