-- ==== Sys2Proof/Machine/WashOps.lean ====
section
/-! DEFINITION. The Wash Sequencer's shared operations (R47 to R62): the apron list, stage changes, the tests for a
call and for room, FROST_HOLD and STOPPED. -/

namespace Sys2Proof.Machine

/-- The configured times of a stage (R43). -/
def State.stageTimes (s : State) (stage : Nat) : StageConfig := (s.cfg.stages[stage - 1]?).getD ⟨0, 0, 0⟩

/-- The record joins the apron list (R48); its unplaced mark is clear (R31). -/
def State.joinApron (id fleet : Nat) (s : State) : State :=
  (s.setPlace id (.apron false none)).setWash { s.wash with apron := s.wash.apron ++ [fleet] }

/-- A record moved from the queue to the end of the apron list, washed = no (R61, R64). -/
def State.joinUnwashed (id fleet : Nat) (s : State) : State :=
  (s.updateBus id (fun b => { b with place := .apron false none, washed := false })).setWash
    { s.wash with apron := s.wash.apron ++ [fleet] }

/-- A fleet leaves the apron list (R48). -/
def State.leaveApron (fleet : Nat) (s : State) : State :=
  s.setWash { s.wash with apron := s.wash.apron.filter (fun f => f != fleet) }

/-- The onward place of a stage is free (R52, R55). -/
def State.onwardFree (s : State) (stage : Nat) : Bool :=
  if stage == s.stageCount then s.apronRoom else s.stageFree (stage + 1)

/-- The stage signals its bus on; the last stage's bus is promised an apron place (R55). -/
def State.signalOn (stage : Nat) (s : State) : State :=
  let s' := s.setStage stage .leaving (some (s.now + s.cfg.advanceTimeout))
  if stage == s.stageCount then s'.setWash { s'.wash with promised := true } else s'

/-- A stage in DONE_WAIT whose onward place is free signals its bus on (R55). -/
def State.testOnward (stage : Nat) (s : State) : State :=
  if s.stageState stage == .doneWait && s.onwardFree stage then s.signalOn stage else s

/-- The onward test of stages `n` down to 1, so that apron room goes to the last stage first (R49, R55). -/
def State.testStages : Nat → State → State
  | 0, s => s
  | n + 1, s => State.testStages n (s.testOnward (n + 1))

/-- The queue head spills to the apron while there is room, in FROST_HOLD (R49, R61); `n` bounds the places. -/
def State.spill : Nat → State → State
  | 0, s => s
  | n + 1, s =>
    if s.wash.mode == .frostHold && s.apronRoom then
      match s.washQueue with
      | b :: _ =>
        match b.fleet with
        | some f => State.spill n (s.joinUnwashed b.id f)
        | none => s
      | [] => s
    else s

/-- The entry call (R53). -/
def State.testEntryCall (s : State) : State :=
  if s.wash.mode == .normal && s.stageFree 1 && s.wash.called == none then
    match s.washQueue with
    | b :: _ => s.setWash { s.wash with called := b.fleet, callTimer := some (s.now + s.cfg.advanceTimeout) }
    | [] => s
  else s

/-- The tests of the wash lane: apron room to the last stage, the other stages' onward places, the frost spill, the
entry call (R49, R53, R55, R61). Nothing is tested in STOPPED or at a node without a wash lane (R43, R62). -/
def State.washTests (s : State) : State :=
  if s.active && s.cfg.washLane && s.wash.mode != .stopped then ((s.testStages s.stageCount).spill 4).testEntryCall else s

/-- A stage whose bus has gone: RUNON, or EMPTY with a run-on time of 0 (R56); EMPTY in STOPPED (R62; log 15); out of
FAULT by R58. -/
def State.vacate (stage : Nat) (s : State) : State :=
  if s.stageState stage == .fault then
    if s.stageDetector stage then s.setStage stage .fault none else s.setStage stage .empty none
  else if s.wash.mode == .stopped then s.setStage stage .empty none
  else if (s.stageTimes stage).runon == 0 then s.setStage stage .empty none
  else s.setStage stage .runon (some (s.now + (s.stageTimes stage).runon))

/-- A stage enters DWELL (R55). -/
def State.enterDwell (stage : Nat) (s : State) : State :=
  s.setStage stage .dwell (some (s.now + (s.stageTimes stage).dwell))

/-- A stage takes SPINUP, or DWELL at once with a spin-up time of 0 (R54, R63). -/
def State.enterSpinup (stage : Nat) (s : State) : State :=
  if (s.stageTimes stage).spinup == 0 then s.enterDwell stage
  else s.setStage stage .spinup (some (s.now + (s.stageTimes stage).spinup))

/-- A record confirmed in a stage (R54, R56): SPINUP from EMPTY, DWELL from RUNON, held SPINUP in STOPPED (R57, R62). -/
def State.receiveInto (id stage : Nat) (s : State) : State :=
  let s := s.setPlace id (.washing stage)
  if s.wash.mode == .stopped then s.setStage stage .spinup none
  else if s.stageState stage == .runon then s.enterDwell stage
  else s.enterSpinup stage

/-- A stage as STOPPED holds it (R62). -/
def heldStage (st : Stage) : Stage :=
  match st.state with
  | .empty => ⟨.empty, none⟩
  | .runon => ⟨.empty, none⟩
  | .spinup => ⟨.spinup, none⟩
  | .dwell => ⟨.spinup, none⟩
  | .doneWait => ⟨.doneWait, none⟩
  | .leaving => ⟨.leaving, none⟩
  | .fault => ⟨.fault, none⟩

/-- The lane enters STOPPED; from STOPPED nothing changes (R62). -/
def State.enterStopped (s : State) : State :=
  if s.wash.mode == .stopped then s
  else s.setWash { s.wash with mode := .stopped, stages := s.wash.stages.map heldStage, callTimer := none }

/-- The lane enters FROST_HOLD when the frost flag is set in IDLE or RUNNING (R50). -/
def State.enterFrostHold (s : State) : State :=
  if s.wash.mode == .normal && s.wash.frost then
    (s.setWash { s.wash with mode := .frostHold }).raise .frostHold 0
  else s

/-- What the Wash Sequencer does when another block takes a record out of its queue, stages or apron list (R54, R59). -/
def State.leaveWash (b : Bus) (s : State) : State :=
  match b.place with
  | .queued =>
    if s.wash.called == b.fleet then s.setWash { s.wash with called := none, callTimer := none } else s
  | .washing stage =>
    let s :=
      if stage == s.stageCount && (s.stageState stage == .leaving || s.stageState stage == .fault) then
        s.setWash { s.wash with promised := false }
      else s
    s.vacate stage
  | .apron _ _ =>
    match b.fleet with
    | some f => s.leaveApron f
    | none => s
  | _ => s

end Sys2Proof.Machine
end

