-- ==== Sys2Proof/Machine/RunOps.lean ====
section
/-! DEFINITION. The Run List's shared operations (R135 to R150): binding, claims and their withdrawal, claim tests, the
front mark. -/

namespace Sys2Proof.Machine

/-! ### Front mark (R135, R155) -/

/-- The front mark raised to the departure front when that has moved since the state `before` and lies above it (R135,
R155); `before` is the state just before each change that can move the front. The front of a list that was empty has not
moved yet (log 16). -/
def State.raiseFront (s before : State) : State :=
  match s.front with
  | some n =>
    if before.front != some n && !before.runs.runs.isEmpty && s.runs.frontMark < n then
      s.setRuns { s.runs with frontMark := n }
    else s
  | none => s

/-- A run number is behind the front (R135). -/
def State.behindFront (s : State) (n : Nat) : Bool :=
  n < s.runs.frontMark
    || (n == s.runs.frontMark && !(match s.runOf n with | some r => r.state.holding | none => false))

/-! ### Claims (R143 to R150) -/

/-- A claim notice; none is sent outside RUN (R148, R150, R151). -/
def State.sendClaim (n fleet cost : Nat) (s : State) : State :=
  if s.inRun then s.send (.claim n fleet cost) else s

/-- The record may serve a wildcard run of this class, promise apart (R143). -/
def Bus.spareFor (b : Bus) (c : BusClass) : Bool :=
  b.isParked && !b.isPlaceholder && b.cls == c && b.run == none && !b.hold

/-- The record is the own claim of a run in CLAIMING (R143). -/
def State.promisedBus (s : State) (b : Bus) : Bool :=
  s.runs.runs.any (fun r => r.state == .claiming
    && (match r.claim with | some c => b.fleet == some c.fleet | none => false))

/-- The record is an eligible spare for the run (R143). -/
def State.eligibleSpare (s : State) (r : Run) (b : Bus) : Bool :=
  match r.demand with
  | .ofClass c => b.spareFor c && !s.promisedBus b
  | .fleet _ => false

/-- The cost of an eligible spare for a run (R144). -/
def State.spareCost (s : State) (r : Run) (b : Bus) : Nat :=
  match b.berth? with
  | some (lane, pos) =>
    let n := (s.blockers lane pos (s.service r.pullOut)).length
    if b.readyFor r.allowance then n * 100
    else 1000 + n * 100 + min (ceilDiv (b.shortfall r.allowance) 10) 99
  | none => 0

/-- The best eligible spare for a run as (cost, fleet): least cost, then lowest fleet (R144). -/
def State.bestSpare (s : State) (r : Run) : Option (Nat × Nat) :=
  firstBy betterPair
    ((s.buses.records.filter (s.eligibleSpare r)).map (fun b => (s.spareCost r b, b.fleet.getD 0)))

/-- The node claims the run with a spare (R146). -/
def State.claimRun (r : Run) (cost fleet : Nat) (s : State) : State :=
  (s.updateRun r.run (fun x =>
    { x with state := .claiming, claim := some ⟨fleet, cost⟩, window := some (s.now + s.cfg.claimWindow),
             heardOther := false })).send (.claim r.run fleet cost)

/-- A claim test of one run (R145). -/
def State.claimTest (n : Nat) (s : State) : State :=
  match s.runOf n with
  | none => s
  | some r =>
    if s.inRun && s.inClaimPeriod r then
      match r.state, s.bestSpare r with
      | .pending, some (cost, fleet) => s.claimRun r cost fleet
      | .claimedElsewhere, some (cost, fleet) =>
        match r.best with
        | some b => if betterPair (cost, s.cfg.station) (b.cost, b.station) then s.claimRun r cost fleet else s
        | none => s.claimRun r cost fleet
      | _, _ => s
    else s

/-- The run waits for claims: in its claim period, PENDING or CLAIMED_ELSEWHERE (R145). -/
def State.claimPlaced (s : State) (r : Run) : Bool :=
  s.inClaimPeriod r && (r.state == .pending || r.state == .claimedElsewhere)

/-- A claim test of the run is called for: it has come to wait for claims, has changed its state while it does, or has
gained an eligible spare, since the state `before` (R145). A CLOCK taken while it waits already is no new entry (DESIGN
CHOICE, log 45). -/
def State.claimCalled (before s : State) (r : Run) : Bool :=
  s.claimPlaced r &&
    ((match before.runOf r.run with
      | some old => !before.claimPlaced old || old.state != r.state
      | none => true)
    || s.buses.records.any (fun b => s.eligibleSpare r b
        && !before.buses.records.any (fun o => o.id == b.id && before.eligibleSpare r o)))

/-- The claim tests called for since `before`, with those of the runs `extra`, in ascending run number (R145). -/
def State.claimTests (before : State) (extra : List Nat) (s : State) : State :=
  let ns := (s.runs.runs.filter (fun r => extra.contains r.run || State.claimCalled before s r)).map (·.run)
  ns.foldl (fun s n => s.claimTest n) s

/-- The run of a number is listed and in its claim period (R142). -/
def State.periodOf (s : State) (n : Nat) : Bool := match s.runOf n with | some r => s.inClaimPeriod r | none => false

/-- The claim refresh timer of a run since the state `before` (R145): started at 60 s when the run comes to wait for claims,
in RUN, and stopped when it leaves PENDING and CLAIMED_ELSEWHERE, between which it goes on (DESIGN CHOICE, log 1), or its claim
period. A CLOCK does not stop it: a run that the new time puts outside its claim period keeps the timer that runs (R195;
DEDUCED, log 44). -/
def State.refreshOf (s before : State) (r : Run) : Option Nat :=
  if s.inRun && r.isWildcard && (r.state == .pending || r.state == .claimedElsewhere) then
    match s.inClaimPeriod r, before.periodOf r.run with
    | true, true => some (r.refresh.getD (s.now + 60))
    | true, false => some (s.now + 60)
    | false, true => if s.clock == before.clock then none else r.refresh
    | false, false => r.refresh
  else none

/-- The claim refresh timers since the state `before` (R145, R195). -/
def State.keepRefresh (s before : State) : State :=
  s.setRuns { s.runs with runs := s.runs.runs.map (fun r => { r with refresh := s.refreshOf before r }) }

/-- The state a run falls back to when its own claim goes: CLAIMED_ELSEWHERE with a best heard claim, else PENDING
(R150, R151, R152). -/
def Run.fallBack (r : Run) : Run :=
  { r with state := if r.best.isSome then .claimedElsewhere else .pending, claim := none, window := none }

/-- A CLAIMING run whose spare is no eligible spare any more is withdrawn (R150). -/
def State.withdrawClaim (n : Nat) (s : State) : State :=
  match s.runOf n with
  | none => s
  | some r =>
    match r.state, r.claim, r.demand with
    | .claiming, some c, .ofClass k =>
      if s.buses.records.any (fun b => b.fleet == some c.fleet && b.spareFor k) then s
      else (s.updateRun n Run.fallBack).sendClaim n c.fleet noFit
    | _, _, _ => s

/-- Every claim whose spare is gone is withdrawn (R150). -/
def State.withdrawClaims (s : State) : State :=
  (s.runs.runs.map (·.run)).foldl (fun s n => s.withdrawClaim n) s

/-! ### Binding (R140, R141) -/

/-- A run that becomes PENDING with no claim, own or heard (R137; of a LAPSED or CANCELLED run DEDUCED, log 20). -/
def Run.toPending (r : Run) : Run :=
  { r with state := .pending, claim := none, best := none, heardOther := false, window := none }

/-- The run's bound record is RELEASED (R137, R148). -/
def State.boundReleased (s : State) (n : Nat) : Bool :=
  s.buses.records.any (fun b => b.isReleased && b.run == some n)

/-- The run is PENDING or MINE and its demand names the fleet (R71, R140). -/
def Run.wants (r : Run) (fleet : Nat) : Bool := r.demand == .fleet fleet && (r.state == .pending || r.state == .mine)

/-- The run that a fleet is chosen for: the lowest-numbered PENDING or MINE run that names it (R140). A run that a RELEASED
record keeps is passed over, so that one record alone names it (DEDUCED, log 19). -/
def State.chosenRun (s : State) (fleet : Nat) : Option Run :=
  s.runs.runs.find? (fun r => r.wants fleet && !s.boundReleased r.run)

/-- A MINE run given up by its record: PENDING; a wildcard run is withdrawn (R141, R150). -/
def State.giveUpRun (n fleet : Nat) (s : State) : State :=
  match s.runOf n with
  | some r =>
    if r.state == .mine then
      let s := s.updateRun n (fun x => { x with state := .pending, claim := none })
      if r.isWildcard then s.sendClaim n fleet noFit else s
    else s
  | none => s

/-- The record is passed over by the binding test: it is RELEASED, or bound to a run LATE with the own mark (R140). -/
def State.bindingPassed (s : State) (b : Bus) : Bool :=
  b.isReleased ||
    (match b.run with
     | some n => (match s.runOf n with | some r => r.state == .late && r.ownMark | none => false)
     | none => false)

/-- The binding test of one record (R140). -/
def State.bindBus (id : Nat) (s : State) : State :=
  match s.buses.records.find? (fun b => b.id == id) with
  | none => s
  | some b =>
    match b.fleet with
    | none => s
    | some fleet =>
      if s.bindingPassed b then s
      else
        match s.chosenRun fleet with
        | none => s
        | some r =>
          if b.run == some r.run then s
          else
            let s := match b.run with | some old => s.giveUpRun old fleet | none => s
            (s.updateRun r.run (fun x => { x with state := .mine })).nameRun id r

/-- The binding tests of every record, in table order (R140). -/
def State.bindAll (s : State) : State := (s.buses.records.map (·.id)).foldl (fun s id => s.bindBus id) s

/-! ### Runs leaving their state -/

/-- The claim and its window end with no withdrawal (R138, R150, R168, R169, R170). -/
def Run.dropClaim (r : Run) : Run := { r with claim := none, window := none }

/-- The record bound to a run freed (R141). -/
def State.freeBound (n : Nat) (s : State) : State :=
  match s.boundTo n with
  | some b => s.freeBus b.id
  | none => s

/-- What the Run List does when a record that names run `n` is deleted: MINE becomes PENDING, and a won wildcard run
is withdrawn; LATE loses the own mark; any other state stands (R34, R150, R167). -/
def State.runLosesRecord (n fleet : Nat) (s : State) : State :=
  match s.runOf n with
  | some r =>
    if r.state == .mine then s.giveUpRun n fleet
    else if r.state == .late then s.updateRun n (fun x => { x with ownMark := false })
    else s
  | none => s

end Sys2Proof.Machine
end

