-- ==== Sys2Proof/Machine/BerthOps.lean ====
section
/-! DEFINITION. The Berth Allocator's shared operations (R68 to R79): pricing a lane, offers, calls. -/

namespace Sys2Proof.Machine

/-! ### Pricing (R71, R72) -/

/-- What a lane is priced for: class, route, service value, and whether a charged lane is needed (R71, R172). -/
structure Need where
  cls : BusClass
  route : Option Nat
  service : Nat
  charge : Bool
deriving DecidableEq, Repr

/-- The lane fits, the bus table's test apart (R71, R172). -/
def State.laneFits (s : State) (l : Lane) (n : Need) : Bool :=
  l.state == .ready && classHas l.conf.classes n.cls && windowTakes l.conf.window n.route
    && l.promisedCount < s.entryRoom l && (l.conf.charged || !n.charge)

/-- The cost of standing next to a neighbour of service value `w` (R72). -/
def neighbourCost (kind : LaneKind) (v w : Nat) : Nat :=
  let block := match kind with | .deadEnd => v - w | .through => w - v
  (if 0 < block then 1000 + min block 999 else 0) + min (absDiff v w) 999

/-- The cost of a lane for a bus of service value `v` (R72). -/
def State.laneCost (s : State) (l : Lane) (v : Nat) : Nat :=
  match s.entryMost l with
  | none => 500
  | some p =>
    match s.occupant l.number p with
    | some b => neighbourCost l.kind v (s.busService b)
    | none => 500

/-- The best fitting lane as (cost, lane): least cost, then lowest number; `skip` is left out (R72, R172). -/
def State.bestLane (s : State) (n : Need) (skip : Option Nat) : Option (Nat × Nat) :=
  firstBy betterPair
    ((s.lanes.filter (fun l => some l.number != skip && s.laneFits l n)).map (fun l => (s.laneCost l n.service, l.number)))

/-- The allowance of a called fleet: that of the lowest-numbered PENDING or MINE run that names it, a run that a RELEASED
record keeps among them (R71). -/
def State.allowanceFor (s : State) (fleet : Nat) : Option Nat :=
  (s.runs.runs.find? (fun r => r.wants fleet)).map (·.allowance)

/-- The allowance of a record's run (R71, R172). -/
def State.busAllowance (s : State) (b : Bus) : Option Nat :=
  match b.run with
  | some n => (s.runOf n).map (·.allowance)
  | none => none

/-- What a called bus needs; for the node's own call the allowance is that of the record's run (R71). -/
def State.callNeed (s : State) (caller : Nat) (c : Call) : Need :=
  let allowance :=
    if caller == s.cfg.station then
      match s.busOf c.fleet with
      | some b => s.busAllowance b
      | none => s.allowanceFor c.fleet
    else s.allowanceFor c.fleet
  ⟨c.cls, c.route, s.serviceOf c.pullOut, allowance != some 6000⟩

/-! ### Offer records (R73 to R75) -/

/-- The open offer record of a caller (R73). -/
def State.offerOf (s : State) (caller : Nat) : Option OfferRecord := s.alloc.offers.find? (fun o => o.caller == caller)

/-- An offer record removed (R73, R75). -/
def State.removeOffer (caller : Nat) (s : State) : State :=
  s.setAlloc { s.alloc with offers := s.alloc.offers.filter (fun o => o.caller != caller) }

/-- An open offer record dropped with its hold, and no TAKE (R70, R73). -/
def State.dropOffer (caller : Nat) (s : State) : State :=
  match s.offerOf caller with
  | some o => (s.releaseHold o.lane ⟨o.caller, o.call.seq⟩).removeOffer caller
  | none => s

/-- The node may offer for the call: it holds no record for the fleet, or the record is the subject of its own call on
the apron (R71). -/
def State.mayOffer (s : State) (caller : Nat) (c : Call) : Bool :=
  match s.busOf c.fleet with
  | none => true
  | some b => caller == s.cfg.station && b.isApron

/-- The Bus Table has room for the bus (R32, R71). -/
def State.tableRoomFor (s : State) (fleet : Nat) : Bool :=
  s.tableRoom || (match s.busOf fleet with | some b => b.isApron | none => false)

/-- A PARK_CALL evaluated in RUN: the older offer to that caller is dropped, and a fitting lane is held and offered
(R71 to R73). -/
def State.evaluateCall (caller : Nat) (c : Call) (s : State) : State :=
  let s := s.dropOffer caller
  if s.mayOffer caller c && s.tableRoomFor c.fleet then
    match s.bestLane (s.callNeed caller c) none with
    | some (cost, lane) =>
      let s := s.addHold lane ⟨caller, c.seq⟩
      let s := s.setAlloc { s.alloc with offers :=
        s.alloc.offers ++ [⟨caller, c, lane, cost, false, none, s.now + s.cfg.offerWindow⟩] }
      s.send (.offer caller c.seq cost)
    | none => s
  else s

/-! ### Calls (R68 to R70) -/

/-- One PARK_CALL for an apron record, the `count`th of its series (R68). -/
def State.makeCall (b : Bus) (fleet count : Nat) (s : State) : State :=
  let seq := (s.alloc.seq + 1) % 256
  let c : Call := ⟨seq, fleet, b.cls, b.route, b.pullOut, b.washed⟩
  let s := s.setAlloc { s.alloc with
    seq := seq, caller := .calling c count (s.now + s.cfg.offerWindow + s.cfg.takeWait) }
  (s.send (.parkCall c)).evaluateCall s.cfg.station c

/-- An apron record is eligible for a call: not unplaced, or its retry timer has expired (R68). -/
def Bus.eligibleForCall (b : Bus) : Bool :=
  match b.place with
  | .apron unplaced retry => !unplaced || retry == none
  | _ => false

/-- The oldest eligible record of the apron list (R68). -/
def State.nextToCall (s : State) : Option (Bus × Nat) :=
  (s.wash.apron.filterMap (fun f => (s.busOf f).map (fun b => (b, f)))).find? (fun p => p.1.eligibleForCall)

/-- The call test: a series is started in RUN with the caller IDLE (R68). -/
def State.callTest (s : State) : State :=
  if s.inRun && s.alloc.caller == .idle then
    match s.nextToCall with
    | some (b, f) => s.makeCall b f 1
    | none => s
  else s

/-- The caller returns to IDLE (R69, R70, R78). -/
def State.callerIdle (s : State) : State := s.setAlloc { s.alloc with caller := .idle }

/-- The record called for is this fleet, in CALLING (R70). -/
def State.callingFor (s : State) (fleet : Nat) : Bool :=
  match s.alloc.caller with
  | .calling c _ _ => c.fleet == fleet
  | _ => false

/-- A call in CALLING ends because its bus was found: the caller is IDLE and this node's own offer for it is dropped
(R70, R82). -/
def State.endCall (s : State) : State := s.callerIdle.dropOffer s.cfg.station

end Sys2Proof.Machine
end

