-- ==== Sys2Proof/Machine/ChargeOps.lean ====
section
/-! DEFINITION. The shared operations of the Charge Scheduler and the Feeder Budget Unit (R88 to R101, R107 to R128):
targets, cuts, the change of a group's state or a mask, the allocation. -/

namespace Sys2Proof.Machine

/-! ### Targets (R107, R128) -/

/-- A target lowered: the present falls with it, and a ramp that has arrived stops (R107, R128). -/
def Charger.lowerTo (t : Nat) (c : Charger) : Charger :=
  let present := min c.present t
  { c with target := t, present := present, ramp := if present < t then c.ramp else none }

/-- Target, planned target and present at 0, the ramp timer stopped (R110, R111, R115). -/
def Charger.zero (c : Charger) : Charger := { c with target := 0, planned := 0, present := 0, ramp := none }

/-- A target raised to `t`: the ramp timer starts when it lies above the present, also one that runs already (R128; DESIGN
CHOICE, log 36). -/
def Charger.raiseTo (t : Nat) (expiry : Nat) (c : Charger) : Charger :=
  { c with target := t, ramp := if c.present < t then some expiry else none }

/-- The allocation place of a charger lapses, and those behind it move up (R110, R111, R115; DESIGN CHOICE, log 35). -/
def State.lapsePlace (berth : Nat) (s : State) : State :=
  s.setCharging { s.charging with order := s.charging.order.filter (fun b => b != berth) }

/-! ### Cuts (R98, R101) -/

/-- A value cut by the excess `x`: to 0 when it cannot stay at the charger's Pmin (R98). -/
def cutValue (pmin t x : Nat) : Nat := if t < x + pmin then 0 else t - x

/-- The cut procedure: the chargers of group `g` with a value above 0, in the order of the list, until the excess is
gone (R98). -/
def State.cutOver (value : Charger → Nat) (apply : Nat → Charger → Charger) (g : Group) :
    List Nat → Nat → State → State
  | [], _, s => s
  | b :: bs, x, s =>
    if x == 0 then s
    else
      match s.chargerOf b with
      | none => State.cutOver value apply g bs x s
      | some c =>
        if s.drawingGroup c == g && 0 < value c then
          let t := cutValue c.conf.pmin (value c) x
          State.cutOver value apply g bs (x - (value c - t)) (s.updateCharger b (apply t))
        else State.cutOver value apply g bs x s

/-- The grant of a group set (R97). -/
def State.setGrant (g : Group) (n : Nat) (s : State) : State :=
  s.setFeeders { s.feeders with groups := groupSet s.feeders.groups g { groupGet s.feeders.groups g with grant := n } }

/-- The grant of a group (R87). -/
def State.grant (s : State) (g : Group) : Nat := (groupGet s.feeders.groups g).grant

/-- The targets of a group cut to its grant in reverse allocation order; the plan then announces no more than is
committed (R98; log 14). -/
def State.cutGroup (g : Group) (s : State) : State :=
  if s.grant g < s.committed g then
    let s := State.cutOver (·.target) Charger.lowerTo g s.charging.order.reverse (s.committed g - s.grant g) s
    s.setCharging { s.charging with chargers := s.charging.chargers.map (fun c =>
      if s.drawingGroup c == g then { c with planned := min c.planned c.target } else c) }
  else s

/-- The grant of a group falls to its available figure when that is lower, and its targets are cut to it (R97, R98). -/
def State.followGrant (s : State) (g : Group) : State := (s.setGrant g (min (s.grant g) (s.available g))).cutGroup g

/-- The grants of the three groups follow a fall of their figures (R97, R98). -/
def State.followGrants (s : State) : State := ((s.followGrant .a).followGrant .b).followGrant .c

/-! ### A charger under a changed group state or mask (R114, R115, R118, R119) -/

/-- What a change from the old to the new effective state, drawing group and ceiling does to a charger: a changed
drawing group zeroes it; a lower ceiling cuts target and plan; SHED left at target 0 starts a stagger (R115, R118, R119).
R119's target is judged after R115 has zeroed it, and after R118 has cut it to a lower ceiling, 0 among them where SHED with
its remap FLOOR gives way to PEAK with its remap PAUSE (DESIGN CHOICE, log 33). -/
def Charger.revise (oldState newState : FeederState) (oldGroup newGroup : Group) (stagger : Nat) (c : Charger) : Charger :=
  let c :=
    if oldGroup != newGroup then c.zero
    else
      let top := ceilingIn c.conf newState
      let c := if top < c.target then c.lowerTo top else c
      { c with planned := min c.planned top }
  if oldState == .shed && newState != .shed && c.target == 0 then { c with staggerEnd := some stagger } else c

/-- The instant a stagger started now ends for a charger (R119). -/
def State.staggerFor (s : State) (c : Charger) : Nat := s.now + (c.conf.rank - 1) * s.cfg.staggerInterval

/-- Every charger that `touched` picks revised from the group states `before` to those of `s`; the places of chargers
whose drawing group changed lapse (R88, R114 to R119). -/
def State.reviseChargers (before : Group → FeederState) (touched : Charger → Bool) (s : State) : State :=
  let moved := (s.charging.chargers.filter (fun c => touched c && drawingUnder before c.mask != s.drawingGroup c)).map (·.berth)
  s.setCharging { s.charging with
    chargers := s.charging.chargers.map (fun c =>
      if touched c then
        c.revise (effectiveUnder before c.mask) (s.effectiveState c) (drawingUnder before c.mask) (s.drawingGroup c)
          (s.staggerFor c)
      else c)
    order := s.charging.order.filter (fun b => !moved.contains b) }

/-- A FEEDER applied to the node's own records (R88). -/
def State.applyFeeder (g : Group) (st : FeederState) (hot : Bool) (s : State) : State :=
  let r := groupGet s.feeders.groups g
  if r.state == .told st && r.hot == hot then s
  else
    let before := s.groupState
    let s := s.setFeeders { s.feeders with groups := groupSet s.feeders.groups g { r with state := .told st, hot := hot } }
    (s.reviseChargers before (fun c => groupGet c.mask g)).followGrants

/-! ### DRAW and ROLL (R93, R99) -/

/-- The node queues its DRAW (R99). -/
def State.sendDraw (s : State) : State :=
  s.send (.draw (groupMake s.committed) (groupMake s.plannedTotal))

/-- The node's description (R91, R93). -/
def State.description (s : State) : Description :=
  ⟨s.lanes.length, (s.lanes.map (·.size)).sum, s.charging.chargers.length, s.cfg.washLane, s.cfg.bypass⟩

/-- The node queues its ROLL (R93). -/
def State.sendRoll (ask : Bool) (s : State) : State := s.send (.roll ask s.description (groupMake s.declared))

/-! ### The turn boundary (R100, R120 to R127) -/

/-- The turn period (R120). -/
def State.turnPeriod (s : State) : Nat := s.cfg.turnTick * 2 ^ s.cfg.turnExponent

/-- The deadline T of a charger (R122). -/
def State.deadline (s : State) (c : Charger) : Nat :=
  if s.clock.isSet then
    let minute := ((s.chargerBus c).bind (·.pullOut)).getD s.cfg.spareReady
    (clampInt (timeToGo s.clock.time (minute * 60) - (s.cfg.readyMargin : Int)) 1 72000).toNat
  else 36000

/-- A charger is a claimant at a boundary taken now (R121). -/
def State.isClaimant (s : State) (c : Charger) : Bool :=
  c.phase == .connected
    && (match c.staggerEnd with | some e => e ≤ s.now | none => true)
    && 0 < (s.chargerNeed c).getD 0
    && 0 < s.ceiling c
    && !(match s.chargerBus c with | some b => b.isReleased | none => false)

/-- Deadline, granted rate and slack of a charger (R122, R123). -/
def State.figuresOf (s : State) (c : Charger) : Figures :=
  let t := s.deadline c
  let n := (s.chargerNeed c).getD 0
  let top := s.ceiling c
  ⟨t, max (min (ceilDiv (n * 360) t) top) c.conf.pmin, (t : Int) - (ceilDiv (n * 360) top : Nat)⟩

/-- A claimant with its figures and the power allotted so far. -/
structure Claimant where
  charger : Charger
  group : Group
  top : Nat
  figures : Figures
  power : Nat
deriving DecidableEq, Repr

/-- The allocation order: slack ascending, turn age descending, lane, position (R124). -/
def claimsFirst (x y : Claimant) : Bool :=
  decide (x.figures.slack < y.figures.slack) || (x.figures.slack == y.figures.slack &&
    (y.charger.turnAge < x.charger.turnAge || (x.charger.turnAge == y.charger.turnAge &&
      (x.charger.lane < y.charger.lane || (x.charger.lane == y.charger.lane && x.charger.pos < y.charger.pos)))))

/-- The claimants in allocation order, with nothing allotted (R121 to R124). -/
def State.claimants (s : State) : List Claimant :=
  sortBy claimsFirst ((s.charging.chargers.filter s.isClaimant).map (fun c =>
    ⟨c, s.drawingGroup c, s.ceiling c, s.figuresOf c, 0⟩))

/-- Pass 1: each claimant takes its granted rate while it can have its Pmin (R125). -/
def passOne : PerGroup Nat → List Claimant → PerGroup Nat × List Claimant
  | left, [] => (left, [])
  | left, c :: cs =>
    let a := min c.figures.rate (groupGet left c.group)
    let a := if a < c.charger.conf.pmin then 0 else a
    let (rest, out) := passOne (groupSet left c.group (groupGet left c.group - a)) cs
    (rest, { c with power := a } :: out)

/-- Pass 2: what remains is spread in order up to each ceiling (R126). -/
def passTwo : PerGroup Nat → List Claimant → List Claimant
  | _, [] => []
  | left, c :: cs =>
    let remaining := groupGet left c.group
    let more :=
      if 0 < c.power then min (c.top - c.power) remaining
      else
        let x := min c.top remaining
        if x < c.charger.conf.pmin then 0 else x
    { c with power := c.power + more } :: passTwo (groupSet left c.group (remaining - more)) cs

/-- The allocation: the claimants in order with their planned targets (R125, R126). -/
def allot (grants : PerGroup Nat) (cs : List Claimant) : List Claimant :=
  let (left, out) := passOne grants cs
  passTwo left out

/-- A charger with the plan of a boundary: its planned target, a target above it lowered at once (R100, R121, R127). -/
def Charger.plan (plan : List Claimant) (c : Charger) : Charger :=
  match plan.find? (fun x => x.charger.berth == c.berth) with
  | some x =>
    let c := { c with planned := x.power, figures := some x.figures }
    if x.power < c.target then c.lowerTo x.power else c
  | none => { c.lowerTo 0 with planned := 0, figures := none }

/-- A turn boundary: grants at the available figures, allocation, DRAW, plan hold (R100, R120). -/
def State.takeBoundary (s : State) : State :=
  let s := ((s.setGrant .a (s.available .a)).setGrant .b (s.available .b)).setGrant .c (s.available .c)
  let plan := allot (groupMake s.grant) s.claimants
  let s := s.setCharging
    { chargers := s.charging.chargers.map (Charger.plan plan)
      order := plan.map (fun x => x.charger.berth)
      boundary := some (s.now + s.turnPeriod) }
  (s.sendDraw).setFeeders { s.sendDraw.feeders with planHold := some (s.now + 2) }

/-- The plan of a group cut to its grant by the procedure of R98 (R101). -/
def State.cutPlan (g : Group) (s : State) : State :=
  State.cutOver (·.planned) (fun t c => { c with planned := t }) g s.charging.order.reverse (s.plannedTotal g - s.grant g) s

/-- A claimant of the latest boundary that is still connected (R127; log 21). -/
def Charger.ages (c : Charger) : Bool := c.figures.isSome && c.phase == .connected

/-- A charger at the end of the plan hold: it takes its planned target, and a claimant's turn age is set (R101, R127). -/
def Charger.endHold (expiry : Nat) (c : Charger) : Charger :=
  let c :=
    if c.target < c.planned then c.raiseTo c.planned expiry
    else if c.planned < c.target then c.lowerTo c.planned else c
  if c.ages then { c with turnAge := if c.target == 0 then min (c.turnAge + 1) 255 else 0 } else c

/-- The end of a plan hold: grants at the available figures, plans cut to them, the plan applied (R101, R127). -/
def State.endPlanHold (s : State) : State :=
  let s := s.setFeeders { s.feeders with planHold := none }
  let s := ((s.setGrant .a (s.available .a)).setGrant .b (s.available .b)).setGrant .c (s.available .c)
  let s := ((s.cutPlan .a).cutPlan .b).cutPlan .c
  s.setCharging { s.charging with
    chargers := s.charging.chargers.map (Charger.endHold (s.now + s.cfg.rampInterval)) }

/-- Every target, planned target and present at 0 and every ramp stopped (R129, R131). -/
def State.zeroChargers (s : State) : State :=
  s.setCharging { s.charging with chargers := s.charging.chargers.map Charger.zero }

/-- The charger at a lane position zeroed, its place kept: the release of its bus (R127, R160). -/
def State.zeroAt (lane pos : Nat) (s : State) : State :=
  s.setCharging { s.charging with chargers := s.charging.chargers.map (fun c =>
    if c.lane == lane && c.pos == pos then c.zero else c) }

end Sys2Proof.Machine
end

