-- ==== Sys2Proof/Machine/DepartOps.lean ====
section
/-! DEFINITION. The Departure Controller's shared operations (R157 to R176), the deletion of a record (R34), and the
tests that follow a command (R68, R140, R145, R150, R158, R166, R169, R171). -/

namespace Sys2Proof.Machine

/-! ### Lateness and the ends of a release (R162 to R167) -/

/-- A run made LATE at its own node: own mark set, LATE queued, `alert` raised (R167); no LATE leaves a node in MUTE. -/
def State.makeLate (n : Nat) (alert : AlertCode) (s : State) : State :=
  let s := s.updateRun n (fun r => { r with state := .late, ownMark := true, claim := none })
  (s.send (.late n)).raise alert n

/-- The release ends: the record returns to PARKED at its position if it is still RELEASED there (R31, R162 to R164). -/
def State.endRelease (s : State) : State :=
  match s.departures.release with
  | none => s
  | some rel =>
    let s := s.setDepartures { s.departures with release := none }
    match s.busOf rel.fleet with
    | some b =>
      match b.place with
      | .released lane pos => (s.setPlace b.id (.parked lane pos)).repeatNeed lane pos
      | _ => s
    | none => s

/-- The record that was released is freed if it still names the run (R164). -/
def State.freeReleased (rel : Release) (s : State) : State :=
  match s.busOf rel.fleet with
  | some b => if b.run == some rel.run then s.freeBus b.id else s
  | none => s

/-- A run whose record is freed because its demand changed: MINE becomes PENDING, LATE loses the own mark (R137). -/
def Run.changedAway (r : Run) : Run := if r.state == .mine then r.toPending else { r with ownMark := false }

/-- A record whose run's demand a RUN changed during the release is freed (R137, R164; log 19). -/
def State.freeAfterChange (rel : Release) (s : State) : State :=
  match s.runOf rel.run with
  | some r => if r.demand == rel.demand then s else (s.freeReleased rel).updateRun rel.run Run.changedAway
  | none => s

/-- What the run of a release that ends without a departure meets: MINE is made LATE at its own node; LATE stays, and is
made LATE again only where `again` (R162, R164). -/
def State.lateAfter (alert : AlertCode) (again : Bool) (n : Nat) (s : State) : State :=
  match s.runOf n with
  | some r =>
    if r.state == .mine || (again && r.state == .late) then s.makeLate n alert
    else if alert == .releaseTimeout then s.raise alert n
    else s
  | none => s

/-- A release ends without a departure and without a notice heard (R162, R164). `again` is set for a record deleted by
survey alone, whose row in R164 has no "if MINE": an already LATE run is made LATE once more, with its notice and alert
(DEDUCED, log 31). -/
def State.failRelease (alert : AlertCode) (again : Bool) (s : State) : State :=
  match s.departures.release with
  | none => s
  | some rel => (s.endRelease.lateAfter alert again rel.run).freeAfterChange rel

/-- The release in progress is one of this fleet (R154). -/
def State.releasing (s : State) (fleet : Nat) : Bool :=
  match s.departures.release with
  | some rel => rel.fleet == fleet
  | none => false

/-- A release of this run is in progress (R166, R170). -/
def State.releasingRun (s : State) (n : Nat) : Bool :=
  match s.departures.release with
  | some rel => rel.run == n
  | none => false

/-! ### Shunt orders (R173 to R175) -/

/-- The shunt order of a fleet removed (R173). -/
def State.removeShunt (fleet : Nat) (s : State) : State :=
  s.setDepartures { s.departures with shunts := s.departures.shunts.filter (fun o => o.fleet != fleet) }

/-- The shunt order of a fleet dropped with its SHUNT reservation (R34, R175). -/
def State.dropShunt (fleet : Nat) (s : State) : State :=
  match s.shuntOf fleet with
  | some o => (s.releaseReservation o.target ⟨.shunt, fleet⟩).removeShunt fleet
  | none => s

/-! ### Deletion (R34) -/

/-- The record taken out of the table, then the effects of R34: its place, its reservation, its release, its run. -/
def State.deleteBus (id : Nat) (s : State) : State :=
  match s.buses.records.find? (fun b => b.id == id) with
  | none => s
  | some b =>
    let fleet := b.fleet.getD 0
    let s := s.removeBus id
    let s : State :=
      match b.place with
      | .queued => s.leaveWash b
      | .washing _ => s.leaveWash b
      | .apron _ _ => s.leaveWash b
      | .transit lane _ lost _ => if lost then s else s.releaseReservation lane ⟨.transit, fleet⟩
      | .parked _ _ => s
      | .shunting _ _ => s.dropShunt fleet
      | .shuntingBetween => s.dropShunt fleet
      | .released _ _ => if s.releasing fleet then s.failRelease .runLate true else s
    match b.run with
    | some n => s.runLosesRecord n fleet
    | none => s

/-! ### Release and lateness tests (R158, R159, R160, R166) -/

/-- The bus of a run can leave: PARKED at its lane's leaving position, ready, not held (R158, R166). -/
def State.busCanLeave (s : State) (r : Run) (b : Bus) : Bool :=
  b.isParked && s.atLeaving b && b.readyFor r.allowance && !b.hold

/-- A release of the run may begin (R158). -/
def State.releasable (s : State) (r : Run) : Bool :=
  s.runOrMute && ((r.state == .mine && s.front == some r.run) || (r.state == .late && r.ownMark))
    && s.releaseLeadReached r && s.exitGapHolds && s.departures.release == none
    && (match s.boundTo r.run with | some b => s.busCanLeave r b | none => false)

/-- A release begins (R160). -/
def State.beginRelease (r : Run) (b : Bus) (s : State) : State :=
  match b.place, b.fleet with
  | .parked lane pos, some fleet =>
    let s := s.setPlace b.id (.released lane pos)
    let s := s.setDepartures { s.departures with
      release := some ⟨r.run, fleet, lane, pos, s.now + s.cfg.releaseTimeout * 60, r.demand⟩ }
    s.zeroAt lane pos
  | _, _ => s

/-- The release test: the lowest-numbered run whose conditions hold is released (R158, R159). -/
def State.releaseTest (s : State) : State :=
  match s.runs.runs.find? (fun r => s.releasable r) with
  | some r =>
    match s.boundTo r.run with
    | some b => s.beginRelease r b
    | none => s
  | none => s

/-- A MINE run is late by its own node's test (R166). -/
def State.lateDue (s : State) (r : Run) : Bool :=
  s.runOrMute && r.state == .mine && s.front == some r.run && s.releaseLeadReached r && !s.releasingRun r.run
    && (match s.boundTo r.run with | some b => !s.busCanLeave r b | none => false)

/-- The lateness tests, the front moving past each run made LATE (R135, R166, R167); `n` bounds the runs. -/
def State.latenessTests : Nat → State → State
  | 0, s => s
  | n + 1, s =>
    match s.runs.runs.find? (fun r => s.lateDue r) with
    | some r => State.latenessTests n ((s.makeLate r.run .runLate).raiseFront s)
    | none => s

/-- A run lapses: no station serves it and its grace has passed (R169). -/
def State.lapses (s : State) (r : Run) : Bool :=
  (r.state == .pending || r.state == .claiming || r.state == .claimedElsewhere) && s.gracePassed r

/-- A run that lapses is LAPSED, and the front moves on (R135, R169). -/
def State.lapseRun (n : Nat) (s : State) : State :=
  match s.runOf n with
  | some r => if s.lapses r then (s.updateRun n (fun r => { r.dropClaim with state := .lapsed })).raiseFront s else s
  | none => s

/-- Every run that lapses, one after another in ascending number, the front mark following the front past each (R135, R155,
R169; DESIGN CHOICE, log 16). -/
def State.lapseRuns (s : State) : State := (s.runs.runs.map (·.run)).foldl (fun s n => s.lapseRun n) s

/-! ### Shunt tests (R171, R172, R175) -/

/-- The shunt-failed marks that still name the record at their lane's leaving position (R175). A mark set while another
record stands there already goes at once (DESIGN CHOICE, log 38). -/
def State.clearFailed (s : State) : State :=
  s.setDepartures { s.departures with failed := s.departures.failed.filter (fun m =>
    match s.laneOf m.1 with
    | some l => (match s.leavingBus l with | some b => b.id == m.2 | none => false)
    | none => false) }

/-- The shunt-failed mark of a lane set (R171). -/
def State.markFailed (lane id : Nat) (s : State) : State :=
  s.setDepartures { s.departures with failed := s.departures.failed.filter (fun m => m.1 != lane) ++ [(lane, id)] }

/-- What a lane is priced for in a shunt of `x` (R172). -/
def State.shuntNeed (s : State) (x : Bus) : Need :=
  ⟨x.cls, x.route, s.busService x, s.busAllowance x != some 6000⟩

/-- The target of a shunt of `x` out of a lane: the target lane and its to-berth (R172). -/
def State.shuntTarget (s : State) (x : Bus) (fromLane : Nat) : Option (Nat × Nat) :=
  match s.bestLane (s.shuntNeed x) (some fromLane) with
  | some (_, lane) =>
    match s.laneOf lane with
    | some l =>
      match s.entryPos l with
      | some p => some (lane, l.berthAt p)
      | none => none
    | none => none
  | none => none

/-- A shunt order of `x` issued for run `n` (R172). -/
def State.issueShunt (n : Nat) (x : Bus) (fleet lane pos : Nat) (l : Lane) (s : State) : State :=
  match s.shuntTarget x lane with
  | none => (s.markFailed lane x.id).raise .shuntFailed fleet
  | some (target, toBerth) =>
    let s := (s.addReservation target ⟨.shunt, fleet⟩).setPlace x.id (.shunting lane pos)
    s.setDepartures { s.departures with shunts := s.departures.shunts ++
      [⟨fleet, n, lane, pos, l.berthAt pos, target, toBerth, true, .atFrom, 1, s.now + s.cfg.shuntTimeout * 60⟩] }

/-- The shunt test of one run (R171). -/
def State.shuntTest (n : Nat) (s : State) : State :=
  match s.runOf n, s.boundTo n with
  | some r, some b =>
    match b.place with
    | .parked lane pos =>
      match s.laneOf lane with
      | none => s
      | some l =>
        match s.leavingBus l with
        | none => s
        | some x =>
          if s.cfg.impliedShunt && s.runOrMute && r.ours && s.shuntLeadReached r && !s.atLeaving b && x.isParked
              && (s.blockers lane pos (s.busService b)).any (fun y => y.id == x.id)
              && !(s.departures.shunts.any (fun o => o.fromLane == lane))
              && s.departures.shunts.length < 4
              && !(s.departures.failed.contains (lane, x.id)) then
            match x.fleet, x.berth? with
            | some fleet, some (_, xpos) => s.issueShunt n x fleet lane xpos l
            | _, _ => (s.markFailed lane x.id).raise .shuntFailed lane
          else s
    | _ => s
  | _, _ => s

/-- The shunt tests of every run, in ascending run number (R171). -/
def State.shuntTests (s : State) : State := (s.runs.runs.map (·.run)).foldl (fun s n => s.shuntTest n) s

/-! ### The tests that follow a command -/

/-- The tests of what may leave: lateness, the front moving past each run made LATE, then release (R158, R166). -/
def State.exitTests (s : State) : State := (State.latenessTests (s.runs.runs.length + 1) s).releaseTest

/-- The tests of the morning departure: lapse, lateness, release, shunt (R158, R166, R169, R171; order: log 7). A shunt
order takes its bus out of PARKED, so lateness and release are tested again at that moment (R166). -/
def State.departureTests (s : State) : State := s.lapseRuns.exitTests.clearFailed.shuntTests.exitTests

/-- The tests that follow a command, each made where its rule calls for it (log 7): the front mark, binding, withdrawal,
departure, claims with those of `extra`, the wash lane, the call test. -/
def State.settle (s before : State) (extra : List Nat) : State :=
  if s.active then
    let s := (s.raiseFront before).bindAll.withdrawClaims.departureTests.withdrawClaims
    let s := (State.claimTests before extra s).keepRefresh before
    s.washTests.callTest
  else s

/-- The tests that follow an event of the wash lane (R49, R53, R55, R68). -/
def State.settleWash (s : State) : State := s.washTests.callTest

end Sys2Proof.Machine
end

