-- ==== Sys2Proof/Machine/Loader.lean ====
section
/-! DEFINITION. The Configuration Loader (R196 to R199): the layout of the image, its check, its clamping. -/

namespace Sys2Proof.Machine

/-- The byte at an offset; a byte the memory does not give reads as FFh (R197). -/
def imageByte (image : List Byte) (off : Nat) : Nat := ((image[off]?).getD 0xFF#8).toNat

/-- The two-byte field at an offset (R196). -/
def imageWord (image : List Byte) (off : Nat) : Nat := imageByte image off * 256 + imageByte image (off + 1)

/-- The 512 bytes as read (R197). -/
def imageBytes (image : List Byte) : List Byte := (image ++ List.replicate 512 0xFF#8).take 512

/-- A field that takes a range (R196). -/
structure Field where
  off : Nat
  wide : Bool
  lo : Nat
  hi : Nat
deriving DecidableEq, Repr

/-- A field as read. -/
def Field.raw (f : Field) (image : List Byte) : Nat := if f.wide then imageWord image f.off else imageByte image f.off

/-- A field clamped to its range (R199). -/
def Field.value (f : Field) (image : List Byte) : Nat := clamp (f.raw image) f.lo f.hi

/-- The field's offset when it was clamped (R199). -/
def Field.note (f : Field) (image : List Byte) : List Nat := if f.value image == f.raw image then [] else [f.off]

/-- An offset noted when a field was clamped (R199). -/
def noteIf (clamped : Bool) (off : Nat) : List Nat := if clamped then [off] else []

/-! ### The single fields (R196) -/

def fLineRate : Field := ⟨0x001, false, 1, 3⟩
def fLaneCount : Field := ⟨0x003, false, 1, 8⟩
def fDayChange : Field := ⟨0x004, true, 0, 1439⟩
def fSpareReady : Field := ⟨0x006, true, 0, 1439⟩
def fFirstStandard : Field := ⟨0x008, true, 1, 10000⟩
def fFirstArtic : Field := ⟨0x00A, true, 1, 10000⟩
def fLaneSettle : Field := ⟨0x00C, false, 2, 60⟩
def fOfferWindow : Field := ⟨0x00D, false, 1, 5⟩
def fTakeWait : Field := ⟨0x00E, false, 2, 10⟩
def fTransitTimeout : Field := ⟨0x00F, false, 1, 30⟩
def fChargerSettle : Field := ⟨0x010, false, 5, 120⟩
def fStagger : Field := ⟨0x011, false, 5, 60⟩
def fTurnExponent : Field := ⟨0x013, false, 0, 3⟩
def fRampInterval : Field := ⟨0x014, false, 1, 10⟩
def fRampStep : Field := ⟨0x015, false, 1, 50⟩
def fReadyMargin : Field := ⟨0x016, true, 0, 1800⟩
def fClaimLead : Field := ⟨0x018, false, 5, 60⟩
def fClaimWindow : Field := ⟨0x019, false, 2, 20⟩
def fReleaseLead : Field := ⟨0x01A, false, 0, 10⟩
def fExitGap : Field := ⟨0x01B, false, 10, 120⟩
def fReleaseTimeout : Field := ⟨0x01C, false, 1, 15⟩
def fLateGrace : Field := ⟨0x01D, false, 1, 15⟩
def fShuntLead : Field := ⟨0x01E, false, 10, 90⟩
def fShuntTimeout : Field := ⟨0x01F, false, 2, 30⟩
def fShuntAttempts : Field := ⟨0x020, false, 1, 3⟩
def fStageCount : Field := ⟨0x021, false, 1, 4⟩
def fAdvanceTimeout : Field := ⟨0x022, true, 30, 300⟩

/-- The offset of the turn tick (R196). -/
def turnTickOff : Nat := 0x012

/-- The turn tick, 15 or 60 (R199). -/
def turnTickOf (n : Nat) : Nat := if n == 15 || n == 60 then n else if n < 38 then 15 else 60

/-- The offset of the frost threshold (R196). -/
def frostOff : Nat := 0x024

/-- A byte as a signed number (R196). -/
def signed8 (n : Nat) : Int := if n < 128 then (n : Int) else (n : Int) - 256

/-- The first ARTIC fleet, not below the first STANDARD fleet (R199). -/
def firstArticOf (image : List Byte) : Nat := max (fFirstArtic.value image) (fFirstStandard.value image)

/-- The flag bit `i` of the flags byte (R196). -/
def flagOf (image : List Byte) (i : Nat) : Bool := imageByte image 0x002 / 2 ^ i % 2 == 1

/-! ### Stages, groups, lanes, chargers (R196) -/

/-- The fields of stage `i`, counted from 0. -/
def stageFields (i : Nat) : List Field :=
  [⟨0x025 + 5 * i, false, 0, 60⟩, ⟨0x026 + 5 * i, true, 10, 600⟩, ⟨0x028 + 5 * i, true, 0, 600⟩]

def stageOf (image : List Byte) (i : Nat) : StageConfig :=
  ⟨(Field.mk (0x025 + 5 * i) false 0 60).value image, (Field.mk (0x026 + 5 * i) true 10 600).value image,
   (Field.mk (0x028 + 5 * i) true 0 600).value image⟩

/-- The fields of group `i`, counted from 0. -/
def groupFields (i : Nat) : List Field :=
  [⟨0x039 + 8 * i, true, 0, 4000⟩, ⟨0x03B + 8 * i, true, 0, 4000⟩, ⟨0x03D + 8 * i, true, 0, 4000⟩,
   ⟨0x03F + 8 * i, false, 1, 16⟩, ⟨0x040 + 8 * i, false, 1, 16⟩]

def groupOf (image : List Byte) (i : Nat) : GroupConfig :=
  ⟨(Field.mk (0x039 + 8 * i) true 0 4000).value image, (Field.mk (0x03B + 8 * i) true 0 4000).value image,
   (Field.mk (0x03D + 8 * i) true 0 4000).value image, (Field.mk (0x03F + 8 * i) false 1 16).value image,
   (Field.mk (0x040 + 8 * i) false 1 16).value image⟩

/-- The greatest allowed span not above the byte, 1 for 0 (R199). -/
def spanOf (n : Nat) : Nat := if 16 ≤ n then 16 else if 8 ≤ n then 8 else if 4 ≤ n then 4 else if 2 ≤ n then 2 else 1

/-- The lane kind: 0 and 1 DEAD_END, above 1 THROUGH (R199). -/
def kindOf (n : Nat) : LaneKind := if n ≤ 1 then .deadEnd else .through

/-- A set of three in bits 0 to 2, the empty set read as all three (R199). -/
def setOf (n : Nat) : Bool × Bool × Bool :=
  if n % 8 == 0 then (true, true, true) else (n % 2 == 1, n / 2 % 2 == 1, n / 4 % 2 == 1)

/-- The offset of lane `i`, counted from 0 (R196). -/
def laneOff (i : Nat) : Nat := 0x051 + 12 * i

/-- The berth count of lane `i` (R196). -/
def berthCountField (i : Nat) : Field := ⟨laneOff i + 1, false, 1, 6⟩

/-- The fields of the berth numbers of lane `i` (R196, R197). -/
def berthFields (image : List Byte) (i : Nat) : List Field :=
  (List.range ((berthCountField i).value image)).map (fun p => ⟨laneOff i + 2 + p, false, 1, 99⟩)

/-- The offset of the charger slot of lane `i`, position `p`, both counted from 0 (R196). -/
def chargerOff (i p : Nat) : Nat := 0x0B1 + 6 * (6 * i + p)

def pmaxField (o : Nat) : Field := ⟨o + 1, false, 10, 150⟩
def pminField (image : List Byte) (o : Nat) : Field := ⟨o + 2, false, 5, (pmaxField o).value image⟩
def rankField (o : Nat) : Field := ⟨o + 5, false, 1, 7⟩

/-- The floor: 0, or clamped to Pmin to Pmax (R105, R199). -/
def floorOf (image : List Byte) (o : Nat) : Nat :=
  let n := imageByte image (o + 3)
  if n == 0 then 0 else clamp n ((pminField image o).value image) ((pmaxField o).value image)

/-- The configured values of a charger slot (R105, R196). -/
def chargerConfigOf (image : List Byte) (o : Nat) : ChargerConfig :=
  let home := setOf (imageByte image o)
  let remaps := imageByte image (o + 4)
  { home := ⟨home.1, home.2.1, home.2.2⟩
    pmax := (pmaxField o).value image
    pmin := (pminField image o).value image
    floor := floorOf image o
    peak := if remaps % 4 == 0 then .full else if remaps % 4 == 1 then .floor else .pause
    shed := if remaps / 4 % 2 == 0 then .floor else .pause
    rank := (rankField o).value image }

/-- The offsets clamped in a charger slot (R199). -/
def chargerNotes (image : List Byte) (o : Nat) : List Nat :=
  noteIf (imageByte image o % 8 == 0) o ++ (pmaxField o).note image ++ (pminField image o).note image
    ++ noteIf (floorOf image o != imageByte image (o + 3)) (o + 3)
    ++ noteIf (imageByte image (o + 4) % 4 == 3) (o + 4) ++ (rankField o).note image

/-- Lane `i` is charged (R196). -/
def laneCharged (image : List Byte) (i : Nat) : Bool := imageByte image (laneOff i + 11) % 2 == 1

/-- The offsets of the charger slots read for lane `i` (R197). -/
def chargerSlots (image : List Byte) (i : Nat) : List Nat :=
  if laneCharged image i then (List.range ((berthCountField i).value image)).map (chargerOff i) else []

/-- The configured values of lane `i` (R3, R196). -/
def laneConfigOf (image : List Byte) (i : Nat) : LaneConfig :=
  let o := laneOff i
  let classes := setOf (imageByte image (o + 8))
  let base := imageByte image (o + 9)
  let span := spanOf (imageByte image (o + 10))
  { kind := kindOf (imageByte image o)
    berths := (berthFields image i).map (fun f => f.value image)
    classes := ⟨classes.1, classes.2.1, classes.2.2⟩
    window := if base == 255 then none else some (base / span * span, span)
    charged := laneCharged image i
    kindChange := imageByte image (o + 11) / 2 % 2 == 1
    chargers := (chargerSlots image i).map (chargerConfigOf image) }

/-- The offsets clamped in the record of lane `i` and its charger slots (R199). -/
def laneNotes (image : List Byte) (i : Nat) : List Nat :=
  let o := laneOff i
  let base := imageByte image (o + 9)
  let span := spanOf (imageByte image (o + 10))
  noteIf (imageByte image o == 0 || 2 < imageByte image o) o ++ (berthCountField i).note image
    ++ (berthFields image i).flatMap (fun f => f.note image)
    ++ noteIf (imageByte image (o + 8) % 8 == 0) (o + 8)
    ++ noteIf (base != 255 && base % span != 0) (o + 9)
    ++ noteIf (span != imageByte image (o + 10)) (o + 10)
    ++ (chargerSlots image i).flatMap (chargerNotes image)

/-! ### The whole image -/

/-- The copy of an image, every value clamped (R197, R199). -/
def configOf (image : List Byte) : NodeConfig where
  station := imageByte image 0x000
  lineRate := fLineRate.value image
  keepYard := flagOf image 0
  warmRestore := flagOf image 1
  impliedShunt := flagOf image 2
  wildcard := flagOf image 3
  monitor := flagOf image 4
  washLane := flagOf image 5
  bypass := flagOf image 6
  dayChange := fDayChange.value image
  spareReady := fSpareReady.value image
  firstStandard := fFirstStandard.value image
  firstArtic := firstArticOf image
  laneSettle := fLaneSettle.value image
  offerWindow := fOfferWindow.value image
  takeWait := fTakeWait.value image
  transitTimeout := fTransitTimeout.value image
  chargerSettle := fChargerSettle.value image
  staggerInterval := fStagger.value image
  turnTick := turnTickOf (imageByte image turnTickOff)
  turnExponent := fTurnExponent.value image
  rampInterval := fRampInterval.value image
  rampStep := fRampStep.value image
  readyMargin := fReadyMargin.value image
  claimLead := fClaimLead.value image
  claimWindow := fClaimWindow.value image
  releaseLead := fReleaseLead.value image
  exitGap := fExitGap.value image
  releaseTimeout := fReleaseTimeout.value image
  lateGrace := fLateGrace.value image
  shuntLead := fShuntLead.value image
  shuntTimeout := fShuntTimeout.value image
  shuntAttempts := fShuntAttempts.value image
  stageCount := fStageCount.value image
  advanceTimeout := fAdvanceTimeout.value image
  frostThreshold := clampInt (signed8 (imageByte image frostOff)) (-10) 5
  stages := (List.range 4).map (stageOf image)
  groups := ⟨groupOf image 0, groupOf image 1, groupOf image 2⟩
  lanes := (List.range (fLaneCount.value image)).map (laneConfigOf image)

/-- The offsets of the clamped fields (R199). -/
def clampNotes (image : List Byte) : List Nat :=
  [fLineRate, fLaneCount, fDayChange, fSpareReady, fFirstStandard, fLaneSettle, fOfferWindow, fTakeWait,
    fTransitTimeout, fChargerSettle, fStagger, fTurnExponent, fRampInterval, fRampStep, fReadyMargin, fClaimLead,
    fClaimWindow, fReleaseLead, fExitGap, fReleaseTimeout, fLateGrace, fShuntLead, fShuntTimeout, fShuntAttempts,
    fStageCount, fAdvanceTimeout].flatMap (fun f => f.note image)
  ++ noteIf (firstArticOf image != fFirstArtic.raw image) fFirstArtic.off
  ++ noteIf (turnTickOf (imageByte image turnTickOff) != imageByte image turnTickOff) turnTickOff
  ++ noteIf (clampInt (signed8 (imageByte image frostOff)) (-10) 5 != signed8 (imageByte image frostOff)) frostOff
  ++ ((List.range 4).flatMap stageFields ++ (List.range 3).flatMap groupFields).flatMap (fun f => f.note image)
  ++ (List.range (fLaneCount.value image)).flatMap (laneNotes image)

/-- The offset of the lowest clamped field (R199). -/
def lowestClamped (image : List Byte) : Option Nat := firstBy (fun x y => x < y) (clampNotes image)

/-- A number appears twice in a list. -/
def hasRepeat : List Nat → Bool
  | [] => false
  | x :: xs => xs.contains x || hasRepeat xs

/-- Why an image is bad, the first cause found (R198). -/
def badCause (image : List Byte) : Option Nat :=
  if sumWords (wordsOf (imageBytes image)) != 65535 then some 1
  else if !okPeer (imageByte image 0) then some 2
  else if hasRepeat ((configOf image).lanes.flatMap (·.berths)) then some 3
  else none

end Sys2Proof.Machine
end

