-- ==== Sys2Proof/Machine/Start.lean ====
section
/-! DEFINITION. The starts and the node states (R26, R27, R41, R42, R65, R66, R85, R86, R102, R103, R129, R131, R151,
R152, R178, R191, R193, R200 to R205): cold start, entry to LISTEN, warm restart, entry to RUN and to MUTE. -/

namespace Sys2Proof.Machine

/-! ### Records from the configuration -/

/-- The lane records set from the configuration: suspect, in a survey period of one settle time (R26). Until its survey
every berth counts as QUIET (DESIGN CHOICE, log 32). -/
def State.freshLanes (s : State) : List Lane :=
  s.cfg.lanes.zipIdx.map (fun p =>
    ⟨p.2 + 1, p.1.kind, p.1, false, true, [], [], List.replicate p.1.berths.length .quiet, some (s.now + s.cfg.laneSettle)⟩)

/-- A charger record at cold start (R131). -/
def freshCharger (lane pos berth : Nat) (c : ChargerConfig) : Charger :=
  ⟨berth, lane, pos, c, c.home, .idle, none, none, none, 0, 0, 0, none, 0, none, false⟩

/-- The charger records set from the configuration (R105, R131). -/
def State.freshChargers (s : State) : List Charger :=
  s.cfg.lanes.zipIdx.flatMap (fun l =>
    (l.1.chargers.zip l.1.berths).zipIdx.map (fun p => freshCharger (l.2 + 1) (p.2 + 1) p.1.2 p.1.1))

/-- The frost flag from the reported temperature (R65, R66). -/
def State.frostNow (s : State) : Bool := s.cfg.washLane && decide (s.inputs.temperature < s.cfg.frostThreshold)

/-- The stages from their detectors: FAULT where a bus is shown (R65). -/
def State.freshStages (s : State) : List Stage :=
  (List.range s.stageCount).map (fun i => ⟨if s.stageDetector (i + 1) then .fault else .empty, none⟩)

/-- The wash lane with no records: STOPPED when asked for or when a stage is FAULT, else IDLE or FROST_HOLD (R65). -/
def State.freshWash (stopped : Bool) (s : State) : State :=
  let stages := s.freshStages
  let stop := s.cfg.washLane && (stopped || stages.any (fun st => st.state == .fault))
  (s.setWash ⟨if stop then .stopped else .normal, stages, none, none, s.frostNow, none, false, []⟩).enterFrostHold

/-! ### Entry to LISTEN (R203, R204) -/

/-- The feeder monitor announces one group and applies it (R88, R89). -/
def State.announce (s : State) (g : Group) : State :=
  let i := groupGet s.inputs.groups g
  let s := s.send (.feeder g i.state i.hot)
  let r := groupGet s.feeders.groups g
  let s := s.setFeeders { s.feeders with groups := groupSet s.feeders.groups g { r with refresh := some (s.now + 60) } }
  s.applyFeeder g i.state i.hot

/-- The three groups announced at a node in the feeder monitor role (R89). -/
def State.announceAll (s : State) : State :=
  if s.cfg.monitor then ((s.announce .a).announce .b).announce .c else s

/-- What the node as a whole, the Charge Scheduler and the Feeder Budget Unit begin on entry to LISTEN: status
requests, ROLL with ask, DRAW and its timer, the monitor's notices, the listen timer (R89, R93, R99, R106, R203, R205). -/
def State.beginListen (s : State) : State :=
  let s := s.setCharging { s.charging with chargers := s.charging.chargers.map (fun c => { c with statusAsked := true }) }
  let s := (s.sendRoll true).sendDraw
  let s := s.setFeeders { s.feeders with drawTimer := some (s.now + 10) }
  s.announceAll

/-- The node state LISTEN with its timer (R205). -/
def State.toListen (s : State) : State :=
  s.setNode { s.node with state := .listen, listenTimer := some (s.now + 30) }

/-! ### Cold start (R203) -/

/-- A cold start: every record emptied, the clock UNSET at 0, LOADING. The input levels, the reset line and the
timebase are the world's and stand; the queue of commands is not the node's. -/
def State.coldStart (s : State) : State :=
  (((State.reset.setInputs s.inputs).setNow s.now).setPending s.pending).setNode ⟨.loading, none, s.node.resetLine⟩

/-- A good image: the node enters LISTEN with its records set from the configuration (R203). -/
def State.startFrom (image : List Byte) (s : State) : State :=
  let s := (s.setCfg (configOf image)).toListen
  let s := s.setLanes s.freshLanes
  let s := s.setCharging ⟨s.freshChargers, [], none⟩
  let s := (s.freshWash false).beginListen
  match lowestClamped image with
  | some off => s.raise .configClamped off
  | none => s

/-- A bad image: CONFIG_FAULT, CONFIG_BAD stored with the seconds UNSET, and its one ALERT queued when station and
rate are usable as read (R200). -/
def State.configBad (image : List Byte) (cause : Nat) (s : State) : State :=
  let station := imageByte image 0x000
  let rate := imageByte image 0x001
  let s := s.setNode { s.node with state := .configFault, listenTimer := none }
  let s := s.setAlerts (s.alerts.store ⟨.configBad, cause, none, false⟩)
  if okPeer station && (1 ≤ rate && rate ≤ 3) then
    let s := s.setCfg { NodeConfig.blank with station := station, lineRate := rate }
    s.setLink (s.link.push ⟨.alert .configBad cause none, 0, false⟩)
  else s.setCfg NodeConfig.blank

/-! ### Warm restart (R204) -/

/-- A settle state after a warm restart with records kept: a running timer restarted in full (R27). -/
def restartSettle (expiry : Nat) : BerthSettle → BerthSettle
  | .quiet => .quiet
  | .awaitEvent _ => .awaitEvent expiry
  | .awaitDetector _ => .awaitDetector expiry
  | .mismatch => .mismatch

/-- A lane record kept through a warm restart (R27). -/
def Lane.kept (expiry : Nat) (l : Lane) : Lane :=
  { l with reservations := l.reservations.filter (fun r => r.kind == .transit), holds := [], survey := none,
           settle := l.settle.map (restartSettle expiry) }

/-- The from-lane of a fleet's shunt order (R42). -/
def State.shuntFrom (s : State) (fleet : Option Nat) : Nat :=
  match fleet with
  | some f => (match s.shuntOf f with | some o => o.fromLane | none => 0)
  | none => 0

/-- The place of a record kept through a warm restart (R42, R86). -/
def State.keptPlace (s : State) (b : Bus) : Place :=
  match b.place with
  | .queued => .queued
  | .washing stage => .washing stage
  | .apron _ _ => .apron false none
  | .transit lane _ lost _ => .transit lane s.now lost none
  | .parked lane pos => .parked lane pos
  | .shunting lane pos => .parked lane pos
  | .shuntingBetween => .transit (s.shuntFrom b.fleet) s.now true none
  | .released lane pos => .parked lane pos

/-- The stages kept through a warm restart: held, and FAULT where a bus is shown without a record (R66). -/
def State.keptStages (s : State) : List Stage :=
  s.wash.stages.zipIdx.map (fun p =>
    if (s.stageBus (p.2 + 1)).isNone && s.stageDetector (p.2 + 1) then ⟨.fault, none⟩ else heldStage p.1)

/-- The wash lane kept through a warm restart: STOPPED, the called record back in the queue (R66). -/
def State.keptWash (s : State) : State :=
  s.setWash { s.wash with
    mode := if s.cfg.washLane then .stopped else .normal
    stages := s.keptStages
    called := none
    callTimer := none
    frost := s.frostNow
    clearing := none }

/-- A run record kept through a warm restart (R152). -/
def Run.kept (r : Run) : Run :=
  { (if r.state == .claiming then r.fallBack else r) with window := none, refresh := none, heardOther := false }

/-- A charger through a warm restart (R131). It has no stagger end before the entry to RUN sets one, and no figures before
the next boundary (DESIGN CHOICE, log 28). -/
def State.restartCharger (s : State) (c : Charger) : Charger :=
  { c.zero with
    mask := if s.cfg.warmRestore then c.conf.home else c.mask
    phase := match c.phase with | .settling _ => .settling (s.now + s.cfg.chargerSettle) | p => p
    staggerEnd := none
    figures := none }

/-- The records at berths take their charger's need (R113, R131). -/
def State.repeatAllNeeds (s : State) : State :=
  (s.buses.records.filterMap Bus.berth?).foldl (fun s p => s.repeatNeed p.1 p.2) s

/-- The yard records kept (R27, R42, R66, R152). -/
def State.keepYard (s : State) : State :=
  let buses := s.buses.records.map (fun b => { b with place := s.keptPlace b })
  let s := s.setLanes (s.lanes.map (Lane.kept (s.now + s.cfg.laneSettle)))
  let s := s.keptWash
  let s := s.setBuses { s.buses with records := buses }
  s.setRuns { s.runs with runs := s.runs.runs.map Run.kept }

/-- The yard records emptied and set up anew (R26, R41, R65, R152). -/
def State.renewYard (s : State) : State :=
  let s := s.setLanes s.freshLanes
  let s := s.setBuses ⟨[], 0, s.buses.nextId⟩
  (s.freshWash true).setRuns ⟨[], 0⟩

/-- The release in progress ended by a warm restart that keeps the records: a record whose run's demand changed is freed,
and the binding tests follow (R42, R164). R152 keeps bindings, R164 has this record tested again (DEDUCED, log 19). -/
def State.dropRelease (s : State) : State :=
  match s.departures.release with
  | some rel => (s.freeAfterChange rel).bindAll
  | none => s

/-- A warm restart (R204). -/
def State.warmRestart (s : State) : State :=
  let s := (s.setOrder none).setLink Link.reset
  let s := if s.cfg.keepYard then s.keepYard else s.renewYard
  let s := s.toListen.dropRelease
  let s := s.setAlloc { Allocator.reset with seq := s.alloc.seq }
  let s := s.setFeeders Feeders.reset
  let s := s.setCharging ⟨s.charging.chargers.map s.restartCharger, [], none⟩
  let s := s.setDepartures { Departures.reset with lastExit := s.departures.lastExit }
  s.repeatAllNeeds.beginListen

/-! ### Entry to MUTE and to RUN (R85, R102, R129, R151, R191, R201, R205) -/

/-- Every open offer record dropped with its hold (R85). -/
def State.dropAllOffers (s : State) : State :=
  (s.alloc.offers.map (·.caller)).foldl (fun s c => s.dropOffer c) s

/-- Every take watch ended, the take staying with its entry as at the expiry of its watch (R77, R85; DEDUCED, log 42). -/
def State.endWatches (s : State) : State :=
  s.setBuses { s.buses with records := s.buses.records.map (fun b =>
    match b.place with
    | .transit lane start lost sent =>
      { b with place := .transit lane start lost (sent.map (fun t => { t with watch := none })) }
    | _ => b) }

/-- Grants at 0, DRAW, refresh and plan hold timers stopped (R102). -/
def State.muteFeeders (s : State) : State :=
  let quiet := fun g => { groupGet s.feeders.groups g with grant := 0, refresh := none }
  s.setFeeders { s.feeders with groups := groupMake quiet, drawTimer := none, planHold := none }

/-- The entry to MUTE on a station clash (R191): each block as its chapter states, STATION_CLASH stored, the send queue
emptied, the one ALERT queued. -/
def State.enterMute (s : State) : State :=
  let s := s.setNode { s.node with state := .mute, listenTimer := none }
  let s := s.muteFeeders.zeroChargers
  let s := s.setCharging { s.charging with order := [], boundary := none }
  let s := s.dropAllOffers.endWatches
  let s := s.setAlloc { s.alloc with caller := .idle, arrived := [] }
  let s := s.setRuns { s.runs with runs := s.runs.runs.map (fun r =>
    { (if r.state == .claiming then r.fallBack else r) with refresh := none }) }
  let s := (s.storeAlert .stationClash s.cfg.station).emptyQueue
  s.setLink (s.link.push ⟨.alert .stationClash s.cfg.station s.stamp, 0, false⟩)

/-- The entry to RUN: stagger ends set, the first turn boundary taken (R119, R120, R205). -/
def State.enterRun (s : State) : State :=
  let s := s.setNode { s.node with state := .run, listenTimer := none }
  let s := s.setCharging { s.charging with
    chargers := s.charging.chargers.map (fun c => { c with staggerEnd := some (s.staggerFor c) }) }
  s.takeBoundary

end Sys2Proof.Machine
end

