-- ==== Sys2Proof/Machine/Reports.lean ====
section
/-! DEFINITION. The REPORT payloads (R104, R132, R153, R210): the items of the seven subjects and how an answer is
filled with them. -/

namespace Sys2Proof.Machine

/-! ### Codes (R210) -/

def laneKindCode : LaneKind → Nat
  | .deadEnd => 1
  | .through => 2

def laneStateCode : LaneState → Nat
  | .ready => 1
  | .suspect => 2
  | .closed => 3

def washStateCode : WashState → Nat
  | .idle => 1
  | .running => 2
  | .frostHold => 3
  | .stopped => 4

def stageStateCode : StageState → Nat
  | .empty => 1
  | .spinup => 2
  | .dwell => 3
  | .doneWait => 4
  | .leaving => 5
  | .runon => 6
  | .fault => 7

def placeholderCode : PlaceholderKind → Nat
  | .named => 1
  | .occupied => 2
  | .gap => 3

def placeCode : Place → Nat
  | .queued => 1
  | .washing _ => 2
  | .apron _ _ => 3
  | .transit _ _ _ _ => 4
  | .parked _ _ => 5
  | .shunting _ _ => 6
  | .shuntingBetween => 6
  | .released _ _ => 7

def chargerStateCode : ChargerState → Nat
  | .idle => 1
  | .settling => 2
  | .full => 3
  | .held => 4
  | .waiting => 5
  | .ramping => 6
  | .drawing => 7
  | .fault => 8

def runStateCode : RunState → Nat
  | .pending => 1
  | .claiming => 2
  | .claimedElsewhere => 3
  | .mine => 4
  | .late => 5
  | .departed => 6
  | .lapsed => 7
  | .cancelled => 8

def groupStateCode : GroupState → Nat
  | .unknown => 0
  | .told st => feederCode st

/-- A report is formed in LISTEN, RUN or MUTE alone (R206); the other states have no code. -/
def nodeStateCode : NodeState → Nat
  | .loading => 0
  | .configFault => 0
  | .listen => 3
  | .run => 4
  | .mute => 5

def maskCode (m : Mask) : Nat := flagBits [m.a, m.b, m.c]

/-- The fleet of a record as an item carries it: FFFFh for a placeholder, 0 for no record. -/
def fleetCode : Option Bus → Nat
  | none => 0
  | some b => b.fleet.getD 0xFFFF

/-- Seconds since an instant, at most 65 535; 0 for none. -/
def State.secondsSince (s : State) : Option Nat → Nat
  | none => 0
  | some t => min (s.now - t) 65535

/-- Three figures of two bytes, for A, B and C. -/
def three16 (p : PerGroup Nat) : List Byte := be16 p.a ++ be16 p.b ++ be16 p.c

/-! ### Items (R210) -/

def State.laneItem (s : State) (l : Lane) : List Byte :=
  [byte l.number, byte (laneKindCode l.kind), byte (laneStateCode l.state),
    byte (flagBits [l.closed, l.suspect, s.exitSignal l.number]),
    byte ((s.occupiedPositions l).length * 16 + l.reservations.length),
    byte (l.holds.length * 16 + s.entryRoom l)]
  ++ (List.range 6).flatMap (fun i => be16 (fleetCode (s.occupant l.number (i + 1))))

def State.washItem (s : State) : List Byte :=
  [byte (washStateCode s.washState), byte (flagBits [s.wash.frost, s.wash.promised])]
  ++ be16 (s.wash.called.getD 0)
  ++ [byte s.washQueue.length, byte s.wash.apron.length]
  ++ (List.range 4).map (fun i => byte (if i < s.stageCount then stageStateCode (s.stageState (i + 1)) else 0))
  ++ (List.range 4).flatMap (fun i => be16 (fleetCode (s.stageBus (i + 1))))

def State.queueItem (s : State) (b : Bus) : List Byte := be16 (b.fleet.getD 0) ++ be16 (s.busService b)

def apronItem (b : Bus) : List Byte :=
  be16 (b.fleet.getD 0)
  ++ [byte (classCode b.cls), byte (flagBits [b.washed, match b.place with | .apron u _ => u | _ => false])]

def State.laneSubject (s : State) : List (List Byte) :=
  s.lanes.map s.laneItem ++ (if s.cfg.washLane then [s.washItem] else [])
  ++ s.washQueue.map s.queueItem ++ (s.wash.apron.filterMap s.busOf).map apronItem

/-- The first item of a charger (R132, R210): the need in use with its source, 1 the record at the berth, 2 the session need
(R106); the seconds to the stagger end, 0 when it has passed and for a charger that has none, and the seconds since
connection, 0 for a FAULT charger that has no connection time (DESIGN CHOICE, log 34). -/
def State.chargerFirst (s : State) (c : Charger) : List Byte :=
  [byte c.berth, byte c.lane, byte c.pos, byte (maskCode c.conf.home), byte (maskCode c.mask),
    byte (groupCode (s.drawingGroup c)), byte (feederCode (s.effectiveState c)), byte (s.ceiling c),
    byte (chargerStateCode (s.chargerState c))]
  ++ be16 ((s.chargerNeed c).getD 0xFFFF) ++ [byte (if (s.chargerBus c).isSome then 1 else 2)]
  ++ be16 (if c.phase == .idle then 0 else s.secondsSince c.connectedAt)
  ++ be16 (min (c.staggerEnd.getD 0 - s.now) 65535)

/-- The place in the allocation order as it now stands, 1 first; FFh for none (log 35). -/
def placeIn (order : List Nat) (berth : Nat) : Nat :=
  match order.findIdx? (fun b => b == berth) with
  | some i => i + 1
  | none => 0xFF

def State.chargerSecond (s : State) (c : Charger) : List Byte :=
  [byte c.berth, byte c.target, byte c.planned, byte c.present, byte c.turnAge, byte (placeIn s.charging.order c.berth)]
  ++ (match c.figures with
      | some f => be24 f.deadline ++ [byte f.rate] ++ be24 (f.slack % 16777216).toNat
      | none => be24 0xFFFFFF ++ [byte 0xFF] ++ be24 0x800000)

def State.chargerSubject (s : State) : List (List Byte) :=
  (sortBy (fun x y => x.berth < y.berth) s.charging.chargers).flatMap (fun c => [s.chargerFirst c, s.chargerSecond c])

/-- Stage, lane and position of a place, 0 when absent. -/
def placeFields : Place → Nat × Nat × Nat
  | .queued => (0, 0, 0)
  | .washing stage => (stage, 0, 0)
  | .apron _ _ => (0, 0, 0)
  | .transit lane _ _ _ => (0, lane, 0)
  | .parked lane pos => (0, lane, pos)
  | .shunting lane pos => (0, lane, pos)
  | .shuntingBetween => (0, 0, 0)
  | .released lane pos => (0, lane, pos)

/-- A bus record's item (R210); the route byte of a record without a route is 0 (DESIGN CHOICE, log 47). -/
def State.busItem (s : State) (b : Bus) : List Byte :=
  let (stage, lane, pos) := placeFields b.place
  be16 (b.fleet.getD 0xFFFF)
  ++ [byte (placeholderCode b.kind), byte (classCode b.cls), byte (placeCode b.place), byte stage, byte lane, byte pos,
      byte (flagBits [b.washed, b.hold, match b.place with | .transit _ _ lost _ => lost | _ => false,
        match b.place with | .apron u _ => u | _ => false, b.route.isSome])]
  ++ be16 (b.run.getD 0) ++ be16 (b.pullOut.getD 0xFFFF) ++ [byte (b.route.getD 0)]
  ++ be16 (b.need.getD 0xFFFF) ++ be16 b.seq
  ++ be16 (match b.place with | .transit _ start _ _ => s.secondsSince (some start) | _ => 0)

def State.busSubject (s : State) : List (List Byte) :=
  (sortBy (fun x y => x.seq < y.seq) s.buses.records).map s.busItem

/-- A run's item (R153, R210); with no own claim its cost, and with no best heard claim its fleet and cost, are 0 (DESIGN
CHOICE, log 41). -/
def State.runItem (s : State) (r : Run) : List Byte :=
  be16 r.run ++ be16 r.pullOut ++ [byte r.route] ++ be16 (demandCode r.demand) ++ be16 r.allowance
  ++ [byte (runStateCode r.state), byte (flagBits [r.ownMark, r.ownDeparture])]
  ++ be16 (fleetCode (s.boundTo r.run))
  ++ (match r.claim with | some c => be16 c.fleet ++ be16 c.cost | none => be16 0 ++ be16 0)
  ++ (match r.best with
      | some b => [byte b.station] ++ be16 b.fleet ++ be16 b.cost
      | none => [byte 0xFF] ++ be16 0 ++ be16 0)

def State.runSubject (s : State) : List (List Byte) := s.runs.runs.map s.runItem

/-- The feeder group item. At a node without the feeder monitor role byte 3 is 0 (R210); flags bit 1, the hot input reading,
is sent as 0 there too (R104; DESIGN CHOICE, log 49). -/
def State.groupItem (s : State) (g : Group) : List Byte :=
  let r := groupGet s.feeders.groups g
  let i := groupGet s.inputs.groups g
  [byte (groupCode g), byte (groupStateCode r.state), byte (flagBits [r.hot, s.cfg.monitor && i.hot]),
    byte (if s.cfg.monitor then feederCode i.state else 0)]
  ++ be16 (s.effectiveCap g) ++ be16 (s.available g) ++ be16 r.grant ++ be16 (s.committed g)
  ++ be16 (s.plannedTotal g) ++ be16 (groupGet s.cfg.groups g).limit

def State.groupSubject (s : State) : List (List Byte) := allGroups.map s.groupItem

def State.stationFirst (s : State) (e : StationEntry) : List Byte :=
  [byte e.station, byte (flagBits [e.fresh.isSome, e.lastDraw.isSome, e.description.isSome])]
  ++ be16 (s.secondsSince e.lastDraw) ++ three16 e.maxima
  ++ (match e.description with
      | some d => [byte d.lanes, byte d.berths, byte d.chargers, byte (flagBits [d.wash, d.bypass])]
      | none => [0, 0, 0, 0])

def stationSecond (e : StationEntry) : List Byte := three16 e.committed ++ three16 e.planned

def State.stationSubject (s : State) : List (List Byte) :=
  s.feeders.stations.flatMap (fun e => [s.stationFirst e, stationSecond e])

def alertItem (e : AlertEntry) : List Byte :=
  [byte (alertCode e.code)] ++ be16 e.subject ++ be24 (e.time.getD 0xFFFFFF) ++ [byte e.acknowledged.toNat]

/-! ### The answer (R210) -/

/-- The subject head. -/
def State.reportHead (s : State) (subject : Nat) : List Byte :=
  match subject with
  | 4 => be16 s.runs.frontMark
  | 7 => [byte s.alerts.full.toNat]
  | _ => []

/-- The items of a subject in index order. -/
def State.reportItems (s : State) (subject : Nat) : List (List Byte) :=
  match subject with
  | 1 => s.laneSubject
  | 2 => s.chargerSubject
  | 3 => s.busSubject
  | 4 => s.runSubject
  | 5 => s.groupSubject
  | 6 => s.stationSubject
  | 7 => s.alerts.entries.map alertItem
  | _ => []

/-- The whole items that fit in `room` bytes, and how many are left (log 18). -/
def fitItems : Nat → List (List Byte) → List Byte × Nat
  | _, [] => ([], 0)
  | room, x :: xs =>
    if x.length ≤ room then
      let (out, left) := fitItems (room - x.length) xs
      (x ++ out, left)
    else ([], xs.length + 1)

/-- The next index and the payload of a REPORT answer. -/
def State.reportAnswer (s : State) (subject start : Nat) : Nat × List Byte :=
  let head := [byte (nodeStateCode s.node.state), byte subject] ++ s.reportHead subject
  let items := s.reportItems subject
  let (out, left) := fitItems (28 - head.length) (items.drop start)
  (if left == 0 then 0 else items.length - left, head ++ out)

end Sys2Proof.Machine
end

