-- ==== Sys2Proof/Machine/OrderOps.lean ====
section
/-! DEFINITION. What the commands share at the link: the hearing of a completed frame (R181, R184, R192), the taking of
an order and its answers (R206, R208). -/

namespace Sys2Proof.Machine

/-! ### Frames heard -/

/-- A frame ends on the line: `act` follows when the receiver took it and it is accepted. Nothing is heard in LOADING and
CONFIG_FAULT, while the reset line is held, or before the idle of 10 bit times that follows the frame before; the idle count
starts again all the same where the node reads the line (R181, R184, R186, R192, R202). -/
def State.hear (accepted : Bool) (act : State → State) (s : State) : State :=
  if s.mayDrive then (if s.takesFrame && accepted then act s.frameEnded else s.frameEnded) else s

/-- A frame of another station (R184). -/
def State.peer (s : State) (sender : Nat) : Bool := okStation sender && s.fromPeer sender

/-- A frame that only the office adapter may send (R184). -/
def State.office (s : State) (sender : Nat) : Bool := sender == 0 && s.fromPeer sender

/-! ### Orders (R206, R208) -/

/-- An ANSWER queued (R206). -/
def State.answer (station tag : Nat) (code : AnswerCode) (next : Nat) (payload : List Byte) (s : State) : State :=
  s.send (.answer station tag code next payload)

/-- An ANSWER that carries a code alone (R206). -/
def State.answerCode (station tag : Nat) (code : AnswerCode) (s : State) : State := s.answer station tag code 0 []

/-- What an order comes to: a code that answers it and leaves the node unchanged, or the node as the order leaves it,
answered DONE with a payload at once, or later (R208). -/
inductive Verdict where
  | no (code : AnswerCode)
  | done (after : State) (next : Nat) (payload : List Byte)
  | later (after : State)

/-- An ORDER for this node taken (R206): BUSY while one is in execution; INVALID when the arguments are not those of
the kind (R207); else as `judge` finds, the effect's frames queued before the ANSWER (log 7). -/
def State.takeOrder {α : Type} (sender tag : Nat) (args : List Byte) (parsed : Option α) (judge : α → State → Verdict)
    (s : State) : State :=
  s.hear (okOrderFrame sender tag args && s.fromPeer sender) (fun s =>
    match s.order, parsed with
    | some _, _ => s.answerCode sender tag .busy
    | none, none => s.answerCode sender tag .invalid
    | none, some x =>
      match judge x s with
      | .no code => s.answerCode sender tag code
      | .done after next payload => after.answer sender tag .done next payload
      | .later after => after)

/-- The verdict DONE with no payload. -/
def Verdict.plain (after : State) : Verdict := .done after 0 []

/-! ### Surveys (R207, R208) -/

/-- The bytes of one lane's survey outcome (R207). -/
def SurveyOutcome.bytes (o : SurveyOutcome) : List Byte := [byte o.lane, byte o.outcome, byte o.positions]

/-- The payload of a SURVEY's answer, in lane order (R207). -/
def surveyPayload (os : List SurveyOutcome) : List Byte :=
  (sortBy (fun x y => x.lane < y.lane) os).flatMap SurveyOutcome.bytes

/-- Positions as a set of bits 0 to 5 (R207). -/
def positionBits (ps : List Nat) : Nat := flagBits ((List.range 6).map (fun i => ps.contains (i + 1)))

/-- The SURVEY in execution waits for this lane (R208). -/
def State.surveyWaits (s : State) (lane : Nat) : Bool :=
  match s.order with
  | some o =>
    match o.work with
    | .survey waiting _ => waiting.contains lane
    | .restart _ => false
  | none => false

/-- The outcome of a lane reported to the SURVEY in execution, which is answered when no lane is left (R22, R208). -/
def State.reportOutcome (x : SurveyOutcome) (s : State) : State :=
  match s.order with
  | some o =>
    match o.work with
    | .survey waiting outcomes =>
      if waiting.contains x.lane then
        let waiting := waiting.filter (fun l => l != x.lane)
        let outcomes := outcomes ++ [x]
        if waiting.isEmpty then (s.setOrder none).answer o.station o.tag .done 0 (surveyPayload outcomes)
        else s.setOrder (some { o with work := .survey waiting outcomes })
      else s
    | .restart _ => s
  | none => s

end Sys2Proof.Machine
end

