-- ==== Sys2Proof/Machine/NodeCommands.lean ====
section
/-! DEFINITION. The commands of the node as a whole: power-on, the reset line, the configuration read, the listen timer
(R197 to R205, R209). -/

namespace Sys2Proof.Machine

/-- The reset line as a power-on finds it: the alert line starts deasserted (DESIGN CHOICE, log 3). -/
def ResetLine.atPowerOn : ResetLine → ResetLine
  | .released => .released
  | .held e _ => .held e false
  | .heldLong _ => .heldLong false

/-- POWER_ON (R203). -/
def execPowerOn (s : State) : Host.Outcome State Fault Refusal :=
  .next (s.setNode { s.node with resetLine := s.node.resetLine.atPowerOn }).coldStart

/-- RESET_LINE_ASSERTED (R202): the frame under way is cut off and nothing is received; the hold of 1 s begins, and the
alert line keeps its level. -/
def execResetLineAsserted (s : State) : Host.Outcome State Fault Refusal :=
  match s.node.resetLine with
  | .released =>
    .next ((s.setLink { s.link with sending := none, receiver := .waitIdle, idle := 0 }).setNode
      { s.node with resetLine := .held (s.now + 1) s.alertLine })
  | .held _ _ => .next s
  | .heldLong _ => .next s

/-- RESET_HOLD_EXPIRY (R202): held for 1 s, the node's state is lost. -/
def execResetHoldExpiry (s : State) : Host.Outcome State Fault Refusal :=
  match s.node.resetLine with
  | .released => .next s
  | .held e level =>
    if e ≤ s.now then .next (s.setNode { s.node with resetLine := .heldLong level }).coldStart else .next s
  | .heldLong _ => .next s

/-- RESET_LINE_RELEASED (R200, R202): a cold start after a hold of 1 s or from LOADING and CONFIG_FAULT, else a warm
restart. -/
def execResetLineReleased (s : State) : Host.Outcome State Fault Refusal :=
  let free := s.setNode { s.node with resetLine := .released }
  match s.node.resetLine with
  | .released => .next s
  | .held _ _ => .next (if s.active then free.warmRestart else free.coldStart)
  | .heldLong _ => .next free.coldStart

/-- CONFIG_READ_COMPLETE (R197 to R200, R203). While the reset line is held no read is completed; it is made anew after the
cold start that follows (DESIGN CHOICE, log 46). -/
def execConfigReadComplete (image : List Byte) (s : State) : Host.Outcome State Fault Refusal :=
  if s.node.state == .loading && s.node.resetLine == .released then
    match badCause image with
    | some cause => .next (s.configBad image cause)
    | none => .next (s.startFrom image)
  else .next s

/-- LISTEN_TIMER_EXPIRY (R205): the node enters RUN, takes its first turn boundary, and makes every test. -/
def execListenTimerExpiry (s : State) : Host.Outcome State Fault Refusal :=
  if s.node.state == .listen && expired s.now s.node.listenTimer then
    .next (s.enterRun.settle s (s.runs.runs.map (·.run)))
  else .next s

/-- RESTART_ANSWER_LEFT (R209): the answer of the RESTART in execution has left the send queue. -/
def execRestartAnswerLeft (s : State) : Host.Outcome State Fault Refusal :=
  match s.order with
  | some o =>
    match o.work with
    | .restart true => .next s.warmRestart
    | .restart false => .next s
    | .survey _ _ => .next s
  | none => .next s

end Sys2Proof.Machine
end

