-- ==== Sys2Proof/Machine/LaneCommands.lean ====
section
/-! DEFINITION. The commands of the Lane Monitor: reader readings (R9 to R16), berth detectors (R17, R18), the end of a
survey period (R21, R22). -/

namespace Sys2Proof.Machine

/-! ### Entries (R10 to R14) -/

/-- The fleet's record occupies the entry-most occupied position of the lane (R10). -/
def State.standsAtEntry (s : State) (l : Lane) (fleet : Nat) : Bool :=
  match s.entryMost l with
  | some p => (match s.occupant l.number p with | some b => b.fleet == some fleet | none => false)
  | none => false

/-- The lane in which the record's arrival is expected, with the kind of its reservation (R11). -/
def State.expectedAt (s : State) (b : Bus) : Option (Nat × ReservationKind) :=
  match b.place with
  | .transit lane _ _ _ => some (lane, .transit)
  | .shuntingBetween =>
    match s.shuntOf (b.fleet.getD 0) with
    | some o => some (o.target, .shunt)
    | none => none
  | _ => none

/-- The take of a transit that ends while its take watch runs is remembered (R77; log 12). -/
def State.keepTake (b : Bus) (fleet : Nat) (s : State) : State :=
  match b.place with
  | .transit _ _ _ (some t) =>
    if t.watch.isSome then s.setAlloc { s.alloc with arrived := s.alloc.arrived ++ [⟨fleet, t⟩] } else s
  | _ => s

/-- An expected bus arrives (R11, R80, R173). -/
def State.arrive (l : Lane) (pos fleet : Nat) (b : Bus) (kind : ReservationKind) (s : State) : State :=
  let s := ((s.parkAt b.id l.number pos).keepTake b fleet).removeShunt fleet
  if l.reservations.contains ⟨kind, fleet⟩ then s.releaseReservation l.number ⟨kind, fleet⟩ else s.roomTest l.number

/-- A record that stood at no position is moved to the lane that read it (R12, R59, R70). The room test of R14 is made with
the effect of R12, before the end of its call releases this node's own hold (DESIGN CHOICE, log 29). -/
def State.moveIn (l : Lane) (pos fleet : Nat) (b : Bus) (s : State) : State :=
  let called := s.callingFor fleet && b.isApron
  let s := ((s.leaveWash b).dropReservations fleet).removeShunt fleet
  let s := ((s.parkAt b.id l.number pos).keepTake b fleet).roomTest l.number
  if called then s.endCall.send (.found fleet l.number) else s

/-- What follows for a record taken from a position: its release or its shunt ends, its reservation goes (R12, R164,
R173). -/
def State.endStanding (fleet : Nat) (b : Bus) (s : State) : State :=
  let s := (s.dropReservations fleet).removeShunt fleet
  if b.isReleased && s.releasing fleet then s.failRelease .runLate false else s

/-- A record that stood at the leaving position of its old lane is moved (R12). -/
def State.moveFromLeaving (l : Lane) (pos fleet oldLane oldPos : Nat) (b : Bus) (s : State) : State :=
  let s := (s.parkAt b.id l.number pos).settleBerth true oldLane oldPos
  ((s.suspectLane oldLane).endStanding fleet b).roomTest l.number

/-- The class of a placeholder of a lane (R29). -/
def State.placeholderClassOf (s : State) (lane : Nat) : BusClass :=
  match s.laneOf lane with
  | some l => placeholderClass l.conf.classes
  | none => .midi

/-- A placeholder put at a position (R12, R21, R29, R32, R113). -/
def State.addPlaceholder (lane pos : Nat) (s : State) : State :=
  let kind : PlaceholderKind := if s.detector lane pos then .occupied else .gap
  (s.addBus none kind (s.placeholderClassOf lane) (.parked lane pos) false).repeatNeed lane pos

/-- A record that stood at any other position of its old lane is moved, a placeholder keeping the old stack unbroken;
with no room for it the move is not made (R12). -/
def State.moveFromInside (l : Lane) (pos fleet oldLane oldPos : Nat) (b : Bus) (s : State) : State :=
  if s.tableRoom then
    let s := (s.parkAt b.id l.number pos).addPlaceholder oldLane oldPos
    ((s.suspectLane oldLane).endStanding fleet b).roomTest l.number
  else (s.raise .busTableFull oldLane).suspectLane l.number

/-- An entry for a fleet with no record (R13, R83). -/
def State.strayEntry (l : Lane) (pos fleet : Nat) (s : State) : State :=
  let s :=
    if s.tableRoom then
      (((s.addNamed fleet (.parked l.number pos)).repeatNeed l.number pos).settleBerth true l.number pos).roomTest l.number
    else (s.raise .busTableFull fleet).suspectLane l.number
  (s.send (.found fleet l.number)).raise .stray fleet

/-- An entry for a fleet whose record is at the node (R11, R12). -/
def State.knownEntry (l : Lane) (pos fleet : Nat) (b : Bus) (s : State) : State :=
  match s.expectedAt b, b.berth? with
  | some (lane, kind), _ => if lane == l.number then s.arrive l pos fleet b kind else s.moveIn l pos fleet b
  | none, some (oldLane, oldPos) =>
    if s.atLeaving b then s.moveFromLeaving l pos fleet oldLane oldPos b
    else s.moveFromInside l pos fleet oldLane oldPos b
  | none, none => s.moveIn l pos fleet b

/-- An IN at the entry end of a lane (R10 to R13). -/
def State.laneEntry (l : Lane) (fleet : Nat) (s : State) : State :=
  if s.standsAtEntry l fleet then s
  else
    match s.entryPos l with
    | none => (s.markSuspect l.number).raise .stray fleet
    | some pos =>
      match s.busOf fleet with
      | none => s.strayEntry l pos fleet
      | some b => s.knownEntry l pos fleet b

/-! ### Leaving (R15, R16, R161) -/

/-- The released bus has left: the release ends with a departure (R161). -/
def State.departRelease (rel : Release) (id : Nat) (s : State) : State :=
  let told := s.listenOrRun
  let s := s.setDepartures { s.departures with release := none, lastExit := some s.clock.time }
  let s := s.updateRun rel.run (fun r =>
    { r.dropClaim with state := .departed, ownMark := false, ownDeparture := told })
  (s.send (.depart rel.run rel.fleet s.clock.time)).deleteBus id

/-- The record at the leaving position is read out (R15, R173). -/
def State.leaveLane (l : Lane) (pos : Nat) (b : Bus) (s : State) : State :=
  match b.place with
  | .released _ _ =>
    match s.departures.release with
    | some rel => (s.departRelease rel b.id).settleBerth true l.number pos
    | none => s
  | .shunting _ _ =>
    let s := s.setDepartures { s.departures with shunts := s.departures.shunts.map (fun o =>
      if b.fleet == some o.fleet then { o with phase := .between } else o) }
    (s.setPlace b.id .shuntingBetween).settleBerth true l.number pos
  | .parked _ _ => (s.setPlace b.id (.transit l.number s.now true none)).settleBerth true l.number pos
  | _ => s

/-- An OUT at the leaving end of a lane (R15, R16). -/
def State.laneExit (l : Lane) (fleet : Nat) (s : State) : State :=
  match s.leavingPos l, s.leavingBus l with
  | some pos, some b => if b.fleet == some fleet then s.leaveLane l pos b else s.suspectLane l.number
  | _, _ => s.suspectLane l.number

/-- What a reading at an input of a lane means (R4). -/
inductive ReadingKind where
  | discarded | wrongWay | entry | leaving
deriving DecidableEq, Repr

/-- The table of R4. -/
def readingKind : LaneKind → ReaderInput → Direction → ReadingKind
  | .deadEnd, .front, .inward => .entry
  | .deadEnd, .front, .outward => .leaving
  | .deadEnd, .rear, _ => .discarded
  | .through, .rear, .inward => .entry
  | .through, .rear, .outward => .wrongWay
  | .through, .front, .inward => .wrongWay
  | .through, .front, .outward => .leaving

/-- LANE_READER_READING (R4, R9). -/
def execLaneReaderReading (lane : Nat) (input : ReaderInput) (fleet : Nat) (dir : Direction) (s : State) :
    Host.Outcome State Fault Refusal :=
  match s.active && okFleet fleet, s.laneOf lane with
  | true, some l =>
    match readingKind l.kind input dir with
    | .discarded => .next s
    | .wrongWay => .next (s.suspectLane lane)
    | .entry => .next ((s.laneEntry l fleet).settle s [])
    | .leaving => .next ((s.laneExit l fleet).settle s [])
  | _, _ => .next s

/-! ### Detectors (R17, R18) -/

/-- The level of a berth detector taken in (R17). -/
def State.setDetector (lane pos : Nat) (occupied : Bool) (s : State) : State :=
  s.setInputs { s.inputs with berths :=
    if occupied then s.inputs.berths ++ [(lane, pos)] else s.inputs.berths.filter (fun p => p != (lane, pos)) }

/-- BERTH_DETECTOR_CHANGE (R17, R18). A change that names no berth, of a lane that is not there or at a position before the
first or past the last, is taken into the levels and moves no settle state (DEDUCED, log 6). -/
def execBerthDetectorChange (lane pos : Nat) (occupied : Bool) (s : State) : Host.Outcome State Fault Refusal :=
  if s.detector lane pos == occupied then .next s
  else
    let s := s.setDetector lane pos occupied
    .next (if s.active && 1 ≤ pos then s.settleBerth false lane pos else s)

/-- The settle timer of a settle state (R18). -/
def BerthSettle.timer : BerthSettle → Option Nat
  | .awaitEvent e => some e
  | .awaitDetector e => some e
  | .quiet => none
  | .mismatch => none

/-- The settle timer of a position has run out (R18). -/
def State.settleExpired (s : State) (lane pos : Nat) : Bool :=
  match s.laneOf lane with
  | some l => 1 ≤ pos && (match l.settle[pos - 1]? with | some st => expired s.now st.timer | none => false)
  | none => false

/-- BERTH_SETTLE_EXPIRY (R18, R19). -/
def execBerthSettleExpiry (lane pos : Nat) (s : State) : Host.Outcome State Fault Refusal :=
  if s.active && s.settleExpired lane pos then
    .next ((s.updateLane lane (fun l => { l with settle := updateAt (fun _ => .mismatch) (pos - 1) l.settle })).suspectLane lane)
  else .next s

/-! ### The end of a survey period (R21, R22, R26) -/

/-- The positions whose detector shows occupied, ascending (R21). -/
def State.shownPositions (s : State) (l : Lane) : List Nat := l.positions.filter (fun p => s.detector l.number p)

/-- The covering run (R21). -/
def State.coveringRun (s : State) (l : Lane) : List Nat :=
  match (s.shownPositions l).head?, (s.shownPositions l).getLast? with
  | some lo, some hi =>
    let top := match l.kind with | .deadEnd => l.size | .through => hi
    l.positions.filter (fun p => lo ≤ p && p ≤ top)
  | _, _ => []

/-- The positions of the lane where stack and detectors disagree (R22). -/
def State.disagreeing (s : State) (l : Lane) : List Nat := l.positions.filter (fun p => !s.agrees l.number p)

/-- The records of the lane whose detector shows clear (R21). -/
def State.goneRecords (s : State) (l : Lane) : List Bus :=
  l.positions.filterMap (fun p => if s.detector l.number p then none else s.occupant l.number p)

/-- The positions that the survey gives a placeholder: those of the covering run that hold no record after the first
step (R21, R22). -/
def State.placeholderPositions (s : State) (l : Lane) : List Nat :=
  (s.coveringRun l).filter (fun p => !(s.detector l.number p && s.recorded l.number p))

/-- The Bus Table will have room for the lane's placeholders after the first step's deletions (R22). -/
def State.surveyRoom (s : State) (l : Lane) : Bool :=
  s.buses.records.length - (s.goneRecords l).length + (s.placeholderPositions l).length ≤ 64

/-- The stack of a lane holds a placeholder (R21, R23). -/
def State.holdsPlaceholder (s : State) (lane : Nat) : Bool :=
  s.buses.records.any (fun b => b.isPlaceholder && (match b.berth? with | some (l, _) => l == lane | none => false))

/-- The settle states that a survey leaves (R21). -/
def State.surveySettle (l : Lane) (s : State) : State :=
  s.updateLane l.number (fun x => { x with
    settle := l.positions.map (fun p => if s.agrees l.number p then .quiet else .mismatch)
    suspect := s.holdsPlaceholder l.number
    survey := none })

/-- The code of a lane's state in a survey outcome (R207). -/
def State.surveyCode (s : State) (lane : Nat) : Nat :=
  match s.laneOf lane with
  | some l => laneStateCode l.state
  | none => 4

/-- A surveyed lane brought to its detectors, with the outcome its answer gives (R21, R22). Its placeholders take their
arrival sequences in ascending position, occupied and gap alike (DESIGN CHOICE, log 30). -/
def State.surveyLane (l : Lane) (s : State) : State × SurveyOutcome :=
  let off := s.disagreeing l
  if s.surveyRoom l then
    let holes := s.placeholderPositions l
    let gone := (s.goneRecords l).map (·.id)
    let s := gone.foldl (fun s id => s.deleteBus id) s
    let s := holes.foldl (fun s p => s.addPlaceholder l.number p) s
    let s := (State.roomTests l.number l.promisedCount s).surveySettle l
    let gaps := holes.filter (fun p => !s.detector l.number p)
    (s, ⟨l.number, s.surveyCode l.number, positionBits (off ++ gaps)⟩)
  else
    let s := s.updateLane l.number (fun x => { x with suspect := true, survey := none })
    (s.raise .busTableFull l.number, ⟨l.number, 4, positionBits off⟩)

/-- A survey that no order waits for raises LANE_SUSPECT where it was carried out and left the mark set (R19, R26); one not
carried out for want of room has raised BUS_TABLE_FULL alone (R22; DEDUCED, log 13). -/
def State.tellSuspect (x : SurveyOutcome) (s : State) : State :=
  match s.laneOf x.lane with
  | some l => if l.suspect && x.outcome != 4 then s.raise .laneSuspect x.lane else s
  | none => s

/-- SURVEY_PERIOD_END (R21, R22, R26, R208). -/
def execSurveyPeriodEnd (lane : Nat) (s : State) : Host.Outcome State Fault Refusal :=
  match s.active, s.laneOf lane with
  | true, some l =>
    if expired s.now l.survey then
      let (t, x) := s.surveyLane l
      let t := (if t.surveyWaits lane then t else t.tellSuspect x).settle s []
      .next (t.reportOutcome x)
    else .next s
  | _, _ => .next s

end Sys2Proof.Machine
end

