-- ==== Sys2Proof/Machine/WashCommands.lean ====
section
/-! DEFINITION. The commands of the Wash Sequencer: entry and bypass readings (R44 to R46), stage detectors (R52 to
R58), the wash timers (R53 to R57), the stop and temperature inputs (R60 to R62). -/

namespace Sys2Proof.Machine

/-- The wash rules apply: LISTEN, RUN or MUTE at a node with a wash lane (R43). -/
def State.washes (s : State) : Bool := s.active && s.cfg.washLane

/-! ### Readings (R44 to R46) -/

/-- A record created QUEUED (R32, R44). -/
def State.createQueued (fleet : Nat) (s : State) : State :=
  if s.tableRoom then s.addNamed fleet .queued else s.raise .busTableFull fleet

/-- A record created in place APRON and put on the apron list (R32, R44, R46, R48). -/
def State.createApron (fleet : Nat) (s : State) : State :=
  if s.tableRoom then
    (s.addNamed fleet (.apron false none)).setWash { s.wash with apron := s.wash.apron ++ [fleet] }
  else s.raise .busTableFull fleet

/-- The place a new bus finds at the entry (R44). -/
def State.takeEntry (fleet : Nat) (s : State) : State :=
  if s.queueCount < 8 then s.createQueued fleet
  else if s.apronRoom then s.createApron fleet
  else s.raise .entryOverflow fleet

/-- The place a new bus finds at the bypass (R46). -/
def State.takeBypass (fleet : Nat) (s : State) : State :=
  if s.apronRoom then s.createApron fleet else s.raise .entryOverflow fleet

/-- ENTRY_READER_READING (R44, R45). -/
def execEntryReaderReading (fleet : Nat) (s : State) : Host.Outcome State Fault Refusal :=
  if s.washes && okFleet fleet && (s.busOf fleet).isNone then .next ((s.takeEntry fleet).settle s []) else .next s

/-- BYPASS_READER_READING (R45, R46). -/
def execBypassReaderReading (fleet : Nat) (s : State) : Host.Outcome State Fault Refusal :=
  if s.active && s.cfg.bypass && okFleet fleet && (s.busOf fleet).isNone then
    .next ((s.takeBypass fleet).settle s [])
  else .next s

/-! ### Stage detectors (R52, R54, R56 to R58) -/

/-- The record whose advance or call into the stage stands, with the stage it comes from, 0 for the queue (R52, R57). -/
def State.comingInto (s : State) (stage : Nat) : Option (Bus × Nat) :=
  if stage == 1 then
    match s.wash.called with
    | some f => (s.busOf f).map (fun b => (b, 0))
    | none => none
  else if s.stageState (stage - 1) == .leaving || s.stageState (stage - 1) == .fault then
    (s.stageBus (stage - 1)).map (fun b => (b, stage - 1))
  else none

/-- A confirmation: the record moves into the stage, and the call or the stage behind it ends (R54, R56, R57). -/
def State.confirmInto (b : Bus) (from_ stage : Nat) (s : State) : State :=
  let s := s.receiveInto b.id stage
  if from_ == 0 then s.setWash { s.wash with called := none, callTimer := none } else s.vacate from_

/-- A stage without a record shows a bus: a confirmation or an intruding bus (R52). -/
def State.stageShown (stage : Nat) (s : State) : State :=
  match s.comingInto stage with
  | some (b, from_) => s.confirmInto b from_ stage
  | none => (s.setStage stage .fault none).enterStopped

/-- The last stage's bus is confirmed on the apron, washed (R56, R57). -/
def State.confirmApron (b : Bus) (fleet stage : Nat) (s : State) : State :=
  let s := (s.updateBus b.id (fun x => { x with washed := true })).joinApron b.id fleet
  (s.setWash { s.wash with promised := false }).vacate stage

/-- A stage detector goes clear (R52, R58). -/
def State.stageCleared (stage : Nat) (s : State) : State :=
  match s.stageBus stage with
  | some b =>
    if stage == s.stageCount && (s.stageState stage == .leaving || s.stageState stage == .fault) then
      s.confirmApron b (b.fleet.getD 0) stage
    else s
  | none => if s.stageState stage == .fault then s.setStage stage .empty none else s

/-- The effect of a stage detector change (R52). -/
def State.stageChanged (stage : Nat) (occupied : Bool) (s : State) : State :=
  if occupied then (if (s.stageBus stage).isSome then s else s.stageShown stage) else s.stageCleared stage

/-- The level of a stage detector taken in (R52). -/
def State.setStageDetector (stage : Nat) (occupied : Bool) (s : State) : State :=
  s.setInputs { s.inputs with stages :=
    if occupied then s.inputs.stages ++ [stage] else s.inputs.stages.filter (fun x => x != stage) }

/-- STAGE_DETECTOR_CHANGE (R52). A change at a stage that is not there is taken into the levels alone (DEDUCED, log 6). -/
def execStageDetectorChange (stage : Nat) (occupied : Bool) (s : State) : Host.Outcome State Fault Refusal :=
  if s.stageDetector stage == occupied then .next s
  else
    let s := s.setStageDetector stage occupied
    .next (if s.active && 1 ≤ stage && stage ≤ s.stageCount then (s.stageChanged stage occupied).settleWash else s)

/-! ### Timers (R53 to R57) -/

/-- The timer of a stage in this state has run out (R51). -/
def State.stageExpired (s : State) (stage : Nat) (st : StageState) : Bool :=
  s.active && 1 ≤ stage &&
    (match s.wash.stages[stage - 1]? with
     | some x => x.state == st && expired s.now x.timer
     | none => false)

/-- ENTRY_CALL_TIMEOUT (R54). -/
def execEntryCallTimeout (s : State) : Host.Outcome State Fault Refusal :=
  match s.active && expired s.now s.wash.callTimer, s.wash.called with
  | true, some fleet =>
    let s := s.setWash { s.wash with called := none, callTimer := none }
    .next ((s.raise .washStageTimeout fleet).enterStopped).settleWash
  | _, _ => .next s

/-- SPINUP_EXPIRY (R55). -/
def execSpinupExpiry (stage : Nat) (s : State) : Host.Outcome State Fault Refusal :=
  if s.stageExpired stage .spinup then .next (s.enterDwell stage) else .next s

/-- DWELL_EXPIRY (R55): the stage waits for its onward place, and leaves at once when that is free. -/
def execDwellExpiry (stage : Nat) (s : State) : Host.Outcome State Fault Refusal :=
  if s.stageExpired stage .dwell then .next (s.setStage stage .doneWait none).settleWash else .next s

/-- RUNON_EXPIRY (R56). -/
def execRunonExpiry (stage : Nat) (s : State) : Host.Outcome State Fault Refusal :=
  if s.stageExpired stage .runon then .next (s.setStage stage .empty none).settleWash else .next s

/-- ADVANCE_TIMEOUT (R57). -/
def execAdvanceTimeout (stage : Nat) (s : State) : Host.Outcome State Fault Refusal :=
  if s.stageExpired stage .leaving then
    let fleet := match s.stageBus stage with | some b => b.fleet.getD 0 | none => 0
    .next (((s.setStage stage .fault none).raise .washStageTimeout fleet).enterStopped)
  else .next s

/-! ### Stop and temperature inputs (R60, R62) -/

/-- STOP_INPUT_ASSERTED (R62). -/
def execStopInputAsserted (s : State) : Host.Outcome State Fault Refusal :=
  let s := s.setInputs { s.inputs with stop := true }
  .next (if s.washes then s.enterStopped else s)

/-- STOP_INPUT_CLEARED: it does not of itself end STOPPED (R63). -/
def execStopInputCleared (s : State) : Host.Outcome State Fault Refusal :=
  .next (s.setInputs { s.inputs with stop := false })

/-- The clearing timer under a temperature: running from two degrees above the threshold on, while the frost flag is
set (R60). -/
def State.clearingUnder (s : State) (frost : Bool) (degrees : Int) : Option Nat :=
  if frost && decide (s.cfg.frostThreshold + 2 ≤ degrees) then
    match s.wash.clearing with
    | some t => some t
    | none => some (s.now + 600)
  else none

/-- TEMPERATURE_READING (R50, R60). -/
def execTemperatureReading (degrees : Int) (s : State) : Host.Outcome State Fault Refusal :=
  let s := s.setInputs { s.inputs with temperature := degrees }
  if s.washes then
    let frost := s.wash.frost || decide (degrees < s.cfg.frostThreshold)
    .next ((s.setWash { s.wash with frost := frost, clearing := s.clearingUnder frost degrees }).enterFrostHold).settleWash
  else .next s

/-- FROST_CLEAR_EXPIRY (R50, R60). -/
def execFrostClearExpiry (s : State) : Host.Outcome State Fault Refusal :=
  if s.active && expired s.now s.wash.clearing then
    let mode := if s.wash.mode == .frostHold then .normal else s.wash.mode
    .next (s.setWash { s.wash with frost := false, clearing := none, mode := mode }).settleWash
  else .next s

end Sys2Proof.Machine
end

