-- ==== Sys2Proof/Machine/BerthCommands.lean ====
section
/-! DEFINITION. The commands of the Berth Allocator: its timers (R69, R75 to R78, R81) and the notices PARK_CALL, OFFER,
TAKE and FOUND heard (R71 to R74, R77, R78, R82). -/

namespace Sys2Proof.Machine

/-! ### Calls (R68, R69) -/

/-- The record of a fleet while it stands on the apron (R68). -/
def State.apronBus (s : State) (fleet : Nat) : Option Bus := (s.busOf fleet).filter Bus.isApron

/-- A series ends without a take (R69); NO_BERTH is raised also where the called record has left the apron (DESIGN CHOICE,
log 43). -/
def State.endSeries (fleet : Nat) (s : State) : State :=
  let s := (s.raise .noBerth fleet).callerIdle
  match s.apronBus fleet with
  | some b => s.setPlace b.id (.apron true (some (s.now + 300)))
  | none => s

/-- CALL_TIMER_EXPIRY (R69). Below the third call, a series whose record has left the apron ends without NO_BERTH (DESIGN
CHOICE, log 43). -/
def execCallTimerExpiry (s : State) : Host.Outcome State Fault Refusal :=
  match s.alloc.caller with
  | .calling c count timer =>
    if s.now < timer then .next s
    else if count < 3 then
      match s.apronBus c.fleet with
      | some b => .next (s.makeCall b c.fleet (count + 1))
      | none => .next s.callerIdle.settleWash
    else .next (s.endSeries c.fleet).settleWash
  | .idle => .next s
  | .taken _ _ _ _ => .next s

/-- UNPLACED_RETRY_EXPIRY (R68, R69). -/
def execUnplacedRetryExpiry (fleet : Nat) (s : State) : Host.Outcome State Fault Refusal :=
  match s.busOf fleet with
  | some b =>
    match b.place with
    | .apron unplaced retry =>
      if expired s.now retry then .next (s.setPlace b.id (.apron unplaced none)).settleWash else .next s
    | _ => .next s
  | none => .next s

/-- TAKE_WAIT_EXPIRY (R78). -/
def execTakeWaitExpiry (s : State) : Host.Outcome State Fault Refusal :=
  match s.alloc.caller with
  | .taken _ _ _ timer => if s.now < timer then .next s else .next s.callerIdle.settleWash
  | .idle => .next s
  | .calling _ _ _ => .next s

/-! ### Takes (R75 to R78) -/

/-- A TAKE heard for the current call, or this node's own applied at queuing (R78, R79). -/
def State.takeForCall (station seq lane cost : Nat) (s : State) : State :=
  match s.alloc.caller with
  | .calling c count _ =>
    if c.seq == seq then
      s.setAlloc { s.alloc with
        caller := .taken c count ⟨station, lane, cost⟩ (s.now + s.cfg.takeWait)
        display := some ⟨c.fleet, station, lane⟩ }
    else s
  | .taken c count best timer =>
    if c.seq == seq && betterPair (cost, station) (best.cost, best.station) then
      s.setAlloc { s.alloc with
        caller := .taken c count ⟨station, lane, cost⟩ timer
        display := some ⟨c.fleet, station, lane⟩ }
    else s
  | .idle => s

/-- A take won with its record: the hold converted, TAKE queued and applied at home (R76, R78). -/
def State.finishTake (o : OfferRecord) (s : State) : State :=
  let s := s.convertHold o.lane ⟨o.caller, o.call.seq⟩ o.call.fleet
  let s := s.send (.take o.caller o.call.seq o.lane o.cost)
  if o.caller == s.cfg.station then s.takeForCall s.cfg.station o.call.seq o.lane o.cost else s

/-- The transit that a take begins (R67, R76). -/
def State.takePlace (o : OfferRecord) (s : State) : Place :=
  .transit o.lane s.now false
    (some ⟨o.caller, o.call.seq, o.cost, some (s.now + s.cfg.offerWindow + s.cfg.takeWait)⟩)

/-- A call won: the Bus Table's answer decides (R32, R33, R76). A record on this node's apron is moved for a peer's call too
(DEDUCED, log 11). -/
def State.winCall (o : OfferRecord) (s : State) : State :=
  let s := s.removeOffer o.caller
  match s.busOf o.call.fleet with
  | some b =>
    if b.isApron then ((s.leaveApron o.call.fleet).setPlace b.id (s.takePlace o)).finishTake o
    else s.releaseHold o.lane ⟨o.caller, o.call.seq⟩
  | none =>
    if s.tableRoom then
      (s.addBus (some o.call.fleet) .named o.call.cls (s.takePlace o) o.call.washed).finishTake o
    else (s.raise .busTableFull o.call.fleet).releaseHold o.lane ⟨o.caller, o.call.seq⟩

/-- This node has lost the call (R75). -/
def State.lostCall (s : State) (o : OfferRecord) : Bool :=
  o.withdrawn || (match o.best with | some b => betterPair b (o.cost, s.cfg.station) | none => false)

/-- OFFER_WINDOW_EXPIRY (R75, R76). -/
def execOfferWindowExpiry (caller : Nat) (s : State) : Host.Outcome State Fault Refusal :=
  match s.offerOf caller with
  | some o =>
    if s.now < o.window then .next s
    else if s.lostCall o then .next ((s.dropOffer caller).settle s [])
    else .next ((s.winCall o).settle s [])
  | none => .next s

/-- TAKE_WATCH_EXPIRY (R77). -/
def execTakeWatchExpiry (fleet : Nat) (s : State) : Host.Outcome State Fault Refusal :=
  let s := s.setAlloc { s.alloc with
    arrived := s.alloc.arrived.filter (fun a => a.fleet != fleet || !expired s.now a.sent.watch) }
  match s.busOf fleet with
  | some b =>
    match b.place with
    | .transit lane start lost (some t) =>
      if expired s.now t.watch then .next (s.setPlace b.id (.transit lane start lost (some { t with watch := none })))
      else .next s
    | _ => .next s
  | none => .next s

/-- The transit timeout of a record has run out (R81). -/
def State.transitExpired (s : State) (b : Bus) : Bool :=
  match b.place with
  | .transit _ start _ _ => start + s.cfg.transitTimeout * 60 ≤ s.now
  | _ => false

/-- TRANSIT_TIMEOUT (R81). -/
def execTransitTimeout (fleet : Nat) (s : State) : Host.Outcome State Fault Refusal :=
  match s.active, s.busOf fleet with
  | true, some b =>
    if s.transitExpired b then .next (((s.deleteBus b.id).raise .mispark fleet).settle s []) else .next s
  | _, _ => .next s

/-! ### Notices (R71 to R74, R77, R78, R82) -/

/-- PARK_CALL heard (R71 to R73). -/
def execParkCall (sender seq fleet : Nat) (cls : BusClass) (route pullOut : Option Nat) (washed : Bool) (s : State) :
    Host.Outcome State Fault Refusal :=
  .next (s.hear (s.peer sender && okByte seq && okFleet fleet && okOptional okByte route && okOptional okMinute pullOut)
    (fun s => if s.inRun then s.evaluateCall sender ⟨seq, fleet, cls, route, pullOut, washed⟩ else s))

/-- An OFFER or a TAKE collected by the open offer record of its call (R74). -/
def State.collectOffer (station caller seq cost : Nat) (s : State) : State :=
  s.setAlloc { s.alloc with offers := s.alloc.offers.map (fun o =>
    if o.caller == caller && o.call.seq == seq then
      match o.best with
      | some b => if betterPair (cost, station) b then { o with best := some (cost, station) } else o
      | none => { o with best := some (cost, station) }
    else o) }

/-- OFFER heard (R74). -/
def execOffer (sender caller seq cost : Nat) (s : State) : Host.Outcome State Fault Refusal :=
  .next (s.hear (s.peer sender && okPeer caller && okByte seq && okCost cost)
    (fun s => if s.inRun then s.collectOffer sender caller seq cost else s))

/-- A take sent for this call loses to the one heard (R77). -/
def SentTake.losesTo (t : SentTake) (own station caller seq cost : Nat) : Bool :=
  t.caller == caller && t.seq == seq && t.watch.isSome && betterPair (cost, station) (t.cost, own)

/-- The records whose take is lost (R77). -/
def State.lostTakes (s : State) (station caller seq cost : Nat) : List Nat :=
  (s.buses.records.filter (fun b =>
    match b.place with
    | .transit _ _ _ (some t) => t.losesTo s.cfg.station station caller seq cost
    | _ => false)).map (·.id)

/-- The bus of a lost take stands at a lane already: FOUND (R77). -/
def State.foundArrived (a : ArrivedTake) (s : State) : State :=
  match (s.busOf a.fleet).bind Bus.berth? with
  | some (lane, _) => s.send (.found a.fleet lane)
  | none => s

/-- A TAKE heard, compared with the takes this node has sent (R77). -/
def State.compareTakes (station caller seq cost : Nat) (s : State) : State :=
  let s := (s.lostTakes station caller seq cost).foldl (fun s id => s.deleteBus id) s
  (s.alloc.arrived.filter (fun a => a.sent.losesTo s.cfg.station station caller seq cost)).foldl
    (fun s a => s.foundArrived a) s

/-- A TAKE heard for a call of this node: the first deletes the called record (R34, R78). -/
def State.callerTake (station caller seq lane cost : Nat) (s : State) : State :=
  if caller == s.cfg.station then
    match s.alloc.caller with
    | .calling c _ _ =>
      if c.seq == seq then
        let t := s.takeForCall station seq lane cost
        match s.apronBus c.fleet with
        | some b => t.deleteBus b.id
        | none => t
      else s
    | .taken _ _ _ _ => s.takeForCall station seq lane cost
    | .idle => s
  else s

/-- TAKE heard (R74, R77, R78). -/
def execTake (sender caller seq lane cost : Nat) (s : State) : Host.Outcome State Fault Refusal :=
  .next (s.hear (s.peer sender && okPeer caller && okByte seq && okLane lane && okCost cost)
    (fun s =>
      if s.inRun then
        (((s.collectOffer sender caller seq cost).compareTakes sender caller seq cost).callerTake sender caller seq lane
          cost).settle s []
      else s))

/-- A FOUND heard for a fleet (R82). -/
def State.foundElsewhere (fleet : Nat) (s : State) : State :=
  match s.busOf fleet with
  | some b =>
    if b.isTransit then s.deleteBus b.id
    else if b.isApron then (if s.callingFor fleet then s.endCall else s).deleteBus b.id
    else s
  | none => s

/-- FOUND heard (R82). -/
def execFound (sender fleet lane : Nat) (s : State) : Host.Outcome State Fault Refusal :=
  .next (s.hear (s.peer sender && okFleet fleet && okLane lane) (fun s => (s.foundElsewhere fleet).settle s []))

end Sys2Proof.Machine
end

