-- ==== Sys2Proof/Machine/ChargeCommands.lean ====
section
/-! DEFINITION. The commands of the Charge Scheduler: charger link reports (R108 to R112), its timers (R109, R120,
R128) and the end of a plan hold (R101). -/

namespace Sys2Proof.Machine

/-- The charger of a berth, while the node takes link reports (R129). -/
def State.linkCharger (s : State) (berth : Nat) : Option Charger := if s.active then s.chargerOf berth else none

/-- The link has answered the status request (R106). -/
def State.reported (berth : Nat) (s : State) : State := s.updateCharger berth (fun c => { c with statusAsked := false })

/-- A charger under a connection report of need `n` at instant `now` (R108). -/
def Charger.connect (n now settle : Nat) (c : Charger) : Charger :=
  let c := { c with session := some n }
  match c.phase with
  | .idle => { c with connectedAt := some now, phase := .settling (now + settle) }
  | .settling _ => c
  | .connected => if n == 0 then c.zero else c
  | .fault => c

/-- The need of the record at a charger's berth set (R108, R112). -/
def State.needAt (c : Charger) (f : Option Nat → Option Nat) (s : State) : State :=
  match s.chargerBus c with
  | some b => s.updateBus b.id (fun x => { x with need := f x.need })
  | none => s

/-- CONNECTION_REPORT (R108). -/
def execConnectionReport (berth energy : Nat) (s : State) : Host.Outcome State Fault Refusal :=
  match s.linkCharger berth with
  | some c =>
    let t := s.reported berth
    if c.phase == .fault then .next t
    else
      let n := min energy 6000
      .next (((t.updateCharger berth (Charger.connect n s.now s.cfg.chargerSettle)).needAt c (fun _ => some n)).settle s [])
  | none => .next s

/-- A charger unplugged (R110). -/
def Charger.disconnect (c : Charger) : Charger :=
  { c.zero with session := none, connectedAt := none, phase := .idle, turnAge := 0 }

/-- DISCONNECT_REPORT (R110, R111). -/
def execDisconnectReport (berth : Nat) (s : State) : Host.Outcome State Fault Refusal :=
  match s.linkCharger berth with
  | some c =>
    let t := s.reported berth
    if c.phase == .idle then .next t
    else .next ((t.updateCharger berth Charger.disconnect).lapsePlace berth)
  | none => .next s

/-- FAULT_REPORT (R111). -/
def execFaultReport (berth : Nat) (s : State) : Host.Outcome State Fault Refusal :=
  match s.linkCharger berth with
  | some c =>
    let t := s.reported berth
    if c.phase == .fault then .next t
    else .next (((t.updateCharger berth (fun c => { c.zero with phase := .fault })).lapsePlace berth).raise .chargerFault berth)
  | none => .next s

/-- One pulse off a need (R112). -/
def pulsed (n : Option Nat) : Option Nat := n.map (fun x => x - 1)

/-- A connected charger whose need has come to 0 is FULL (R107, R112). -/
def State.fillAt (c : Charger) (s : State) : State :=
  if c.phase == .connected && s.chargerNeed c == some 0 then s.updateCharger c.berth Charger.zero else s

/-- METER_PULSE (R112). -/
def execMeterPulse (berth : Nat) (s : State) : Host.Outcome State Fault Refusal :=
  match s.linkCharger berth with
  | some c =>
    if c.phase == .idle then .next s
    else
      let c := { c with session := pulsed c.session }
      .next ((((s.updateCharger berth (fun x => { x with session := c.session })).needAt c pulsed).fillAt c).settle s [])
  | none => .next s

/-- CHARGER_SETTLE_EXPIRY (R109). -/
def execChargerSettleExpiry (berth : Nat) (s : State) : Host.Outcome State Fault Refusal :=
  match s.linkCharger berth with
  | some c =>
    match c.phase with
    | .settling e => if s.now < e then .next s else .next (s.updateCharger berth (fun c => { c with phase := .connected }))
    | .idle => .next s
    | .connected => .next s
    | .fault => .next s
  | none => .next s

/-- One ramp step (R128). -/
def Charger.rampStep (step expiry : Nat) (c : Charger) : Charger :=
  let present := min c.target (c.present + step)
  { c with present := present, ramp := if present < c.target then some expiry else none }

/-- RAMP_TIMER_EXPIRY (R128). -/
def execRampTimerExpiry (berth : Nat) (s : State) : Host.Outcome State Fault Refusal :=
  match s.linkCharger berth with
  | some c =>
    if expired s.now c.ramp then
      .next (s.updateCharger berth (Charger.rampStep s.cfg.rampStep (s.now + s.cfg.rampInterval)))
    else .next s
  | none => .next s

/-- TURN_BOUNDARY (R100, R120). -/
def execTurnBoundary (s : State) : Host.Outcome State Fault Refusal :=
  if s.inRun && expired s.now s.charging.boundary then .next s.takeBoundary else .next s

/-- PLAN_HOLD_EXPIRY (R101). -/
def execPlanHoldExpiry (s : State) : Host.Outcome State Fault Refusal :=
  if s.inRun && expired s.now s.feeders.planHold then .next s.endPlanHold else .next s

end Sys2Proof.Machine
end

