-- ==== Sys2Proof/Machine/FeederCommands.lean ====
section
/-! DEFINITION. The commands of the Feeder Budget Unit: its timers (R89, R95, R99), the monitor's inputs (R89), and the
notices ROLL, DRAW and FEEDER heard (R88, R92, R94, R191). -/

namespace Sys2Proof.Machine

/-! ### Timers and inputs -/

/-- DRAW_TIMER_EXPIRY (R99). -/
def execDrawTimerExpiry (s : State) : Host.Outcome State Fault Refusal :=
  if s.listenOrRun && expired s.now s.feeders.drawTimer then
    .next (s.setFeeders { s.feeders with drawTimer := some (s.now + 10) }).sendDraw
  else .next s

/-- The station table entry of a station (R91). -/
def State.entryOf (s : State) (station : Nat) : Option StationEntry :=
  s.feeders.stations.find? (fun e => e.station == station)

/-- A station table entry changed (R91). -/
def State.updateEntry (station : Nat) (f : StationEntry → StationEntry) (s : State) : State :=
  s.setFeeders { s.feeders with stations := s.feeders.stations.map (fun e => if e.station == station then f e else e) }

/-- A station table entry put at its place (R91). -/
def State.addEntry (e : StationEntry) (s : State) : State :=
  s.setFeeders { s.feeders with stations := insertBy (fun x y => x.station < y.station) e s.feeders.stations }

/-- FRESHNESS_TIMER_EXPIRY (R95, R97). -/
def execFreshnessTimerExpiry (station : Nat) (s : State) : Host.Outcome State Fault Refusal :=
  match s.active, s.entryOf station with
  | true, some e =>
    if expired s.now e.fresh then .next (s.updateEntry station (fun e => { e with fresh := none })).followGrants else .next s
  | _, _ => .next s

/-- FEEDER_INPUT_CHANGE (R89): announced in LISTEN and RUN, applied alone in MUTE, by the feeder monitor. -/
def execFeederInputChange (g : Group) (st : FeederState) (hot : Bool) (s : State) : Host.Outcome State Fault Refusal :=
  if groupGet s.inputs.groups g == ⟨st, hot⟩ then .next s
  else
    let s := s.setInputs { s.inputs with groups := groupSet s.inputs.groups g ⟨st, hot⟩ }
    if s.cfg.monitor && s.listenOrRun then .next (s.announce g)
    else if s.cfg.monitor && s.active then .next (s.applyFeeder g st hot)
    else .next s

/-- FEEDER_REFRESH_EXPIRY (R89). -/
def execFeederRefreshExpiry (g : Group) (s : State) : Host.Outcome State Fault Refusal :=
  if s.cfg.monitor && s.listenOrRun && expired s.now (groupGet s.feeders.groups g).refresh then .next (s.announce g)
  else .next s

/-! ### Notices -/

/-- A station clash: MUTE from LISTEN and RUN, nothing in MUTE (R191). The tests of the morning are made at the clash itself,
also where the node was never in RUN: R158, R166, R171 and R177 have releases, lateness and shunts in MUTE, and R178 has no
release and no shunt before the node enters RUN (DESIGN CHOICE, log 50). -/
def State.clash (s : State) : State := if s.listenOrRun then s.enterMute.settle s [] else s

/-- A peer's ROLL taken into the station table (R91, R92). -/
def State.takeRoll (station : Nat) (d : Description) (maxima : PerGroup Nat) (s : State) : State :=
  match s.entryOf station with
  | some _ => (s.updateEntry station (fun e => { e with maxima := maxima, description := some d })).followGrants
  | none => (s.addEntry ⟨station, maxima, some d, ⟨0, 0, 0⟩, ⟨0, 0, 0⟩, none, none⟩).followGrants

/-- A ROLL's ask answered, unless a ROLL of the node waits already (R93). -/
def State.answerAsk (ask : Bool) (s : State) : State := if ask && !s.link.rollWaits then s.sendRoll false else s

/-- ROLL heard (R92, R93, R191). -/
def execRoll (sender : Nat) (ask wash bypass : Bool) (lanes berths chargers maxA maxB maxC : Nat) (s : State) :
    Host.Outcome State Fault Refusal :=
  .next (s.hear (okStation sender && okLane lanes && 1 ≤ berths && berths ≤ 48 && chargers ≤ 48
      && okKilowatts maxA && okKilowatts maxB && okKilowatts maxC)
    (fun s =>
      if sender == s.cfg.station then s.clash
      else if sender == 0 then s.answerAsk ask
      else (s.takeRoll sender ⟨lanes, berths, chargers, wash, bypass⟩ ⟨maxA, maxB, maxC⟩).answerAsk ask))

/-- A peer's DRAW taken into the station table; a new entry asks for a ROLL (R94). -/
def State.takeDraw (station : Nat) (committed planned : PerGroup Nat) (s : State) : State :=
  match s.entryOf station with
  | some _ =>
    (s.updateEntry station (fun e => { e with
      committed := committed, planned := planned, lastDraw := some s.now, fresh := some (s.now + 30) })).followGrants
  | none =>
    let maxima := groupMake (fun g => max (groupGet committed g) (groupGet planned g))
    ((s.addEntry ⟨station, maxima, none, committed, planned, some s.now, some (s.now + 30)⟩).sendRoll true).followGrants

/-- DRAW heard (R94, R191). -/
def execDraw (sender comA comB comC planA planB planC : Nat) (s : State) : Host.Outcome State Fault Refusal :=
  .next (s.hear (okStation sender && okKilowatts comA && okKilowatts comB && okKilowatts comC
      && okKilowatts planA && okKilowatts planB && okKilowatts planC)
    (fun s =>
      if sender == s.cfg.station then s.clash
      else if sender == 0 then s
      else s.takeDraw sender ⟨comA, comB, comC⟩ ⟨planA, planB, planC⟩))

/-- FEEDER heard (R88). -/
def execFeeder (sender : Nat) (g : Group) (st : FeederState) (hot : Bool) (s : State) : Host.Outcome State Fault Refusal :=
  .next (s.hear (s.peer sender) (fun s => s.applyFeeder g st hot))

end Sys2Proof.Machine
end

