-- ==== Sys2Proof/Machine/RunCommands.lean ====
section
/-! DEFINITION. The commands of the Run List and of the Service Clock's notice: RUN, RUN_CANCEL, CLEAR_RUNS and CLAIM
heard (R136 to R139, R146, R148, R149), the claim timers (R145, R147), CLOCK (R195). -/

namespace Sys2Proof.Machine

/-! ### CLOCK (R195) -/

/-- CLOCK heard (R195): the time is set, and every test against it is made anew. -/
def execClock (sender seconds : Nat) (s : State) : Host.Outcome State Fault Refusal :=
  .next (s.hear (s.office sender && okSecond seconds) (fun s => (s.setClock ⟨seconds, true⟩).settle s []))

/-! ### RUN (R136, R137) -/

/-- The fields that a RUN notice carries. -/
structure RunFields where
  run : Nat
  pullOut : Nat
  route : Nat
  demand : Demand
  allowance : Nat
deriving DecidableEq, Repr

/-- A run record that takes the fields of a RUN (R137). -/
def Run.takes (f : RunFields) (r : Run) : Run :=
  { r with pullOut := f.pullOut, route := f.route, demand := f.demand, allowance := f.allowance }

/-- A new run record (R136). -/
def newRun (f : RunFields) (state : RunState) : Run :=
  ⟨f.run, f.pullOut, f.route, f.demand, f.allowance, state, false, none, none, false, none, none, false⟩

/-- A run number that the list does not hold (R136). -/
def State.createRun (f : RunFields) (s : State) : State :=
  if s.runs.runs.length < 256 then
    let r := newRun f (if s.behindFront f.run then .lapsed else .pending)
    s.setRuns { s.runs with runs := insertBy (fun x y => x.run < y.run) r s.runs.runs }
  else s.raise .runListFull f.run

/-- The copies in the bound record are taken again (R141). -/
def State.copyFields (n : Nat) (s : State) : State :=
  match s.boundTo n, s.runOf n with
  | some b, some r => s.nameRun b.id r
  | _, _ => s

/-- A run that becomes PENDING with no claim, own or heard (R137). -/
def Run.restart (f : RunFields) (r : Run) : Run := (r.takes f).toPending

/-- A run number that the list holds (R137). A RELEASED bound record keeps its run and takes the copies again (R137, R141),
and a MINE run its own claim, to the end of the release (DESIGN CHOICE, log 48). -/
def State.replaceRun (f : RunFields) (r : Run) (s : State) : State :=
  let taken := s.updateRun f.run (Run.takes f)
  let keeps := r.demand == f.demand
  match r.state with
  | .departed => s
  | .pending => taken
  | .claiming => if keeps then taken else s.updateRun f.run (Run.restart f)
  | .claimedElsewhere => if keeps then taken else s.updateRun f.run (Run.restart f)
  | .mine =>
    if keeps || s.boundReleased f.run then taken.copyFields f.run
    else (s.freeBound f.run).updateRun f.run (Run.restart f)
  | .late =>
    if r.ownMark then
      if keeps || s.boundReleased f.run then taken.copyFields f.run
      else (s.freeBound f.run).updateRun f.run (fun r => { r.takes f with ownMark := false })
    else taken
  | .lapsed => if s.behindFront f.run then taken else s.updateRun f.run (Run.restart f)
  | .cancelled => if s.behindFront f.run then taken else s.updateRun f.run (Run.restart f)

/-- A RUN taken (R136, R137). -/
def State.takeRun (f : RunFields) (s : State) : State :=
  match s.runOf f.run with
  | some r => s.replaceRun f r
  | none => s.createRun f

/-- The run that a RUN leaves PENDING is given a claim test (R136, R137). -/
def State.pendingRun (s : State) (n : Nat) : List Nat :=
  match s.runOf n with
  | some r => if r.state == .pending then [n] else []
  | none => []

/-- RUN heard (R136, R137). -/
def execRun (sender run pullOut route : Nat) (demand : Demand) (allowance : Nat) (s : State) :
    Host.Outcome State Fault Refusal :=
  .next (s.hear (s.office sender && okRun run && okMinute pullOut && okByte route && okDemand demand
      && okAllowance allowance)
    (fun s =>
      let t := s.takeRun ⟨run, pullOut, route, demand, allowance⟩
      t.settle s (t.pendingRun run)))

/-! ### RUN_CANCEL and CLEAR_RUNS (R138, R139) -/

/-- A run cancelled (R138, R164). -/
def State.cancelRun (n : Nat) (s : State) : State :=
  let s := if s.releasingRun n then s.endRelease else s
  (s.freeBound n).updateRun n (fun r => { r.dropClaim with state := .cancelled, best := none, ownMark := false })

/-- A RUN_CANCEL taken (R138). -/
def State.takeCancel (n : Nat) (s : State) : State :=
  match s.runOf n with
  | some r => if r.state == .departed || r.state == .cancelled then s else s.cancelRun n
  | none => s

/-- RUN_CANCEL heard (R138). -/
def execRunCancel (sender run : Nat) (s : State) : Host.Outcome State Fault Refusal :=
  .next (s.hear (s.office sender && okRun run) (fun s => (s.takeCancel run).settle s []))

/-- The run list emptied and every record made a spare (R139, R164). -/
def State.clearRuns (s : State) : State :=
  let s := s.endRelease
  let s := s.setBuses { s.buses with records := s.buses.records.map (fun b =>
    { b with run := none, pullOut := none, route := none }) }
  s.setRuns ⟨[], 0⟩

/-- CLEAR_RUNS heard (R139). -/
def execClearRuns (sender : Nat) (s : State) : Host.Outcome State Fault Refusal :=
  .next (s.hear (s.office sender) (fun s => s.clearRuns.settle s []))

/-! ### CLAIM (R146, R148, R149) -/

/-- A bid replaces the best heard claim when that is absent, worse, or of the same station (R146, R148). -/
def Run.hearBid (bid : HeardClaim) (r : Run) : Run :=
  match r.best with
  | some b =>
    if b.station == bid.station || betterPair (bid.cost, bid.station) (b.cost, b.station) then { r with best := some bid }
    else r
  | none => { r with best := some bid }

/-- A bid for a run that this node has won (R148). -/
def State.bidForMine (r : Run) (c : OwnClaim) (bid : HeardClaim) (s : State) : State :=
  if betterPair (bid.cost, bid.station) (c.cost, s.cfg.station) && !s.boundReleased r.run then
    (s.freeBound r.run).updateRun r.run (fun x => { x.dropClaim with state := .claimedElsewhere, best := some bid })
  else s.sendClaim r.run c.fleet c.cost

/-- A bid heard for a wildcard run (R148). One for a MINE run that has no own claim is ignored (DESIGN CHOICE, log 37). -/
def State.takeBid (r : Run) (bid : HeardClaim) (s : State) : State :=
  match r.state, r.claim with
  | .pending, _ => s.updateRun r.run (fun x => { x with state := .claimedElsewhere, best := some bid })
  | .claiming, _ => s.updateRun r.run (fun x => { x.hearBid bid with heardOther := true })
  | .claimedElsewhere, _ => s.updateRun r.run (Run.hearBid bid)
  | .mine, some c => s.bidForMine r c bid
  | _, _ => s

/-- The best heard claim of a run is that of this station (R149). -/
def Run.bestFrom (r : Run) (station : Nat) : Bool :=
  match r.best with
  | some b => b.station == station
  | none => false

/-- A withdrawal heard for a wildcard run (R149). -/
def State.takeWithdrawal (r : Run) (station : Nat) (s : State) : State :=
  if r.bestFrom station then
    match r.state with
    | .claimedElsewhere => s.updateRun r.run (fun x => { x with best := none, state := .pending })
    | .claiming => s.updateRun r.run (fun x => { x with best := none })
    | _ => s
  else s

/-- A CLAIM taken (R148, R149). -/
def State.takeClaim (station n fleet cost : Nat) (s : State) : State :=
  match s.runOf n with
  | some r =>
    if r.isWildcard then
      if cost == noFit then s.takeWithdrawal r station else s.takeBid r ⟨station, fleet, cost⟩
    else s
  | none => s

/-- CLAIM heard (R146, R148, R149). -/
def execClaim (sender run fleet cost : Nat) (s : State) : Host.Outcome State Fault Refusal :=
  .next (s.hear (s.peer sender && okRun run && okFleet fleet && okClaimCost cost)
    (fun s => (s.takeClaim sender run fleet cost).settle s []))

/-! ### Claim timers (R142, R145, R147) -/

/-- The own claim beats the best heard claim (R147). -/
def State.winsClaim (s : State) (r : Run) (c : OwnClaim) : Bool :=
  match r.best with
  | some b => betterPair (c.cost, s.cfg.station) (b.cost, b.station)
  | none => true

/-- A claim window won: the run is MINE with the spare as its bound record (R147). -/
def State.winRun (r : Run) (c : OwnClaim) (s : State) : State :=
  let s := s.updateRun r.run (fun x => { x with state := .mine, best := none, window := none })
  let s : State := match s.busOf c.fleet with | some b => s.nameRun b.id r | none => s
  if r.heardOther then s.sendClaim r.run c.fleet c.cost else s

/-- CLAIM_WINDOW_EXPIRY (R147). -/
def execClaimWindowExpiry (run : Nat) (s : State) : Host.Outcome State Fault Refusal :=
  match s.runOf run with
  | some r =>
    match r.state, expired s.now r.window, r.claim with
    | .claiming, true, some c =>
      if s.winsClaim r c then .next ((s.winRun r c).settle s [])
      else .next ((s.updateRun run (fun x => { x.dropClaim with state := .claimedElsewhere })).settle s [])
    | _, _, _ => .next s
  | none => .next s

/-- CLAIM_REFRESH_EXPIRY (R145): the timer starts again, and a claim test of the run is made, which outside its claim period
does nothing. -/
def execClaimRefreshExpiry (run : Nat) (s : State) : Host.Outcome State Fault Refusal :=
  match s.runOf run with
  | some r =>
    if expired s.now r.refresh then
      .next ((s.updateRun run (fun x => { x with refresh := some (s.now + 60) })).settle s [run])
    else .next s
  | none => .next s

/-- The claim refresh timer of a run started at 60 s at the second at which the run, waiting for claims in RUN, enters its claim
period (R142, R145). -/
def State.startRefresh (run : Nat) (s : State) : State :=
  match s.runOf run with
  | some r =>
    if s.inRun && s.claimPlaced r && s.runTimeToGo r == ((s.cfg.claimLead * 60 : Nat) : Int) then
      s.updateRun run (fun x => { x with refresh := some (s.now + 60) })
    else s
  | none => s

/-- CLAIM_PERIOD_ENTRY (R142, R145): the claim refresh timer is started, and a claim test of the run made. -/
def execClaimPeriodEntry (run : Nat) (s : State) : Host.Outcome State Fault Refusal :=
  .next ((s.startRefresh run).settle s [run])

end Sys2Proof.Machine
end

