-- ==== Sys2Proof/Machine/DepartCommands.lean ====
section
/-! DEFINITION. The commands of the Departure Controller: the instants of R156 and the exit gap (R165), the release and
shunt timers (R162, R174), DEPART and LATE heard (R163, R165, R168, R170). -/

namespace Sys2Proof.Machine

/-! ### Instants (R156, R158, R165, R169, R171) -/

/-- SHUNT_LEAD_REACHED (R156, R171): the shunt tests are made. -/
def execShuntLeadReached (_run : Nat) (s : State) : Host.Outcome State Fault Refusal := .next (s.settle s [])

/-- RELEASE_LEAD_REACHED (R156, R158, R166): the release and lateness tests are made. -/
def execReleaseLeadReached (_run : Nat) (s : State) : Host.Outcome State Fault Refusal := .next (s.settle s [])

/-- GRACE_PASSED (R156, R169): the lapse of runs, and what follows from the front's move. -/
def execGracePassed (_run : Nat) (s : State) : Host.Outcome State Fault Refusal := .next (s.settle s [])

/-- EXIT_GAP_HOLDS (R158, R165): the release test is made. -/
def execExitGapHolds (s : State) : Host.Outcome State Fault Refusal := .next (s.settle s [])

/-! ### Timers -/

/-- RELEASE_TIMER_EXPIRY (R162). -/
def execReleaseTimerExpiry (s : State) : Host.Outcome State Fault Refusal :=
  if s.active && expired s.now (s.departures.release.map (·.timer)) then
    .next ((s.failRelease .releaseTimeout false).settle s [])
  else .next s

/-- The reservation of a shunt order released if it stands (R174). -/
def State.releaseShunt (o : ShuntOrder) (s : State) : State :=
  if o.reserved then s.releaseReservation o.target ⟨.shunt, o.fleet⟩ else s

/-- A shunt order put last, as the one issued or reissued most recently (R176). -/
def State.reissue (o : ShuntOrder) (s : State) : State :=
  (s.removeShunt o.fleet).setDepartures { s.departures with
    shunts := s.departures.shunts.filter (fun x => x.fleet != o.fleet) ++
      [{ o with attempts := o.attempts + 1, timer := s.now + s.cfg.shuntTimeout * 60 }] }

/-- A shunt order given up at its from-position (R174). -/
def State.giveUpAt (o : ShuntOrder) (x : Bus) (s : State) : State :=
  let s := ((s.releaseShunt o).removeShunt o.fleet).setPlace x.id (.parked o.fromLane o.fromPos)
  (s.markFailed o.fromLane x.id).raise .shuntFailed o.fleet

/-- A shunt order given up between lanes (R174). -/
def State.giveUpBetween (o : ShuntOrder) (x : Bus) (s : State) : State :=
  let s := ((s.releaseShunt o).removeShunt o.fleet).setPlace x.id (.transit o.fromLane s.now true none)
  s.raise .shuntFailed o.fleet

/-- A shunt order reissued at its from-position, its target chosen anew; given up with no fitting lane (R174). -/
def State.reissueAt (o : ShuntOrder) (x : Bus) (s : State) : State :=
  let t := s.releaseShunt o
  match t.shuntTarget x o.fromLane with
  | some (target, toBerth) =>
    (t.addReservation target ⟨.shunt, o.fleet⟩).reissue { o with target := target, toBerth := toBerth, reserved := true }
  | none => s.giveUpAt o x

/-- The timer of a shunt order expires (R174). -/
def State.shuntExpired (o : ShuntOrder) (x : Bus) (s : State) : State :=
  let again := o.attempts < s.cfg.shuntAttempts
  match o.phase with
  | .atFrom => if again then s.reissueAt o x else s.giveUpAt o x
  | .between => if again then s.reissue o else s.giveUpBetween o x

/-- SHUNT_TIMER_EXPIRY (R174). -/
def execShuntTimerExpiry (fleet : Nat) (s : State) : Host.Outcome State Fault Refusal :=
  match s.active, s.shuntOf fleet, s.busOf fleet with
  | true, some o, some x => if s.now < o.timer then .next s else .next ((s.shuntExpired o x).settle s [])
  | _, _, _ => .next s

/-! ### DEPART and LATE (R163, R165, R168, R170) -/

/-- The last exit after a second is offered to it (R165). -/
def State.exitAfter (s : State) (x : Nat) : Nat :=
  if s.clock.isSet then
    if 0 < timeToGo s.clock.time x then s.clock.time
    else
      match s.departures.lastExit with
      | none => x
      | some last => if secondsBetween s.clock.time x ≤ secondsBetween s.clock.time last then x else last
  else x

/-- A second offered to the last exit (R165). -/
def State.offerExit (x : Nat) (s : State) : State :=
  s.setDepartures { s.departures with lastExit := some (s.exitAfter x) }

/-- A run made DEPARTED by a DEPART heard, its bound record freed (R141, R163, R170). -/
def State.departedElsewhere (n : Nat) (s : State) : State :=
  (s.freeBound n).updateRun n (fun r => { r.dropClaim with state := .departed, ownMark := false })

/-- A DEPART heard, for a run of the list (R163, R170). -/
def State.departHeard (r : Run) (s : State) : State :=
  match r.state with
  | .departed => if r.ownDeparture then s.raise .doubleDeparture r.run else s
  | .cancelled => s
  | .mine =>
    if s.releasingRun r.run then (s.endRelease.departedElsewhere r.run).raise .doubleDeparture r.run
    else s.departedElsewhere r.run
  | .late =>
    if s.releasingRun r.run then (s.endRelease.departedElsewhere r.run).raise .doubleDeparture r.run
    else s.departedElsewhere r.run
  | .pending => s.departedElsewhere r.run
  | .claiming => s.departedElsewhere r.run
  | .claimedElsewhere => s.departedElsewhere r.run
  | .lapsed => s.departedElsewhere r.run

/-- DEPART heard (R163, R165, R170). -/
def execDepart (sender run fleet seconds : Nat) (s : State) : Host.Outcome State Fault Refusal :=
  .next (s.hear (s.peer sender && okRun run && okFleet fleet && okSecond seconds)
    (fun s =>
      let t := s.offerExit seconds
      (match t.runOf run with | some r => t.departHeard r | none => t).settle s []))

/-- A LATE heard, for a run of the list (R168). -/
def State.lateHeard (r : Run) (s : State) : State :=
  match r.state with
  | .pending => s.updateRun r.run (fun x => { x.dropClaim with state := .late, ownMark := false })
  | .claiming => s.updateRun r.run (fun x => { x.dropClaim with state := .late, ownMark := false })
  | .claimedElsewhere => s.updateRun r.run (fun x => { x.dropClaim with state := .late, ownMark := false })
  | .mine => s.updateRun r.run (fun x => { x.dropClaim with state := .late, ownMark := true })
  | .late => s
  | .departed => s
  | .lapsed => s
  | .cancelled => s

/-- LATE heard (R168). -/
def execLate (sender run : Nat) (s : State) : Host.Outcome State Fault Refusal :=
  .next (s.hear (s.peer sender && okRun run)
    (fun s => (match s.runOf run with | some r => s.lateHeard r | none => s).settle s []))

end Sys2Proof.Machine
end

