-- ==== Sys2Proof/Machine/LinkCommands.lean ====
section
/-! DEFINITION. The commands of the Link Controller (R181, R185 to R189), and the acknowledge button (R213). A rejected
frame stands in FrameCommands.lean. -/

namespace Sys2Proof.Machine

/-! ### Frames of other stations -/

/-- ANSWER_OR_ALERT_HEARD: accepted and dropped (R185). -/
def execAnswerOrAlertHeard (_sender _kind : Nat) (_body : List Byte) (s : State) : Host.Outcome State Fault Refusal :=
  .next (s.hear true (fun s => s))

/-- FRAME_ABANDONED (R181): the receiver waits for an idle of 10 bit times, which the first cause has brought already. -/
def execFrameAbandoned (cause : AbandonCause) (s : State) : Host.Outcome State Fault Refusal :=
  if s.mayDrive then
    match cause with
    | .idle => .next (s.setLink { s.link with receiver := .ready, idle := 10 })
    | .stopBitLow => .next (s.setLink { s.link with receiver := .waitIdle, idle := 0 })
    | .lengthAbove32 => .next (s.setLink { s.link with receiver := .waitIdle, idle := 0 })
  else .next s

/-- IDLE_OF_10_BIT_TIMES (R181, R186): the line has been idle for 10 more bit times. -/
def execIdleOf10BitTimes (s : State) : Host.Outcome State Fault Refusal := .next (s.idleFor 10)

/-! ### The node's own frames (R186 to R189) -/

/-- FRAME_SEND_START (R186): the idle has reached the gap of the head frame, which is started. The command is that instant,
between two tens of the count too; it has no effect where the count shows that the gap lies beyond the next ten (log 10). -/
def execFrameSendStart (s : State) : Host.Outcome State Fault Refusal :=
  match s.gapAtHand, s.link.headClass with
  | true, some c => .next (s.setLink { s.link with sending := some c, receiver := .waitIdle, idle := 0 })
  | _, _ => .next s

/-- The first frame of a class out of the queue; a frame that leaves a full queue clears the latch (R188). -/
def Link.drop (c : FrameClass) (l : Link) : Link :=
  let latch := l.latch && l.size != 16
  match c with
  | .urgent => { l with urgent := l.urgent.tail, sending := none, latch := latch }
  | .other => { l with other := l.other.tail, sending := none, latch := latch }

/-- The first frame of a class kept in the queue with one withdrawal more (R187). -/
def Link.keep (c : FrameClass) (l : Link) : Link :=
  let bump := fun (fs : List SendFrame) => fs.modifyHead (fun f => { f with withdrawals := f.withdrawals + 1 })
  match c with
  | .urgent => { l with urgent := bump l.urgent, sending := none }
  | .other => { l with other := bump l.other, sending := none }

/-- The receiver of a node that has withdrawn: it receives the frame on the line (R187). -/
def State.receives (s : State) : State := s.setLink { s.link with receiver := .receiving, idle := 0 }

/-- The frame under way withdrawn (R187, R189): a DRAW behind which a newer one waits is removed; the sixteenth
withdrawal drops the frame with LINK_CONGESTED, except in CONFIG_FAULT (R200). -/
def State.withdrawFrame (c : FrameClass) (f : SendFrame) (s : State) : State :=
  if 16 ≤ f.withdrawals + 1 then
    let t := ((s.setLink (s.link.drop c)).receives).frameLost f
    if s.node.state == .configFault then t else t.raise .linkCongested f.notice.kind
  else if f.notice.isDraw && s.link.drawWaits then (s.setLink (s.link.drop c)).receives
  else (s.setLink (s.link.keep c)).receives

/-- FRAME_WITHDRAWN (R187). -/
def execFrameWithdrawn (s : State) : Host.Outcome State Fault Refusal :=
  match s.link.sending, s.link.head? with
  | some c, some f => .next (s.withdrawFrame c f)
  | _, _ => .next s

/-- FRAME_SENT (R187, R188, R209). -/
def execFrameSent (s : State) : Host.Outcome State Fault Refusal :=
  match s.link.sending, s.link.head? with
  | some c, some f => .next (((s.setLink (s.link.drop c)).frameLost f).frameEnded)
  | _, _ => .next s

/-! ### The acknowledge button (R213) -/

/-- The oldest unacknowledged entry acknowledged. -/
def ackFirst : List AlertEntry → List AlertEntry
  | [] => []
  | e :: es => if e.acknowledged then e :: ackFirst es else { e with acknowledged := true } :: es

/-- ACK_BUTTON_PRESS (R200, R213). -/
def execAckButtonPress (s : State) : Host.Outcome State Fault Refusal :=
  if s.node.state != .configFault && s.alerts.entries.any (fun e => !e.acknowledged) then
    .next (s.setAlerts ⟨ackFirst s.alerts.entries, false⟩)
  else .next s

end Sys2Proof.Machine
end

