-- ==== Sys2Proof/Machine/OrderCommands.lean ====
section
/-! DEFINITION. The orders (R206 to R209), one meaning for each kind of R207. -/

namespace Sys2Proof.Machine

/-! ### Lanes (R20, R23 to R25, R40) -/

/-- A survey period begun or restarted in these lanes, the order waiting for their ends (R20, R208). -/
def State.beginSurvey (sender tag : Nat) (lanes : List Nat) (s : State) : State :=
  (s.setLanes (s.lanes.map (fun l =>
    if lanes.contains l.number then { l with survey := some (s.now + s.cfg.laneSettle) } else l))).setOrder
    (some ⟨sender, tag, .survey lanes []⟩)

/-- The lanes that a SURVEY names (R207). -/
def State.surveyed (s : State) (lane : Nat) : List Nat :=
  (s.lanes.map (·.number)).filter (fun l => lane == 0 || l == lane)

/-- SURVEY (R20, R208). -/
def execSurvey (sender tag : Nat) (args : List Byte) (s : State) : Host.Outcome State Fault Refusal :=
  .next (s.takeOrder sender tag args (surveyArgs args) (fun lane s =>
    if (s.surveyed lane).isEmpty then .no .notFound else .later (s.beginSurvey sender tag (s.surveyed lane))))

/-- The placeholder takes the fleet, with the fields of the other record of the bus where there is one (R23, R40). -/
def Bus.identified (fleet : Nat) (other : Option Bus) (b : Bus) : Bus :=
  match other with
  | none => { b with fleet := some fleet, kind := .named }
  | some o =>
    { b with fleet := some fleet, kind := .named, cls := o.cls, washed := o.washed, run := o.run, pullOut := o.pullOut,
             route := o.route, need := b.need.or o.need, hold := o.hold, seq := o.seq }

/-- The other record of an identified bus goes, its run passing on without a change; a call for it ends (R23, R40, R70). -/
def State.mergeAway (lane fleet : Nat) (o : Bus) (s : State) : State :=
  let called := s.callingFor fleet && o.isApron
  let s := ((s.freeBus o.id).deleteBus o.id).keepTake o fleet
  if called then s.endCall.send (.found fleet lane) else s

/-- The suspect mark cleared when no placeholder is left and every berth is QUIET (R23). -/
def State.clearSuspect (lane : Nat) (s : State) : State :=
  s.updateLane lane (fun l =>
    if !s.holdsPlaceholder lane && l.settle.all (fun st => st == .quiet) then { l with suspect := false } else l)

/-- A placeholder named by IDENTIFY (R23, R40). -/
def State.identify (lane fleet : Nat) (b : Bus) (other : Option Bus) (s : State) : State :=
  let s := match other with | some o => s.mergeAway lane fleet o | none => s
  (s.updateBus b.id (Bus.identified fleet other)).clearSuspect lane

/-- IDENTIFY (R23, R40). -/
def execIdentify (sender tag : Nat) (args : List Byte) (s : State) : Host.Outcome State Fault Refusal :=
  .next (s.takeOrder sender tag args (identifyArgs args) (fun (lane, pos, fleet) s =>
    match (s.laneOf lane).filter (fun l => pos ≤ l.size), s.occupant lane pos with
    | some _, some b =>
      match s.busOf fleet with
      | none => if b.isPlaceholder then .plain ((s.identify lane fleet b none).settle s []) else .no .refused
      | some o =>
        if b.isPlaceholder && (o.isApron || o.isTransit) then .plain ((s.identify lane fleet b (some o)).settle s [])
        else .no .refused
    | _, _ => .no .notFound))

/-- LANE_OPEN (R24). -/
def execLaneOpen (sender tag : Nat) (args : List Byte) (s : State) : Host.Outcome State Fault Refusal :=
  .next (s.takeOrder sender tag args (laneArgs args) (fun lane s =>
    match s.laneOf lane with
    | some _ => .plain (s.updateLane lane (fun l => { l with closed := false }))
    | none => .no .notFound))

/-- LANE_CLOSE (R24). -/
def execLaneClose (sender tag : Nat) (args : List Byte) (s : State) : Host.Outcome State Fault Refusal :=
  .next (s.takeOrder sender tag args (laneArgs args) (fun lane s =>
    match s.laneOf lane with
    | some _ => .plain (s.updateLane lane (fun l => { l with closed := true }))
    | none => .no .notFound))

/-- The kind of a lane may be changed (R25). -/
def State.kindFree (s : State) (l : Lane) : Bool :=
  l.conf.kindChange && (s.occupiedPositions l).isEmpty && l.reservations.isEmpty && l.holds.isEmpty

/-- LANE_KIND (R25). -/
def execLaneKind (sender tag : Nat) (args : List Byte) (s : State) : Host.Outcome State Fault Refusal :=
  .next (s.takeOrder sender tag args (laneKindArgs args) (fun (lane, kind) s =>
    match s.laneOf lane with
    | some l => if s.kindFree l then .plain (s.updateLane lane (fun l => { l with kind := kind })) else .no .refused
    | none => .no .notFound))

/-! ### Wash lane (R63, R64) -/

/-- WASH_SKIP (R64). -/
def execWashSkip (sender tag : Nat) (args : List Byte) (s : State) : Host.Outcome State Fault Refusal :=
  .next (s.takeOrder sender tag args (fleetArgs args) (fun fleet s =>
    match s.busOf fleet with
    | some b =>
      if b.place == .queued && s.wash.called != some fleet && s.apronRoom then
        .plain ((s.joinUnwashed b.id fleet).settle s [])
      else .no .refused
    | none => .no .notFound))

/-- A stage resumed (R63). -/
def State.resumeStage (stage : Nat) (s : State) : State :=
  match s.stageState stage with
  | .spinup => s.enterSpinup stage
  | .leaving => s.setStage stage .leaving (some (s.now + s.cfg.advanceTimeout))
  | .empty => s
  | .dwell => s
  | .doneWait => s
  | .runon => s
  | .fault => s

/-- The lane resumed from STOPPED (R50, R63). -/
def State.resumeWash (s : State) : State :=
  let s := (List.range s.stageCount).foldl (fun s i => s.resumeStage (i + 1)) s
  let timer := if s.wash.called.isSome then some (s.now + s.cfg.advanceTimeout) else none
  ((s.setWash { s.wash with mode := .normal, callTimer := timer }).enterFrostHold).settleWash

/-- WASH_RESUME (R63). -/
def execWashResume (sender tag : Nat) (args : List Byte) (s : State) : Host.Outcome State Fault Refusal :=
  .next (s.takeOrder sender tag args (args0 args) (fun _ s =>
    if !s.cfg.washLane then .no .notFound
    else if s.wash.mode != .stopped then .plain s
    else if s.inputs.stop || s.wash.stages.any (fun st => st.state == .fault) then .no .refused
    else .plain s.resumeWash))

/-! ### Buses (R39) -/

/-- The hold flag of a record set, a release in progress for it withdrawn (R39, R164). -/
def State.holdBus (fleet : Nat) (b : Bus) (s : State) : State :=
  let s := s.updateBus b.id (fun x => { x with hold := true })
  if b.isReleased && s.releasing fleet then s.failRelease .runLate false else s

/-- HOLD (R39). -/
def execHold (sender tag : Nat) (args : List Byte) (s : State) : Host.Outcome State Fault Refusal :=
  .next (s.takeOrder sender tag args (fleetArgs args) (fun fleet s =>
    match s.busOf fleet with
    | some b => .plain ((s.holdBus fleet b).settle s [])
    | none => .no .notFound))

/-- UNHOLD (R39). -/
def execUnhold (sender tag : Nat) (args : List Byte) (s : State) : Host.Outcome State Fault Refusal :=
  .next (s.takeOrder sender tag args (fleetArgs args) (fun fleet s =>
    match s.busOf fleet with
    | some b => .plain ((s.updateBus b.id (fun x => { x with hold := false })).settle s [])
    | none => .no .notFound))

/-! ### Power (R96, R116) -/

/-- The current mask of a charger set, with what its new drawing group and effective state bring (R114 to R119). -/
def State.setMask (c : Charger) (m : Mask) (s : State) : State :=
  let state := effectiveUnder s.groupState
  let group := drawingUnder s.groupState
  let s := s.updateCharger c.berth (fun x =>
    { x.revise (state c.mask) (state m) (group c.mask) (group m) (s.staggerFor c) with mask := m })
  if group c.mask != group m then s.lapsePlace c.berth else s

/-- A mask ordered, and a ROLL when a declared maximum has changed (R93, R116). -/
def State.feed (c : Charger) (m : Mask) (s : State) : State :=
  let t := s.setMask c m
  if groupMake t.declared != groupMake s.declared then t.sendRoll false else t

/-- FEED (R116). -/
def execFeed (sender tag : Nat) (args : List Byte) (s : State) : Host.Outcome State Fault Refusal :=
  .next (s.takeOrder sender tag args (feedArgs args) (fun (berth, m) s =>
    match s.chargerOf berth with
    | some c => if allGroups.any (groupGet m) then .plain (s.feed c m) else .no .refused
    | none => .no .notFound))

/-- FORGET (R96). -/
def execForget (sender tag : Nat) (args : List Byte) (s : State) : Host.Outcome State Fault Refusal :=
  .next (s.takeOrder sender tag args (forgetArgs args) (fun station s =>
    match s.entryOf station with
    | some e =>
      if e.fresh.isSome then .no .refused
      else .plain (s.setFeeders { s.feeders with
        stations := s.feeders.stations.filter (fun e => e.station != station) }).followGrants
    | none => .no .notFound))

/-! ### Alerts, reports, restart (R209, R210, R213) -/

/-- An ACK picks this entry: unacknowledged, and of the code and subject unless the code is 0 (R213). -/
def ackPicks (code subject : Nat) (e : AlertEntry) : Bool :=
  !e.acknowledged && (code == 0 || (alertCode e.code == code && e.subject == subject))

/-- The picked entries acknowledged, the list-full flag cleared by any acknowledgement (R213). -/
def Alerts.acknowledge (code subject : Nat) (a : Alerts) : Alerts :=
  ⟨a.entries.map (fun e => if ackPicks code subject e then { e with acknowledged := true } else e),
    a.full && !a.entries.any (ackPicks code subject)⟩

/-- ACK (R213). The number acknowledged is given in one byte (R207; DESIGN CHOICE, log 40). -/
def execAck (sender tag : Nat) (args : List Byte) (s : State) : Host.Outcome State Fault Refusal :=
  .next (s.takeOrder sender tag args (ackArgs args) (fun (code, subject) s =>
    let n := (s.alerts.entries.filter (ackPicks code subject)).length
    if n == 0 && code != 0 then .no .notFound
    else .done (s.setAlerts (s.alerts.acknowledge code subject)) 0 [byte n]))

/-- REPORT (R210). -/
def execReport (sender tag : Nat) (args : List Byte) (s : State) : Host.Outcome State Fault Refusal :=
  .next (s.takeOrder sender tag args (reportArgs args) (fun (subject, start) s =>
    .done s (s.reportAnswer subject start).1 (s.reportAnswer subject start).2))

/-- RESTART (R209): it stays in execution until its answer has left the queue. -/
def execRestart (sender tag : Nat) (args : List Byte) (s : State) : Host.Outcome State Fault Refusal :=
  .next (s.takeOrder sender tag args (args0 args) (fun _ s =>
    .later ((s.setOrder (some ⟨sender, tag, .restart false⟩)).offerFrame ⟨.answer sender tag .done 0 [], 0, true⟩)))

/-- ORDER_UNKNOWN_KIND: INVALID, or BUSY (R206, R207). A kind that R207 lists is no case of it (log 24). -/
def execOrderUnknownKind (sender tag kind : Nat) (args : List Byte) (s : State) : Host.Outcome State Fault Refusal :=
  if okOrderKind kind then .next (s.hear true (fun s => s))
  else .next (s.takeOrder sender tag args (none : Option Unit) (fun _ _ => .no .invalid))

/-- ORDER_FOR_ANOTHER_STATION: ignored (R206). -/
def execOrderForAnotherStation (_sender _target _tag _kind : Nat) (_args : List Byte) (s : State) :
    Host.Outcome State Fault Refusal :=
  .next (s.hear true (fun s => s))

end Sys2Proof.Machine
end

