-- ==== Sys2Proof/Machine/FrameCommands.lean ====
section
/-! DEFINITION. The delivery of a completed frame given as its bytes (R184, R185). -/

namespace Sys2Proof.Machine

/-- An accepted frame delivered as the command it spells (R185). -/
def deliver (c : Instr) (s : State) : Host.Outcome State Fault Refusal :=
  match c with
  | .roll sender ask wash bypass lanes berths chargers a b c => execRoll sender ask wash bypass lanes berths chargers a b c s
  | .draw sender a b c a' b' c' => execDraw sender a b c a' b' c' s
  | .feeder sender g st hot => execFeeder sender g st hot s
  | .clock sender seconds => execClock sender seconds s
  | .run sender n pullOut route demand allowance => execRun sender n pullOut route demand allowance s
  | .runCancel sender n => execRunCancel sender n s
  | .clearRuns sender => execClearRuns sender s
  | .parkCall sender seq fleet cls route pullOut washed => execParkCall sender seq fleet cls route pullOut washed s
  | .offer sender caller seq cost => execOffer sender caller seq cost s
  | .take sender caller seq lane cost => execTake sender caller seq lane cost s
  | .found sender fleet lane => execFound sender fleet lane s
  | .claim sender n fleet cost => execClaim sender n fleet cost s
  | .depart sender n fleet seconds => execDepart sender n fleet seconds s
  | .late sender n => execLate sender n s
  | .survey sender tag args => execSurvey sender tag args s
  | .identify sender tag args => execIdentify sender tag args s
  | .laneOpen sender tag args => execLaneOpen sender tag args s
  | .laneClose sender tag args => execLaneClose sender tag args s
  | .laneKind sender tag args => execLaneKind sender tag args s
  | .washSkip sender tag args => execWashSkip sender tag args s
  | .washResume sender tag args => execWashResume sender tag args s
  | .hold sender tag args => execHold sender tag args s
  | .unhold sender tag args => execUnhold sender tag args s
  | .feed sender tag args => execFeed sender tag args s
  | .forget sender tag args => execForget sender tag args s
  | .ack sender tag args => execAck sender tag args s
  | .report sender tag args => execReport sender tag args s
  | .restart sender tag args => execRestart sender tag args s
  | .orderUnknownKind sender tag kind args => execOrderUnknownKind sender tag kind args s
  | .orderForAnotherStation sender target tag kind args => execOrderForAnotherStation sender target tag kind args s
  | .answerOrAlertHeard sender kind body => execAnswerOrAlertHeard sender kind body s
  | _ => .next s

/-- FRAME_REJECTED: a completed frame that fails a test of R184 is discarded. Bytes that pass every test are no rejected
frame, and are delivered as the command they spell (log 24). -/
def execFrameRejected (bytes : List Byte) (s : State) : Host.Outcome State Fault Refusal :=
  match readFrame s.cfg.station bytes with
  | some c => deliver c s
  | none => .next (s.hear false (fun s => s))

end Sys2Proof.Machine
end

