-- ==== Sys2Proof/Machine/Tick.lean ====
section
/-! DEFINITION. One second of the node's timebase (R194; log 2): the timebase and the Service Clock count, and the
commands of the timers that expire and of the clock instants that are reached join the queue. -/

namespace Sys2Proof.Machine

/-- A command that falls due when the condition holds. -/
def whenDue (due : Bool) (c : Instr) : List Instr := if due then [c] else []

/-- What falls due at the node as a whole (R202, R205, R209). -/
def State.dueNode (s : State) : List Instr :=
  whenDue (match s.node.resetLine with | .held e _ => e == s.now | _ => false) .resetHoldExpiry
  ++ whenDue (match s.order with | some o => o.work == .restart true | none => false) .restartAnswerLeft
  ++ whenDue (s.node.listenTimer == some s.now) .listenTimerExpiry

/-- What falls due at the lanes (R18, R21, R22). -/
def State.dueLanes (s : State) : List Instr :=
  s.lanes.flatMap (fun l => l.settle.zipIdx.flatMap (fun p =>
    whenDue (p.1.timer == some s.now) (.berthSettleExpiry l.number (p.2 + 1))))
  ++ s.lanes.flatMap (fun l => whenDue (l.survey == some s.now) (.surveyPeriodEnd l.number))

/-- The expiry of a stage's timer (R53 to R57). -/
def stageExpiry (stage : Nat) : StageState → List Instr
  | .spinup => [.spinupExpiry stage]
  | .dwell => [.dwellExpiry stage]
  | .runon => [.runonExpiry stage]
  | .leaving => [.advanceTimeout stage]
  | .empty => []
  | .doneWait => []
  | .fault => []

/-- What falls due in the wash lane (R54 to R57, R60). -/
def State.dueWash (s : State) : List Instr :=
  whenDue (s.wash.callTimer == some s.now) .entryCallTimeout
  ++ s.wash.stages.zipIdx.flatMap (fun p => if p.1.timer == some s.now then stageExpiry (p.2 + 1) p.1.state else [])
  ++ whenDue (s.wash.clearing == some s.now) .frostClearExpiry

/-- The expiry of the caller's timer (R69, R78). -/
def State.dueCaller (s : State) : List Instr :=
  match s.alloc.caller with
  | .idle => []
  | .calling _ _ t => whenDue (t == s.now) .callTimerExpiry
  | .taken _ _ _ t => whenDue (t == s.now) .takeWaitExpiry

/-- What falls due for one record (R69, R77, R81). -/
def State.dueBus (s : State) (b : Bus) : List Instr :=
  match b.fleet, b.place with
  | some f, .apron _ retry => whenDue (retry == some s.now) (.unplacedRetryExpiry f)
  | some f, .transit _ start _ sent =>
    whenDue (match sent with | some t => t.watch == some s.now | none => false) (.takeWatchExpiry f)
    ++ whenDue (start + s.cfg.transitTimeout * 60 == s.now) (.transitTimeout f)
  | _, _ => []

/-- What falls due at the Berth Allocator (R69, R75, R77, R78, R81). -/
def State.dueAlloc (s : State) : List Instr :=
  s.alloc.offers.flatMap (fun o => whenDue (o.window == s.now) (.offerWindowExpiry o.caller))
  ++ s.dueCaller ++ s.buses.records.flatMap s.dueBus
  ++ s.alloc.arrived.flatMap (fun a => whenDue (a.sent.watch == some s.now) (.takeWatchExpiry a.fleet))

/-- What falls due for one charger (R109, R128). -/
def State.dueCharger (s : State) (c : Charger) : List Instr :=
  whenDue (c.phase == .settling s.now) (.chargerSettleExpiry c.berth)
  ++ whenDue (c.ramp == some s.now) (.rampTimerExpiry c.berth)

/-- What falls due at the chargers and feeders (R89, R95, R99, R101, R109, R120, R128). -/
def State.duePower (s : State) : List Instr :=
  s.charging.chargers.flatMap s.dueCharger
  ++ s.feeders.stations.flatMap (fun e => whenDue (e.fresh == some s.now) (.freshnessTimerExpiry e.station))
  ++ whenDue (s.feeders.planHold == some s.now) .planHoldExpiry
  ++ whenDue (s.charging.boundary == some s.now) .turnBoundary
  ++ whenDue (s.feeders.drawTimer == some s.now) .drawTimerExpiry
  ++ allGroups.flatMap (fun g => whenDue ((groupGet s.feeders.groups g).refresh == some s.now) (.feederRefreshExpiry g))

/-- The clock has come to the second at which the run's time-to-go equals `lead` (R142, R156). -/
def State.leadNow (s : State) (r : Run) (lead : Int) : Bool := s.clock.isSet && s.runTimeToGo r == lead

/-- What falls due for one run (R142, R145, R147, R156). -/
def State.dueRun (s : State) (r : Run) : List Instr :=
  whenDue (r.window == some s.now) (.claimWindowExpiry r.run)
  ++ whenDue (r.refresh == some s.now) (.claimRefreshExpiry r.run)
  ++ whenDue (s.leadNow r (s.cfg.claimLead * 60 : Nat)) (.claimPeriodEntry r.run)
  ++ whenDue (s.leadNow r (s.cfg.shuntLead * 60 : Nat)) (.shuntLeadReached r.run)
  ++ whenDue (s.leadNow r (s.cfg.releaseLead * 60 : Nat)) (.releaseLeadReached r.run)
  ++ whenDue (s.leadNow r (-(s.cfg.lateGrace * 60 : Nat))) (.gracePassed r.run)

/-- What falls due at the Departure Controller (R162, R165, R174). -/
def State.dueDepartures (s : State) : List Instr :=
  whenDue (match s.departures.release with | some r => r.timer == s.now | none => false) .releaseTimerExpiry
  ++ s.departures.shunts.flatMap (fun o => whenDue (o.timer == s.now) (.shuntTimerExpiry o.fleet))
  ++ whenDue (match s.departures.lastExit with
      | some x => secondsBetween s.clock.time x == s.cfg.exitGap
      | none => false) .exitGapHolds

/-- Every command that falls due at this second. -/
def State.due (s : State) : List Instr :=
  s.dueNode ++ s.dueLanes ++ s.dueWash ++ s.dueAlloc ++ s.duePower ++ s.runs.runs.flatMap s.dueRun ++ s.dueDepartures
    ++ whenDue s.gapReached .frameSendStart

/-- The timebase and the Service Clock count one second, in which the line is idle unless a frame is under way (R186, R194;
log 10). -/
def State.second (s : State) : State :=
  ((s.setNow (s.now + 1)).setClock { s.clock with time := (s.clock.time + 1) % 86400 }).idleFor
    (bitsPerSecond s.cfg.lineRate)

/-- One second of the timebase. -/
def State.tick (s : State) : State := s.second.setPending (s.pending ++ s.second.due)

end Sys2Proof.Machine
end

