-- ==== Sys2Proof/Machine/Dispatch.lean ====
section
/-! DEFINITION. The dispatch: one arm per command, each one call of its meaning. -/

namespace Sys2Proof.Machine

def exec (i : Instr) (s : State) : Host.Outcome State Fault Refusal :=
  match i with
  | .powerOn => Sys2Proof.Machine.execPowerOn s
  | .resetLineAsserted => Sys2Proof.Machine.execResetLineAsserted s
  | .resetHoldExpiry => Sys2Proof.Machine.execResetHoldExpiry s
  | .resetLineReleased => Sys2Proof.Machine.execResetLineReleased s
  | .configReadComplete image => Sys2Proof.Machine.execConfigReadComplete image s
  | .listenTimerExpiry => Sys2Proof.Machine.execListenTimerExpiry s
  | .laneReaderReading lane input fleet dir => Sys2Proof.Machine.execLaneReaderReading lane input fleet dir s
  | .berthDetectorChange lane pos occupied => Sys2Proof.Machine.execBerthDetectorChange lane pos occupied s
  | .berthSettleExpiry lane pos => Sys2Proof.Machine.execBerthSettleExpiry lane pos s
  | .surveyPeriodEnd lane => Sys2Proof.Machine.execSurveyPeriodEnd lane s
  | .entryReaderReading fleet => Sys2Proof.Machine.execEntryReaderReading fleet s
  | .bypassReaderReading fleet => Sys2Proof.Machine.execBypassReaderReading fleet s
  | .stageDetectorChange stage occupied => Sys2Proof.Machine.execStageDetectorChange stage occupied s
  | .entryCallTimeout => Sys2Proof.Machine.execEntryCallTimeout s
  | .spinupExpiry stage => Sys2Proof.Machine.execSpinupExpiry stage s
  | .dwellExpiry stage => Sys2Proof.Machine.execDwellExpiry stage s
  | .runonExpiry stage => Sys2Proof.Machine.execRunonExpiry stage s
  | .advanceTimeout stage => Sys2Proof.Machine.execAdvanceTimeout stage s
  | .stopInputAsserted => Sys2Proof.Machine.execStopInputAsserted s
  | .stopInputCleared => Sys2Proof.Machine.execStopInputCleared s
  | .temperatureReading degrees => Sys2Proof.Machine.execTemperatureReading degrees s
  | .frostClearExpiry => Sys2Proof.Machine.execFrostClearExpiry s
  | .callTimerExpiry => Sys2Proof.Machine.execCallTimerExpiry s
  | .unplacedRetryExpiry fleet => Sys2Proof.Machine.execUnplacedRetryExpiry fleet s
  | .offerWindowExpiry caller => Sys2Proof.Machine.execOfferWindowExpiry caller s
  | .takeWaitExpiry => Sys2Proof.Machine.execTakeWaitExpiry s
  | .takeWatchExpiry fleet => Sys2Proof.Machine.execTakeWatchExpiry fleet s
  | .transitTimeout fleet => Sys2Proof.Machine.execTransitTimeout fleet s
  | .connectionReport berth energy => Sys2Proof.Machine.execConnectionReport berth energy s
  | .disconnectReport berth => Sys2Proof.Machine.execDisconnectReport berth s
  | .faultReport berth => Sys2Proof.Machine.execFaultReport berth s
  | .meterPulse berth => Sys2Proof.Machine.execMeterPulse berth s
  | .chargerSettleExpiry berth => Sys2Proof.Machine.execChargerSettleExpiry berth s
  | .rampTimerExpiry berth => Sys2Proof.Machine.execRampTimerExpiry berth s
  | .turnBoundary => Sys2Proof.Machine.execTurnBoundary s
  | .planHoldExpiry => Sys2Proof.Machine.execPlanHoldExpiry s
  | .drawTimerExpiry => Sys2Proof.Machine.execDrawTimerExpiry s
  | .freshnessTimerExpiry station => Sys2Proof.Machine.execFreshnessTimerExpiry station s
  | .feederInputChange group state hot => Sys2Proof.Machine.execFeederInputChange group state hot s
  | .feederRefreshExpiry group => Sys2Proof.Machine.execFeederRefreshExpiry group s
  | .claimWindowExpiry rn => Sys2Proof.Machine.execClaimWindowExpiry rn s
  | .claimRefreshExpiry rn => Sys2Proof.Machine.execClaimRefreshExpiry rn s
  | .claimPeriodEntry rn => Sys2Proof.Machine.execClaimPeriodEntry rn s
  | .shuntLeadReached rn => Sys2Proof.Machine.execShuntLeadReached rn s
  | .shuntTimerExpiry fleet => Sys2Proof.Machine.execShuntTimerExpiry fleet s
  | .releaseLeadReached rn => Sys2Proof.Machine.execReleaseLeadReached rn s
  | .releaseTimerExpiry => Sys2Proof.Machine.execReleaseTimerExpiry s
  | .gracePassed rn => Sys2Proof.Machine.execGracePassed rn s
  | .exitGapHolds => Sys2Proof.Machine.execExitGapHolds s
  | .roll sender ask wash bypass lanes berths chargers maxA maxB maxC => Sys2Proof.Machine.execRoll sender ask wash bypass lanes berths chargers maxA maxB maxC s
  | .draw sender comA comB comC planA planB planC => Sys2Proof.Machine.execDraw sender comA comB comC planA planB planC s
  | .feeder sender group state hot => Sys2Proof.Machine.execFeeder sender group state hot s
  | .clock sender seconds => Sys2Proof.Machine.execClock sender seconds s
  | .run sender rn pullOut route demand allowance => Sys2Proof.Machine.execRun sender rn pullOut route demand allowance s
  | .runCancel sender rn => Sys2Proof.Machine.execRunCancel sender rn s
  | .clearRuns sender => Sys2Proof.Machine.execClearRuns sender s
  | .parkCall sender seq fleet cls route pullOut washed => Sys2Proof.Machine.execParkCall sender seq fleet cls route pullOut washed s
  | .offer sender caller seq cost => Sys2Proof.Machine.execOffer sender caller seq cost s
  | .take sender caller seq lane cost => Sys2Proof.Machine.execTake sender caller seq lane cost s
  | .found sender fleet lane => Sys2Proof.Machine.execFound sender fleet lane s
  | .claim sender rn fleet cost => Sys2Proof.Machine.execClaim sender rn fleet cost s
  | .depart sender rn fleet seconds => Sys2Proof.Machine.execDepart sender rn fleet seconds s
  | .late sender rn => Sys2Proof.Machine.execLate sender rn s
  | .answerOrAlertHeard sender kind body => Sys2Proof.Machine.execAnswerOrAlertHeard sender kind body s
  | .frameRejected bytes => Sys2Proof.Machine.execFrameRejected bytes s
  | .frameAbandoned cause => Sys2Proof.Machine.execFrameAbandoned cause s
  | .frameSendStart => Sys2Proof.Machine.execFrameSendStart s
  | .frameWithdrawn => Sys2Proof.Machine.execFrameWithdrawn s
  | .frameSent => Sys2Proof.Machine.execFrameSent s
  | .ackButtonPress => Sys2Proof.Machine.execAckButtonPress s
  | .survey sender tag args => Sys2Proof.Machine.execSurvey sender tag args s
  | .identify sender tag args => Sys2Proof.Machine.execIdentify sender tag args s
  | .laneOpen sender tag args => Sys2Proof.Machine.execLaneOpen sender tag args s
  | .laneClose sender tag args => Sys2Proof.Machine.execLaneClose sender tag args s
  | .laneKind sender tag args => Sys2Proof.Machine.execLaneKind sender tag args s
  | .washSkip sender tag args => Sys2Proof.Machine.execWashSkip sender tag args s
  | .washResume sender tag args => Sys2Proof.Machine.execWashResume sender tag args s
  | .hold sender tag args => Sys2Proof.Machine.execHold sender tag args s
  | .unhold sender tag args => Sys2Proof.Machine.execUnhold sender tag args s
  | .feed sender tag args => Sys2Proof.Machine.execFeed sender tag args s
  | .forget sender tag args => Sys2Proof.Machine.execForget sender tag args s
  | .ack sender tag args => Sys2Proof.Machine.execAck sender tag args s
  | .report sender tag args => Sys2Proof.Machine.execReport sender tag args s
  | .restart sender tag args => Sys2Proof.Machine.execRestart sender tag args s
  | .restartAnswerLeft => Sys2Proof.Machine.execRestartAnswerLeft s
  | .orderUnknownKind sender tag kind args => Sys2Proof.Machine.execOrderUnknownKind sender tag kind args s
  | .idleOf10BitTimes => Sys2Proof.Machine.execIdleOf10BitTimes s
  | .orderForAnotherStation sender target tag kind args => Sys2Proof.Machine.execOrderForAnotherStation sender target tag kind args s

end Sys2Proof.Machine
end

