-- ==== Sys2Proof/Machine/Views.lean ====
section
/-! DEFINITION. The part of the state that the tests after a command leave alone, for the statements about commands:
everything but bindings, claims, releases, shunts, holds, calls, wash stages, frames and alerts. -/

namespace Sys2Proof.Machine

/-- A place up to what the tests can change: a spill moves a queued bus to the apron, a release or a shunt order a parked
one at its position (R49, R160, R172). -/
def Place.ground : Place → Place
  | .queued => .queued
  | .apron _ _ => .queued
  | .washing stage => .washing stage
  | .transit lane start lost sent => .transit lane start lost sent
  | .parked lane pos => .parked lane pos
  | .shunting lane pos => .parked lane pos
  | .released lane pos => .parked lane pos
  | .shuntingBetween => .shuntingBetween

/-- A bus record without its binding and with its place up to the tests; a spill takes a queued bus for unwashed. -/
def Bus.ground (b : Bus) : Bus :=
  { b with place := b.place.ground, washed := b.washed && b.place.ground != .queued, run := none, pullOut := none, route := none }

/-- A lane without the promises made in it. -/
def Lane.ground (l : Lane) : Lane := { l with reservations := [], holds := [] }

/-- A run without its state and the node's own claim. -/
def Run.ground (r : Run) : Run :=
  { r with state := .pending, ownMark := false, claim := none, heardOther := false, window := none, refresh := none }

/-- The state without what the tests that follow a command can change. -/
def State.ground (s : State) : State :=
  { s with
    link := Link.reset
    lanes := s.lanes.map Lane.ground
    buses := { s.buses with records := s.buses.records.map Bus.ground }
    wash := { Wash.reset with mode := s.wash.mode, frost := s.wash.frost, clearing := s.wash.clearing }
    alloc := { Allocator.reset with arrived := s.alloc.arrived, display := s.alloc.display }
    charging := { s.charging with chargers := s.charging.chargers.map Charger.zero }
    runs := ⟨s.runs.runs.map Run.ground, 0⟩
    departures := { Departures.reset with lastExit := s.departures.lastExit }
    alerts := ⟨[], false⟩ }

end Sys2Proof.Machine
end

