-- ==== Sys2Proof/Safety.lean ====
section
/-! DEFINITION. What a safe run is: one that never stops, through states that keep the bounds of the manual. The D48
answers every command with a next state (INVENTORY, Faults). -/

namespace Sys2Proof

open Machine

/-- The outcome is a next state. -/
def goesOn (o : Host.Outcome State Fault Refusal) : Prop := ∃ t, o = .next t

/-- The Bus Table holds at most 64 records (R28). -/
def tableBounded (s : State) : Prop := s.buses.records.length ≤ 64

/-- The alert list holds at most 16 entries (R212). -/
def alertsBounded (s : State) : Prop := s.alerts.entries.length ≤ 16

/-- The send queue holds at most 16 frames, and none in LOADING (R188, R203). -/
def queueBounded (s : State) : Prop := s.link.size ≤ 16 ∧ (s.node.state = .loading → s.link.size = 0)

/-- The Service Clock shows a second of the day (R194). -/
def clockInDay (s : State) : Prop := s.clock.time < 86400

/-- The run list holds at most 256 runs, each number once, in ascending order (R133). -/
def runsOrdered (s : State) : Prop :=
  s.runs.runs.length ≤ 256 ∧ (s.runs.runs.map (·.run)).Pairwise (· < ·)

/-- A fleet number names at most one bus record (R30); the model's handles are distinct and used up (log 5). -/
def fleetsUnique (s : State) : Prop :=
  (s.buses.records.filterMap (·.fleet)).Nodup ∧ (s.buses.records.map (·.id)).Nodup
    ∧ ∀ b ∈ s.buses.records, b.id < s.buses.nextId

/-- The commands that start the node or take it from one node state to another (R201 to R205, R209). -/
def isStart : Instr → Bool
  | .powerOn => true
  | .resetLineAsserted => true
  | .resetHoldExpiry => true
  | .resetLineReleased => true
  | .configReadComplete _ => true
  | .listenTimerExpiry => true
  | .restartAnswerLeft => true
  | _ => false

end Sys2Proof
end

