-- ==== Sys2Proof/Certificates/Slice0/Obligations.lean ====
section
/-! DEFINITION. The statements about the model, chapter by chapter. `Claims` holds the words they are said in.
A statement that gives a whole next state gives the order of effects, tests and frames inside the command too: where
the manual gives none, that order is the model's (log 7). -/

open Sys2Proof Sys2Proof.Machine

/-! ### The step -/

/-- The command at the front of the queue is executed on the rest of the queue. That commands wait in a queue, first in
first out, is the MODEL's (log 2). -/
def Obligations.StepRunsTheFrontCommand : Prop :=
  ∀ (c : Instr) (rest : List Instr) (s : State), step (s.setPending (c :: rest)) = exec c (s.setPending rest)

/-- The node counts idle bit times: it reads the line, and no frame is under way on it (R186, R192, R200, R202). -/
def Sys2Proof.Claims.countsIdle (s : State) : Prop :=
  s.node.resetLine = .released ∧ (s.active = true ∨ s.node.state = .configFault) ∧ s.link.sending = none ∧
    s.link.receiver ≠ .receiving

/-- The line idle for so many more bit times: the count goes up, and the receiver is ready (R181, R186). -/
def Sys2Proof.Claims.idled (bits : Nat) (s : State) : State :=
  s.setLink { s.link with idle := s.link.idle + bits, receiver := .ready }

/-- The bit times of a second at a line rate: 62.5, 125 or 250 kbit/s (R179). -/
def Sys2Proof.Claims.bits (rate : Nat) : Nat := if rate = 1 then 62500 else if rate = 2 then 125000 else 250000

/-- The timer whose expiry the command is stands at an instant with this property; no command without a timer does. -/
def Sys2Proof.Claims.timed (s : State) (reached : Nat → Prop) : Instr → Prop
  | .resetHoldExpiry => ∃ e level, s.node.resetLine = .held e level ∧ reached e
  | .listenTimerExpiry => ∃ e, s.node.listenTimer = some e ∧ reached e
  | .berthSettleExpiry n pos => ∃ e, ∃ l ∈ s.lanes, l.number = n ∧ 1 ≤ pos ∧
      (l.settle[pos - 1]? = some (.awaitEvent e) ∨ l.settle[pos - 1]? = some (.awaitDetector e)) ∧ reached e
  | .surveyPeriodEnd n => ∃ e, ∃ l ∈ s.lanes, l.number = n ∧ l.survey = some e ∧ reached e
  | .entryCallTimeout => ∃ e, s.wash.callTimer = some e ∧ reached e
  | .spinupExpiry k => ∃ e, 1 ≤ k ∧ s.wash.stages[k - 1]? = some ⟨.spinup, some e⟩ ∧ reached e
  | .dwellExpiry k => ∃ e, 1 ≤ k ∧ s.wash.stages[k - 1]? = some ⟨.dwell, some e⟩ ∧ reached e
  | .runonExpiry k => ∃ e, 1 ≤ k ∧ s.wash.stages[k - 1]? = some ⟨.runon, some e⟩ ∧ reached e
  | .advanceTimeout k => ∃ e, 1 ≤ k ∧ s.wash.stages[k - 1]? = some ⟨.leaving, some e⟩ ∧ reached e
  | .frostClearExpiry => ∃ e, s.wash.clearing = some e ∧ reached e
  | .callTimerExpiry => ∃ c count e, s.alloc.caller = .calling c count e ∧ reached e
  | .takeWaitExpiry => ∃ c count best e, s.alloc.caller = .taken c count best e ∧ reached e
  | .offerWindowExpiry k => ∃ o ∈ s.alloc.offers, o.caller = k ∧ reached o.window
  | .unplacedRetryExpiry f => ∃ e, ∃ b ∈ s.buses.records, ∃ u, b.fleet = some f ∧ b.place = .apron u (some e) ∧ reached e
  | .takeWatchExpiry f => ∃ e, reached e ∧
      ((∃ b ∈ s.buses.records, ∃ lane start lost take, b.fleet = some f ∧ b.place = .transit lane start lost (some take) ∧
          take.watch = some e) ∨ ∃ a ∈ s.alloc.arrived, a.fleet = f ∧ a.sent.watch = some e)
  | .transitTimeout f => ∃ b ∈ s.buses.records, ∃ lane start lost take, b.fleet = some f ∧
      b.place = .transit lane start lost take ∧ reached (start + s.cfg.transitTimeout * 60)
  | .chargerSettleExpiry k => ∃ e, ∃ c ∈ s.charging.chargers, c.berth = k ∧ c.phase = .settling e ∧ reached e
  | .rampTimerExpiry k => ∃ e, ∃ c ∈ s.charging.chargers, c.berth = k ∧ c.ramp = some e ∧ reached e
  | .turnBoundary => ∃ e, s.charging.boundary = some e ∧ reached e
  | .planHoldExpiry => ∃ e, s.feeders.planHold = some e ∧ reached e
  | .drawTimerExpiry => ∃ e, s.feeders.drawTimer = some e ∧ reached e
  | .freshnessTimerExpiry k => ∃ e, ∃ x ∈ s.feeders.stations, x.station = k ∧ x.fresh = some e ∧ reached e
  | .feederRefreshExpiry g => ∃ e, (groupGet s.feeders.groups g).refresh = some e ∧ reached e
  | .claimWindowExpiry n => ∃ e, ∃ r ∈ s.runs.runs, r.run = n ∧ r.window = some e ∧ reached e
  | .claimRefreshExpiry n => ∃ e, ∃ r ∈ s.runs.runs, r.run = n ∧ r.refresh = some e ∧ reached e
  | .shuntTimerExpiry f => ∃ o ∈ s.departures.shunts, o.fleet = f ∧ reached o.timer
  | .releaseTimerExpiry => ∃ rel, s.departures.release = some rel ∧ reached rel.timer
  | _ => False

/-- The Service Clock, SET, stands at the second at which the time-to-go of run `n` is `lead` seconds (R156). -/
def Sys2Proof.Claims.leadNow (s : State) (n : Nat) (lead : Int) : Prop :=
  ∃ r ∈ s.runs.runs, r.run = n ∧ s.clock.isSet = true ∧ timeToGo s.clock.time (r.pullOut * 60) = lead

/-- The instant of the command has come: a clock instant of R142 or R156, the second at which the exit gap comes to hold
(R165), an idle count that has reached the gap of the head frame (R186), a RESTART whose answer has left (R209). -/
def Sys2Proof.Claims.instant (s : State) : Instr → Prop
  | .claimPeriodEntry n => Claims.leadNow s n (s.cfg.claimLead * 60 : Nat)
  | .shuntLeadReached n => Claims.leadNow s n (s.cfg.shuntLead * 60 : Nat)
  | .releaseLeadReached n => Claims.leadNow s n (s.cfg.releaseLead * 60 : Nat)
  | .gracePassed n => Claims.leadNow s n (-(s.cfg.lateGrace * 60 : Nat))
  | .exitGapHolds => ∃ x, s.departures.lastExit = some x ∧ secondsBetween s.clock.time x = s.cfg.exitGap
  | .frameSendStart => Claims.countsIdle s ∧ ∃ f, (s.link.urgent ++ s.link.other).head? = some f ∧
      (if f.notice.isUrgent then 40 else 64) + 2 * s.cfg.station ≤ s.link.idle
  | .restartAnswerLeft => ∃ o, s.order = some o ∧ o.work = .restart true
  | _ => False

/-- The commands that are expiries of timers. -/
def Sys2Proof.Claims.isExpiry : Instr → Bool
  | .resetHoldExpiry | .listenTimerExpiry | .berthSettleExpiry _ _ | .surveyPeriodEnd _ | .entryCallTimeout => true
  | .spinupExpiry _ | .dwellExpiry _ | .runonExpiry _ | .advanceTimeout _ | .frostClearExpiry | .callTimerExpiry => true
  | .takeWaitExpiry | .offerWindowExpiry _ | .unplacedRetryExpiry _ | .takeWatchExpiry _ | .transitTimeout _ => true
  | .chargerSettleExpiry _ | .rampTimerExpiry _ | .turnBoundary | .planHoldExpiry | .drawTimerExpiry => true
  | .freshnessTimerExpiry _ | .feederRefreshExpiry _ | .claimWindowExpiry _ | .claimRefreshExpiry _ => true
  | .shuntTimerExpiry _ | .releaseTimerExpiry => true
  | _ => false

/-- On an empty queue one step is one second of the timebase (the MODEL's choice, log 2): the clock counts modulo a day
(R194), a line with no frame under way is idle for that second (log 10), what falls due joins the queue, and nothing else
changes. What falls due is, timer by timer, what expires in that second, and the instants that it brings. An expiry that has
been overtaken, its timer stopped or restarted since, changes nothing (R95, R205; log 6). The seconds from one clock second to
another are counted modulo a day; a clock second that is more than 72 000 of them ahead is overdue, its time-to-go a day less
(R1, R2). -/
def Obligations.SecondsPassAndTimersExpire : Prop :=
  (∀ s : State, s.pending = [] → s.clock.time < 86400 →
      let t := (s.setNow (s.now + 1)).setClock ⟨if s.clock.time = 86399 then 0 else s.clock.time + 1, s.clock.isSet⟩
      (Claims.countsIdle s → let u := Claims.idled (Claims.bits s.cfg.lineRate) t
        step s = .next (u.setPending u.due)) ∧
      (¬ Claims.countsIdle s → step s = .next (t.setPending t.due))) ∧
  ((∀ (s : State) (c : Instr), c ∈ s.due ↔ (Claims.timed s (fun e => e = s.now) c ∨ Claims.instant s c)) ∧
    (∀ (s : State) (c : Instr), Claims.isExpiry c = true → ¬ Claims.timed s (fun e => e ≤ s.now) c → exec c s = .next s)) ∧
  (∀ x y : Nat, (secondsBetween x y : Int) = ((x : Int) - y) % 86400 ∧
    timeToGo y x = if secondsBetween x y ≤ 72000 then (secondsBetween x y : Int) else secondsBetween x y - 86400)

/-! ### Bus records (R28, R29, R32, R34) -/

/-- A record made: need and run absent, hold clear, the next arrival sequence. A counter that would pass 65 535 first gives
the records 1, 2, 3 and so on in the order they have, and goes on from their number (R28, R32; the handle `id`: log 5). -/
def Sys2Proof.Claims.created (fleet : Option Nat) (kind : PlaceholderKind) (cls : BusClass) (place : Place) (washed : Bool)
    (s : State) : State :=
  let olds := s.buses.records
  let old := if s.buses.counter < 65535 then olds
    else olds.map (fun b => { b with seq := (olds.filter (fun x => x.seq < b.seq)).length + 1 })
  let seq := (if s.buses.counter < 65535 then s.buses.counter else olds.length) + 1
  let new : Bus := { id := s.buses.nextId, fleet := fleet, kind := kind, cls := cls, place := place, washed := washed, run := none
                     pullOut := none, route := none, need := none, hold := false, seq := seq }
  s.setBuses { records := old ++ [new], counter := seq, nextId := s.buses.nextId + 1 }

/-- A record made from a reading: named, not washed, its class by the class bands (R29, R32). -/
def Sys2Proof.Claims.named (fleet : Nat) (place : Place) (s : State) : State :=
  let cls : BusClass := if fleet < s.cfg.firstStandard then .midi else if fleet < s.cfg.firstArtic then .standard else .artic
  Claims.created (some fleet) .named cls place false s

/-- A record taken out of the table (R34). -/
def Sys2Proof.Claims.removed (id : Nat) (s : State) : State :=
  s.setBuses { s.buses with records := s.buses.records.filter (fun b => b.id != id) }

/-- A reservation of a lane consumed or released (R8, R11). -/
def Sys2Proof.Claims.unreserved (lane : Nat) (r : Reservation) (s : State) : State :=
  s.updateLane lane (fun l => { l with reservations := removeFirst (fun x => x == r) l.reservations })

/-- Every reservation of a fleet released, whatever the lane (R12). -/
def Sys2Proof.Claims.unpromised (fleet : Nat) (s : State) : State :=
  s.setLanes (s.lanes.map (fun l => { l with reservations := l.reservations.filter (fun r => r.fleet != fleet) }))

/-- The shunt order of a fleet gone (R173). -/
def Sys2Proof.Claims.unshunted (fleet : Nat) (s : State) : State :=
  s.setDepartures { s.departures with shunts := s.departures.shunts.filter (fun o => o.fleet != fleet) }

/-! ### Lane readers (R4, R9 to R16, R161) -/

/-- The suspect mark set by a reader or detector cause, with LANE_SUSPECT when it was clear (R19). -/
def Sys2Proof.Claims.marked (l : Lane) (n : Nat) (s : State) : State :=
  if l.suspect then s else (s.updateLane n (fun x => { x with suspect := true })).raise .laneSuspect n

/-- A reading of a good fleet number at a lane of an active node. -/
def Sys2Proof.Claims.reads (s : State) (l : Lane) (n fleet : Nat) : Prop :=
  s.active = true ∧ s.laneOf n = some l ∧ 1 ≤ fleet ∧ fleet ≤ 9999

/-- The entry end of a lane (R4). -/
def Sys2Proof.Claims.entryEnd (l : Lane) : ReaderInput := match l.kind with | .deadEnd => .front | .through => .rear

/-- The fleet's record stands at the entry-most occupied position (R10). -/
def Sys2Proof.Claims.repeated (s : State) (l : Lane) (n fleet : Nat) : Prop :=
  ∃ p b, s.entryMost l = some p ∧ s.occupant n p = some b ∧ b.fleet = some fleet

/-- The mouth-most occupied position of a lane: k of a DEAD_END lane, f of a THROUGH lane (R5). -/
def Sys2Proof.Claims.frontMost (s : State) (l : Lane) (p : Nat) : Prop :=
  1 ≤ p ∧ p ≤ l.size ∧ s.occupant l.number p ≠ none ∧ ∀ q, 1 ≤ q → q < p → s.occupant l.number q = none

/-- The rear-most occupied position of a lane: b of a THROUGH lane (R5). -/
def Sys2Proof.Claims.rearMost (s : State) (l : Lane) (p : Nat) : Prop :=
  1 ≤ p ∧ p ≤ l.size ∧ s.occupant l.number p ≠ none ∧ ∀ q, p < q → q ≤ l.size → s.occupant l.number q = none

/-- The leaving position, the entry position and the entry room of a lane, empty and occupied, of either kind, are those of the
table (R5). Readings that are discarded, and wrong-way readings (R4, R9, R19). The two tests of R10: a repeat is ignored; a
physically full lane is marked and STRAY is raised, LANE_SUSPECT not (R19). The tests that follow every reading are made in
both. A lane is marked suspect where it is configured (R19). -/
def Obligations.ReadingsThatMoveNoBus : Prop :=
  (∀ (s : State) (l : Lane),
      ((∀ p, 1 ≤ p → p ≤ l.size → s.occupant l.number p = none) →
        s.leavingPos l = none ∧ s.entryMost l = none ∧ s.entryRoom l = l.size ∧
        s.entryPos l = some (match l.kind with | .deadEnd => l.size | .through => 1)) ∧
      (∀ p, Claims.frontMost s l p → s.leavingPos l = some p ∧ (l.kind = .deadEnd →
        s.entryMost l = some p ∧ s.entryRoom l = p - 1 ∧ s.entryPos l = if 1 < p then some (p - 1) else none)) ∧
      (∀ p, Claims.rearMost s l p → l.kind = .through →
        s.entryMost l = some p ∧ s.entryRoom l = l.size - p ∧ s.entryPos l = if p < l.size then some (p + 1) else none)) ∧
  (∀ (s : State) (n : Nat), (s.laneOf n = none → s.suspectLane n = s) ∧
      (∀ l, s.laneOf n = some l → s.suspectLane n = Claims.marked l n s)) ∧
  (∀ (s : State) (n fleet : Nat) (input : ReaderInput) (dir : Direction),
      ((s.active = false ∨ s.laneOf n = none ∨ fleet = 0 ∨ 9999 < fleet) →
        exec (.laneReaderReading n input fleet dir) s = .next s) ∧
      (∀ l, Claims.reads s l n fleet →
        (l.kind = .deadEnd → exec (.laneReaderReading n .rear fleet dir) s = .next s) ∧
        (l.kind = .through → (input = .front ∧ dir = .inward ∨ input = .rear ∧ dir = .outward) →
          exec (.laneReaderReading n input fleet dir) s = .next (Claims.marked l n s)))) ∧
  (∀ (s : State) (l : Lane) (n fleet : Nat), Claims.reads s l n fleet →
      (Claims.repeated s l n fleet →
        exec (.laneReaderReading n (Claims.entryEnd l) fleet .inward) s = .next (s.settle s [])) ∧
      (¬ Claims.repeated s l n fleet → s.entryRoom l = 0 → 0 < l.size →
        exec (.laneReaderReading n (Claims.entryEnd l) fleet .inward) s =
          .next (((s.updateLane n (fun x => { x with suspect := true })).raise .stray fleet).settle s [])))

/-- The take of a bus that has come while its take watch runs is remembered (the MODEL's record of it, log 12). -/
def Sys2Proof.Claims.watched (b : Bus) (fleet : Nat) (s : State) : State :=
  match b.place with
  | .transit _ _ _ (some take) =>
    if take.watch.isSome then s.setAlloc { s.alloc with arrived := s.alloc.arrived ++ [⟨fleet, take⟩] } else s
  | _ => s

/-- An expected bus arrives: one in TRANSIT for the lane, its take watch running or not, or one SHUNTING whose order has
this target. It is PARKED at the entry position and its shunt order is complete; its reservation is consumed when that
stands, else the room test of R14 is applied (R11, R173). A stray is recorded PARKED at the entry position while the bus
table has room, its record made by R28, R29 and R32 (its handle the MODEL's, log 5), FOUND sent and STRAY raised in both cases
(R13). -/
def Obligations.ExpectedAndStrayEntries : Prop :=
  (∀ (s : State) (l : Lane) (b : Bus) (n fleet pos : Nat) (kind : ReservationKind), Claims.reads s l n fleet →
      ¬ Claims.repeated s l n fleet → s.entryPos l = some pos → s.busOf fleet = some b →
      ((∃ start lost take, b.place = .transit n start lost take) ∧ kind = .transit ∨
        b.place = .shuntingBetween ∧ (∃ o, s.shuntOf fleet = some o ∧ o.target = n) ∧ kind = .shunt) →
      let parked := Claims.unshunted fleet (Claims.watched b fleet (s.parkAt b.id n pos))
      exec (.laneReaderReading n (Claims.entryEnd l) fleet .inward) s =
        .next ((if l.reservations.contains ⟨kind, fleet⟩ then Claims.unreserved n ⟨kind, fleet⟩ parked
          else parked.roomTest n).settle s [])) ∧
  (∀ (s : State) (l : Lane) (n fleet pos : Nat), Claims.reads s l n fleet → s.entryPos l = some pos →
      s.busOf fleet = none →
      exec (.laneReaderReading n (Claims.entryEnd l) fleet .inward) s =
        .next ((((if s.buses.records.length < 64
          then (((Claims.named fleet (.parked n pos) s).repeatNeed n pos).settleBerth true n pos).roomTest n
          else (s.raise .busTableFull fleet).suspectLane n).send (.found fleet n)).raise .stray fleet).settle s []))

/-- The placeholder that keeps a lane's stack unbroken: its kind by the detector, its class the first of ARTIC, STANDARD and
MIDI that the lane takes (R12, R29). -/
def Sys2Proof.Claims.placeheld (l : Lane) (n pos : Nat) (s : State) : State :=
  let cls : BusClass := if l.conf.classes.artic then .artic else if l.conf.classes.standard then .standard else .midi
  (Claims.created none (if s.detector n pos then .occupied else .gap) cls (.parked n pos) false s).repeatNeed n pos

/-- What goes with a record that is moved: its reservations, its shunt order, and the release of a RELEASED one, whose end
without a departure has a statement of its own (R12, R164). -/
def Sys2Proof.Claims.movedOff (b : Bus) (fleet : Nat) (s : State) : State :=
  let t := Claims.unshunted fleet (Claims.unpromised fleet s)
  if b.isReleased && s.departures.release.any (fun rel => rel.fleet == fleet) then t.failRelease .runLate false else t

/-- A record that stands at no position and is not expected at lane `n`: QUEUED, in the wash, on the apron, in TRANSIT or
between lanes for another one (R12). -/
def Sys2Proof.Claims.offTheLanes (s : State) (b : Bus) (n fleet : Nat) : Prop :=
  b.place = .queued ∨ (∃ k, b.place = .washing k) ∨ (∃ u retry, b.place = .apron u retry) ∨
    (∃ m start lost take, b.place = .transit m start lost take ∧ m ≠ n) ∨
    b.place = .shuntingBetween ∧ (∀ o, s.shuntOf fleet = some o → o.target ≠ n)

/-- A stage that its bus has left: out of FAULT it is EMPTY once its detector shows clear (R58); in STOPPED it is EMPTY (log
15); else it is in RUNON, or EMPTY at once with a run-on time of 0 (R56, R59). -/
def Sys2Proof.Claims.sentOn (stage : Nat) (s : State) : State :=
  let t := (s.stageTimes stage).runon
  if s.stageState stage = .fault then s.setStage stage (if s.stageDetector stage = true then .fault else .empty) none
  else if s.wash.mode = .stopped ∨ t = 0 then s.setStage stage .empty none
  else s.setStage stage .runon (some (s.now + t))

/-- The Wash Sequencer without a record that another block takes from it: a called record's call ends; a stage is left, with
the apron place promised to its bus; the apron list closes up (R54, R56, R58, R59). -/
def Sys2Proof.Claims.outOfWash (b : Bus) (fleet : Nat) (s : State) : State :=
  match b.place with
  | .queued => if s.wash.called = some fleet then s.setWash { s.wash with called := none, callTimer := none } else s
  | .washing k =>
    if k = s.stageCount ∧ (s.stageState k = .leaving ∨ s.stageState k = .fault)
    then Claims.sentOn k (s.setWash { s.wash with promised := false }) else Claims.sentOn k s
  | .apron _ _ => s.setWash { s.wash with apron := s.wash.apron.filter (fun f => f != fleet) }
  | _ => s

/-- This node's own call ended because its bus was found: the caller IDLE, its own offer dropped, FOUND sent (R70). -/
def Sys2Proof.Claims.foundHere (fleet n : Nat) (s : State) : State :=
  ((s.setAlloc { s.alloc with caller := .idle }).dropOffer s.cfg.station).send (.found fleet n)

/-- A bus read in whose record stands at a position already, PARKED, SHUNTING or RELEASED. From a leaving position it is
moved and its old lane marked; from any other a placeholder is left besides; with no room for that BUS_TABLE_FULL is raised
and the reading lane marked instead, the old lane the subject of that alert (the MODEL's reading, log 17). A record that
stands at no position is moved to the lane that read it: the wash lane lets it go, its reservations and shunt order go, it is
PARKED at the entry position, the room test is made, and a call for it ends (R12, R59, R70; that the room test comes before
the end of the call is the MODEL's choice, log 29). A placeholder takes its fields by R28, R29 and
R32 (its handle the MODEL's, log 5). -/
def Obligations.BusesReadInElsewhereAreMoved : Prop :=
  (∀ (s : State) (l old : Lane) (b : Bus) (n fleet pos m q : Nat), Claims.reads s l n fleet →
      ¬ Claims.repeated s l n fleet → s.entryPos l = some pos → s.busOf fleet = some b → b.berth? = some (m, q) →
      s.laneOf m = some old →
      let parked := s.parkAt b.id n pos
      let moved := fun (t : State) => exec (.laneReaderReading n (Claims.entryEnd l) fleet .inward) s = .next (t.settle s [])
      (s.leavingPos old = some q →
        moved ((Claims.movedOff b fleet ((parked.settleBerth true m q).suspectLane m)).roomTest n)) ∧
      (s.leavingPos old ≠ some q → s.buses.records.length < 64 →
        moved ((Claims.movedOff b fleet ((Claims.placeheld old m q parked).suspectLane m)).roomTest n)) ∧
      (s.leavingPos old ≠ some q → 64 ≤ s.buses.records.length → moved ((s.raise .busTableFull m).suspectLane n))) ∧
  (∀ (s : State) (l : Lane) (b : Bus) (n fleet pos : Nat), Claims.reads s l n fleet →
      ¬ Claims.repeated s l n fleet → s.entryPos l = some pos → s.busOf fleet = some b → Claims.offTheLanes s b n fleet →
      let free := Claims.unshunted fleet (Claims.unpromised fleet (Claims.outOfWash b fleet s))
      let t := (Claims.watched b fleet (free.parkAt b.id n pos)).roomTest n
      let called := b.isApron = true ∧ ∃ c count timer, s.alloc.caller = .calling c count timer ∧ c.fleet = fleet
      let moved := fun (t : State) => exec (.laneReaderReading n (Claims.entryEnd l) fleet .inward) s = .next (t.settle s [])
      (called → moved (Claims.foundHere fleet n t)) ∧ (¬ called → moved t))

/-- The room test of a lane: with more reserved and held than its entry room, one entry is cancelled, the oldest TRANSIT
reservation, else the oldest hold, else the oldest SHUNT reservation, and its owner told: the transit has lost its
reservation, the offer is withdrawn, the shunt order runs on without one (R14, R74, R84, R175). -/
def Obligations.RoomTestCancelsTheOldestPromise : Prop :=
  ∀ (s : State) (l : Lane) (n : Nat), s.laneOf n = some l →
    let without := fun (r : Reservation) => s.updateLane n (fun x => { x with reservations := removeFirst (fun y => y == r) x.reservations })
    let lostPlace := fun (p : Place) => match p with | .transit lane start _ take => .transit lane start true take | p => p
    (l.reservations.length + l.holds.length ≤ s.entryRoom l → s.roomTest n = s) ∧
    (s.entryRoom l < l.reservations.length + l.holds.length →
      (∀ r, l.reservations.find? (fun r => r.kind == .transit) = some r → s.roomTest n =
        (without r).setBuses { s.buses with records := s.buses.records.map (fun b =>
          if b.fleet = some r.fleet then { b with place := lostPlace b.place } else b) }) ∧
      ((∀ r ∈ l.reservations, r.kind = .shunt) →
        (∀ h rest, l.holds = h :: rest → s.roomTest n =
          (s.updateLane n (fun x => { x with holds := removeFirst (fun y => y == h) x.holds })).setAlloc
            { s.alloc with offers := s.alloc.offers.map (fun o =>
              if o.caller = h.caller ∧ o.call.seq = h.seq then { o with withdrawn := true } else o) }) ∧
        (∀ r rest, l.holds = [] → l.reservations = r :: rest → s.roomTest n =
          (without r).setDepartures { s.departures with shunts := s.departures.shunts.map (fun o =>
            if o.fleet = r.fleet then { o with reserved := false } else o) })))

/-- A run that its own node has sent out (R161). -/
def Sys2Proof.Claims.departed (told : Bool) (r : Run) : Run :=
  { r with state := .departed, claim := none, window := none, ownMark := false, ownDeparture := told }

/-- What becomes of a record read out at the leaving end without a release: PARKED becomes TRANSIT for the lane it left,
its reservation lost; SHUNTING goes between lanes (R15). An OUT that does not name the bus at the leaving position leaves
the stack unchanged and marks the lane (R16). The OUT of the released bus ends its release: the last exit is now, the run is
DEPARTED with its claim gone, DEPART is sent, and the record is deleted (R161). -/
def Obligations.OutReadingsTakeTheBusOutOrMark : Prop :=
  ((∀ (s : State) (l : Lane) (b : Bus) (n fleet pos m p : Nat), Claims.reads s l n fleet → s.leavingPos l = some pos →
        s.occupant n pos = some b → b.fleet = some fleet →
        (b.place = .parked m p → exec (.laneReaderReading n .front fleet .outward) s =
          .next (((s.updateBus b.id (fun x => { x with place := .transit n s.now true none })).settleBerth true n
            pos).settle s [])) ∧
        (b.place = .shunting m p → exec (.laneReaderReading n .front fleet .outward) s =
          .next ((((s.setDepartures { s.departures with shunts := s.departures.shunts.map (fun o =>
              if some fleet == some o.fleet then { o with phase := .between } else o) }).updateBus b.id
                (fun x => { x with place := .shuntingBetween })).settleBerth true n pos).settle s []))) ∧
    (∀ (s : State) (l : Lane) (n fleet : Nat), Claims.reads s l n fleet →
        (∀ b, s.leavingBus l = some b → b.fleet ≠ some fleet) →
        exec (.laneReaderReading n .front fleet .outward) s = .next ((Claims.marked l n s).settle s []))) ∧
  (∀ (s : State) (l : Lane) (b : Bus) (rel : Release) (n fleet pos m p : Nat), Claims.reads s l n fleet →
      s.leavingPos l = some pos → s.occupant n pos = some b → b.fleet = some fleet → b.place = .released m p →
      s.departures.release = some rel →
      exec (.laneReaderReading n .front fleet .outward) s =
        .next ((((((s.setDepartures { s.departures with release := none, lastExit := some s.clock.time }).updateRun rel.run
          (Claims.departed s.listenOrRun)).send (.depart rel.run rel.fleet s.clock.time)).deleteBus
          b.id).settleBerth true n pos).settle s []))

/-! ### Berth detectors and surveys (R17, R18, R20 to R22) -/

/-- The settle state after a change that leaves the berth agreeing or not: a timer is started from QUIET alone, to await the
detector after a primary event, and an event after a detector change (R18). -/
def Sys2Proof.Claims.afterChange (byEvent agrees : Bool) (expiry : Nat) (st : BerthSettle) : BerthSettle :=
  if agrees then .quiet else if st ≠ .quiet then st else if byEvent then .awaitDetector expiry else .awaitEvent expiry

/-- A lane with the settle state of one position changed. -/
def Sys2Proof.Claims.settled (f : BerthSettle → BerthSettle) (pos : Nat) (l : Lane) : Lane :=
  { l with settle := updateAt f (pos - 1) l.settle }

/-- A detector change: the level is taken in, and at an active node the settle state of the berth moves by the table of R18. A
level that stands already changes nothing; a change at no berth, position 0 among them, is taken into the levels alone (log 6).
The settle state so moves at a primary event, by the record that has come or gone. A record parked at a position takes the
need that the berth's charger repeats, where that is not IDLE and has one, and is a primary event there (R11, R18, R113). The
settle timer of a berth expires: MISMATCH, and the suspect mark (R18, R19). -/
def Obligations.DetectorsMoveTheSettleStates : Prop :=
  (∀ (s : State) (n pos : Nat) (occupied : Bool),
      (s.detector n pos = occupied → exec (.berthDetectorChange n pos occupied) s = .next s) ∧
      (s.detector n pos ≠ occupied → ∃ t : State, exec (.berthDetectorChange n pos occupied) s = .next t ∧
        t.detector n pos = occupied ∧ (∀ m q, (m, q) ≠ (n, pos) → t.detector m q = s.detector m q) ∧
        let taken := s.setInputs { s.inputs with berths := t.inputs.berths }
        (s.active = true → 1 ≤ pos → t = taken.updateLane n
          (Claims.settled (Claims.afterChange false (s.recorded n pos == occupied) (s.now + s.cfg.laneSettle)) pos)) ∧
        (s.active = false ∨ pos = 0 ∨ (∀ l ∈ s.lanes, l.number = n → l.settle.length < pos) → t = taken))) ∧
  (∀ (s : State) (id n pos : Nat),
      let charger := s.charging.chargers.find? (fun c => c.lane == n && c.pos == pos)
      s.settleBerth true n pos = s.updateLane n
        (Claims.settled (Claims.afterChange true (s.recorded n pos == s.detector n pos) (s.now + s.cfg.laneSettle)) pos) ∧
      s.parkAt id n pos =
        ((s.updateBus id (fun b => { b with place := .parked n pos })).repeatNeed n pos).settleBerth true n pos ∧
      (∀ c b v, charger = some c → s.occupant n pos = some b → c.phase ≠ .idle → c.session = some v →
        s.repeatNeed n pos = s.updateBus b.id (fun x => { x with need := some v })) ∧
      (s.occupant n pos = none ∨ (∀ c, charger = some c → c.phase = .idle ∨ c.session = none) → s.repeatNeed n pos = s)) ∧
  (∀ (s : State) (l : Lane) (n pos expiry : Nat), s.active = true → s.laneOf n = some l → 1 ≤ pos →
      (l.settle[pos - 1]? = some (.awaitEvent expiry) ∨ l.settle[pos - 1]? = some (.awaitDetector expiry)) →
      expiry ≤ s.now → exec (.berthSettleExpiry n pos) s = .next (Claims.marked l n
        (s.updateLane n (Claims.settled (fun _ => .mismatch) pos))))

/-- The positions that a survey covers: from the lowest occupied detector to the highest, or to the rear of a DEAD_END
lane (R21). -/
def Sys2Proof.Claims.covered (s : State) (l : Lane) (n : Nat) : List Nat :=
  l.positions.filter (fun p => l.positions.any (fun lo => s.detector n lo && decide (lo ≤ p)) &&
    (l.kind == .deadEnd || l.positions.any (fun hi => s.detector n hi && decide (p ≤ hi))))

/-- The records that a survey deletes: those whose detector shows clear (R21). -/
def Sys2Proof.Claims.gone (s : State) (l : Lane) (n : Nat) : List Bus :=
  l.positions.filterMap (fun p => if s.detector n p then none else s.occupant n p)

/-- The positions to which a survey gives a placeholder: the covered ones that hold no record once those are deleted
(R21). -/
def Sys2Proof.Claims.holes (s : State) (l : Lane) (n : Nat) : List Nat :=
  (Claims.covered s l n).filter (fun p => !(s.detector n p && s.recorded n p))

/-- A lane brought to its detectors: deletions, then placeholders, then one promise after another cancelled while they
exceed the entry room; each berth QUIET or MISMATCH as it agrees; the suspect mark set exactly while the stack holds a
placeholder (R14, R21). -/
def Sys2Proof.Claims.brought (s : State) (l : Lane) (n : Nat) : State :=
  let t := (Claims.gone s l n).foldl (fun t b => t.deleteBus b.id) s
  let u := Nat.iterate (fun x => State.roomTest n x) (l.reservations.length + l.holds.length)
    ((Claims.holes s l n).foldl (fun t p => Claims.placeheld l n p t) t)
  u.updateLane n (fun x => { x with
    settle := l.positions.map (fun p => if u.detector n p = u.recorded n p then .quiet else .mismatch)
    suspect := u.buses.records.any (fun b => b.fleet.isNone && b.berth?.any (fun x => x.1 == n))
    survey := none })

/-- The set of bits of some positions: bit 0 for position 1 to bit 5 for position 6 (R207). -/
def Sys2Proof.Claims.bitsOf (ps : List Nat) : Nat :=
  ((List.range 6).map (fun i => if ps.contains (i + 1) then 2 ^ i else 0)).sum

/-- The survey of a lane and what is reported of it: carried out where the bus table has the room, outcome 1 READY, 2 SUSPECT
or 3 CLOSED as the lane then is (R7); else not surveyed, outcome 4, the mark set and BUS_TABLE_FULL raised. The positions are
those where stack and detectors disagreed, and those that received a gap placeholder (R21, R22, R207). -/
def Sys2Proof.Claims.surveyed (s : State) (l : Lane) (n : Nat) : State × SurveyOutcome :=
  let off := l.positions.filter (fun p => s.detector n p != s.recorded n p)
  if s.buses.records.length - (Claims.gone s l n).length + (Claims.holes s l n).length ≤ 64 then
    let t := Claims.brought s l n
    let gaps := (Claims.holes s l n).filter (fun p => !s.detector n p)
    let outcome := match t.laneOf n with
      | some x => if x.closed then 3 else if x.suspect then 2 else 1
      | none => 4
    (t, ⟨n, outcome, Claims.bitsOf (off ++ gaps)⟩)
  else
    ((s.updateLane n (fun x => { x with suspect := true, survey := none })).raise .busTableFull n, ⟨n, 4, Claims.bitsOf off⟩)

/-! ### Orders on lanes and buses (R20, R23 to R25, R39, R206 to R208) -/

/-- The receiver takes the frame that now completes: the node hears, and the line has been idle for 10 bit times since the
frame before (R181, R192). -/
def Sys2Proof.Claims.hearing (s : State) : Prop :=
  s.active = true ∧ s.node.resetLine = .released ∧ s.link.receiver ≠ .waitIdle

/-- An ORDER of another station is taken at a node with no order in execution (R181, R184, R192, R206). -/
def Sys2Proof.Claims.ordered (s : State) (sender tag : Nat) : Prop :=
  Claims.hearing s ∧ sender ≤ 31 ∧ sender ≠ s.cfg.station ∧ tag ≤ 255 ∧ s.order = none

/-- The ANSWER to an order, with a code alone, from the state the order leaves. -/
def Sys2Proof.Claims.answered (sender tag : Nat) (code : AnswerCode) (s : State) : State :=
  s.send (.answer sender tag code 0 [])

/-- The orders with the number of their argument bytes (R207). -/
def Sys2Proof.Claims.orderKinds : List ((Nat → Nat → List Byte → Instr) × Nat) :=
  [(.survey, 1), (.identify, 4), (.laneOpen, 1), (.laneClose, 1), (.laneKind, 2), (.washSkip, 2), (.washResume, 0),
   (.hold, 2), (.unhold, 2), (.feed, 2), (.forget, 1), (.ack, 3), (.report, 2), (.restart, 0)]

/-- The argument byte at an offset, and the number that two of them spell (R180, R207). -/
def Sys2Proof.Claims.argument (args : List Byte) (i : Nat) : Nat := (args.getD i 0).toNat
def Sys2Proof.Claims.argument2 (args : List Byte) (i : Nat) : Nat :=
  Claims.argument args i * 256 + Claims.argument args (i + 1)

/-- A number outside a range. -/
def Sys2Proof.Claims.outside (lo hi n : Nat) : Prop := n < lo ∨ hi < n

/-- The orders with the arguments that their table calls out of range; the subject of an ACK with alert code 0 is not
examined (R207, R213; log 39). -/
def Sys2Proof.Claims.badArguments : List ((Nat → Nat → List Byte → Instr) × (List Byte → Prop)) :=
  let lane := fun args => Claims.outside 1 8 (Claims.argument args 0)
  let fleet := fun args => Claims.outside 1 9999 (Claims.argument2 args 0)
  [(.survey, fun args => Claims.outside 0 8 (Claims.argument args 0)),
   (.identify, fun args => lane args ∨ Claims.outside 1 6 (Claims.argument args 1) ∨ Claims.outside 1 9999 (Claims.argument2 args 2)),
   (.laneOpen, lane), (.laneClose, lane),
   (.laneKind, fun args => lane args ∨ Claims.outside 1 2 (Claims.argument args 1)),
   (.washSkip, fleet), (.hold, fleet), (.unhold, fleet),
   (.feed, fun args => Claims.outside 1 99 (Claims.argument args 0) ∨ Claims.outside 0 7 (Claims.argument args 1)),
   (.forget, fun args => Claims.outside 1 31 (Claims.argument args 0)),
   (.ack, fun args => Claims.outside 0 18 (Claims.argument args 0) ∨
     Claims.argument args 0 ≠ 0 ∧ Claims.outside 0 9999 (Claims.argument2 args 1)),
   (.report, fun args => Claims.outside 1 7 (Claims.argument args 0))]

/-- While an order is in execution every other is answered BUSY; with none in execution, an order of a kind not listed, with
another number of argument bytes than its kind's, or with an argument out of its range, is answered INVALID; neither changes
anything else (R206, R207; that the subject of an ACK with alert code 0, which R213 does not examine, has no range to be out of
is the MODEL's reading, log 39). -/
def Obligations.OrdersBusyOrInvalid : Prop :=
  (∀ (s : State) (o : Order) (sender tag : Nat) (args : List Byte), Claims.hearing s →
      sender ≤ 31 → sender ≠ s.cfg.station → tag ≤ 255 → args.length ≤ 29 → s.order = some o →
      (∀ k ∈ Claims.orderKinds, exec (k.1 sender tag args) s = .next (Claims.answered sender tag .busy s.frameEnded)) ∧
      (∀ kind, Claims.outside 1 14 kind →
        exec (.orderUnknownKind sender tag kind args) s = .next (Claims.answered sender tag .busy s.frameEnded))) ∧
  (∀ (s : State) (sender tag : Nat) (args : List Byte), Claims.ordered s sender tag → args.length ≤ 29 →
      (∀ k ∈ Claims.orderKinds, args.length ≠ k.2 →
        exec (k.1 sender tag args) s = .next (Claims.answered sender tag .invalid s.frameEnded)) ∧
      (∀ k ∈ Claims.badArguments, k.2 args →
        exec (k.1 sender tag args) s = .next (Claims.answered sender tag .invalid s.frameEnded)) ∧
      (∀ kind, Claims.outside 1 14 kind →
        exec (.orderUnknownKind sender tag kind args) s = .next (Claims.answered sender tag .invalid s.frameEnded)))

/-- LANE_CLOSE and LANE_OPEN; a lane is CLOSED while its flag is set, else SUSPECT while its mark is, else READY (R7, R24). -/
def Obligations.LaneOpenAndClose : Prop :=
  ∀ (s : State) (sender tag lane : Nat), Claims.ordered s sender tag → 1 ≤ lane → lane ≤ 8 →
    ((s.laneOf lane).isSome = true →
      exec (.laneClose sender tag [byte lane]) s =
        .next (Claims.answered sender tag .done (s.frameEnded.updateLane lane (fun l => { l with closed := true }))) ∧
      exec (.laneOpen sender tag [byte lane]) s =
        .next (Claims.answered sender tag .done (s.frameEnded.updateLane lane (fun l => { l with closed := false })))) ∧
    (s.laneOf lane = none →
      exec (.laneClose sender tag [byte lane]) s = .next (Claims.answered sender tag .notFound s.frameEnded) ∧
      exec (.laneOpen sender tag [byte lane]) s = .next (Claims.answered sender tag .notFound s.frameEnded)) ∧
    (∀ l : Lane, l.state = if l.closed then .closed else if l.suspect then .suspect else .ready)

/-- LANE_KIND: the kind is set when the permit is set and the lane holds no record, reservation or hold, and its entry
room is then n; else REFUSED; NOT_FOUND for a lane not configured (R25). -/
def Obligations.LaneKindIsSet : Prop :=
  ∀ (s : State) (sender tag lane : Nat) (kind : LaneKind), Claims.ordered s sender tag → 1 ≤ lane → lane ≤ 8 →
    let args := [byte lane, byte (match kind with | .deadEnd => 1 | .through => 2)]
    (s.laneOf lane = none → exec (.laneKind sender tag args) s = .next (Claims.answered sender tag .notFound s.frameEnded)) ∧
    (∀ l, s.laneOf lane = some l →
      ((l.conf.kindChange = true ∧ s.occupiedPositions l = [] ∧ l.reservations = [] ∧ l.holds = []) →
        exec (.laneKind sender tag args) s =
          .next (Claims.answered sender tag .done (s.frameEnded.updateLane lane (fun x => { x with kind := kind }))) ∧
        (s.frameEnded.updateLane lane (fun x => { x with kind := kind })).entryRoom { l with kind := kind } = l.size) ∧
      (¬(l.conf.kindChange = true ∧ s.occupiedPositions l = [] ∧ l.reservations = [] ∧ l.holds = []) →
        exec (.laneKind sender tag args) s = .next (Claims.answered sender tag .refused s.frameEnded)))

/-- HOLD and UNHOLD set and clear the flag of the fleet's record, and the tests are made before DONE; NOT_FOUND without a
record. HOLD of the bus in release withdraws that release, whose end without a departure has a statement of its own (R39,
R164; log 7). -/
def Obligations.HoldAndUnholdSetTheFlag : Prop :=
  ∀ (s : State) (sender tag fleet : Nat), Claims.ordered s sender tag → 1 ≤ fleet → fleet ≤ 9999 →
    (∀ b, s.busOf fleet = some b →
      (let held := s.frameEnded.updateBus b.id (fun x => { x with hold := true })
      let released := b.isReleased = true ∧ ∃ rel, s.departures.release = some rel ∧ rel.fleet = fleet
      let holds := fun (t : State) => exec (.hold sender tag (be16 fleet)) s =
        .next (Claims.answered sender tag .done (t.settle s.frameEnded []))
      (released → holds (held.failRelease .runLate false)) ∧ (¬ released → holds held)) ∧
      exec (.unhold sender tag (be16 fleet)) s = .next (Claims.answered sender tag .done
        ((s.frameEnded.updateBus b.id (fun x => { x with hold := false })).settle s.frameEnded []))) ∧
    (s.busOf fleet = none →
      exec (.hold sender tag (be16 fleet)) s = .next (Claims.answered sender tag .notFound s.frameEnded) ∧
      exec (.unhold sender tag (be16 fleet)) s = .next (Claims.answered sender tag .notFound s.frameEnded))

/-- A lane put in a survey period of one settle time, begun or restarted (R20). -/
def Sys2Proof.Claims.surveying (lanes : List Nat) (ending : Nat) (l : Lane) : Lane :=
  if lanes.contains l.number then { l with survey := some ending } else l

/-- SURVEY of one lane or of all (0): every lane named enters a period of one settle time, the order waits for them and no
answer is sent yet; NOT_FOUND for a lane not configured (R20, R207, R208). At the end of a period the lane is brought to its
detectors, or not surveyed for want of room; LANE_SUSPECT is raised where it was carried out, left the mark set, and no order
waits for it (that it is not for an ordered survey, nor for one not carried out, is the MODEL's reading, log 13); else the order
waits for the other lanes, or is answered DONE with the lane, the outcome code and the set of positions of each, in lane order
(R19, R21, R22, R26, R207, R208; the order of placeholders is the MODEL's, log 30). A placeholder takes its fields by R28, R29
and R32 (its handle the MODEL's, log 5). -/
def Obligations.SurveysBeginAndEnd : Prop :=
  (∀ (s : State) (sender tag lane : Nat), Claims.ordered s sender tag → lane ≤ 8 →
      let named := (s.lanes.map (·.number)).filter (fun n => lane == 0 || n == lane)
      (named ≠ [] → exec (.survey sender tag [byte lane]) s =
        .next ((s.frameEnded.setLanes (s.lanes.map (Claims.surveying named (s.now + s.cfg.laneSettle)))).setOrder
          (some ⟨sender, tag, .survey named []⟩))) ∧
      (named = [] → exec (.survey sender tag [byte lane]) s = .next (Claims.answered sender tag .notFound s.frameEnded))) ∧
  (∀ (s : State) (l : Lane) (n ending : Nat), s.active = true → s.laneOf n = some l → l.survey = some ending →
      ending ≤ s.now →
      let t := (Claims.surveyed s l n).1
      let x := (Claims.surveyed s l n).2
      let ended := fun (u : State) => exec (.surveyPeriodEnd n) s = .next u
      ((∀ o waiting outcomes, s.order = some o → o.work = .survey waiting outcomes → n ∉ waiting) →
        ended ((if (∃ y, t.laneOf n = some y ∧ y.suspect = true) ∧ x.outcome ≠ 4 then t.raise .laneSuspect n else t).settle s [])) ∧
      (∀ o waiting outcomes, s.order = some o → o.work = .survey waiting outcomes → n ∈ waiting →
        let left := waiting.filter (fun m => m != n)
        (left ≠ [] → ended ((t.settle s []).setOrder (some { o with work := .survey left (outcomes ++ [x]) }))) ∧
        (left = [] → ∃ told : List SurveyOutcome, told.Perm (outcomes ++ [x]) ∧ told.Pairwise (fun a b => a.lane ≤ b.lane) ∧
          ended (((t.settle s []).setOrder none).send (.answer o.station o.tag .done 0
            (told.flatMap (fun y => [byte y.lane, byte y.outcome, byte y.positions])))))))

/-- The other record of an identified bus taken out of the table: it leaves the apron list, or its reservation is released,
and its run passes on without a change (R34, R40). -/
def Sys2Proof.Claims.withdrawn (o : Bus) (fleet : Nat) (s : State) : State :=
  let t := Claims.removed o.id s
  match o.place with
  | .apron _ _ => t.setWash { t.wash with apron := t.wash.apron.filter (fun f => f != fleet) }
  | .transit lane _ lost _ => if lost then t else Claims.unreserved lane ⟨.transit, fleet⟩ t
  | _ => t

/-- A placeholder that takes the fleet and the fields of the bus's other record; its need is its own while it has one
(R40). -/
def Sys2Proof.Claims.merged (o : Bus) (fleet : Nat) (b : Bus) : Bus :=
  ⟨b.id, some fleet, .named, o.cls, b.place, o.washed, o.run, o.pullOut, o.route,
    match b.need with | some n => some n | none => o.need, o.hold, o.seq⟩

/-- IDENTIFY of a placeholder: with a fleet that has no record it takes the fleet and is NAMED, keeping class, washed flag
and need; with one whose record stands on the apron or in TRANSIT it takes that record's fields, the other record goes, and a
call for it ends (R70). REFUSED where the position holds a named record or the fleet's record stands elsewhere; NOT_FOUND
where the position is empty or not configured (R23, R40; log 7). The suspect mark of the lane is cleared where its stack
holds no other placeholder and every berth is QUIET, and stays as it was elsewhere (R23). -/
def Obligations.IdentifyNamesThePlaceholder : Prop :=
  (∀ (s : State) (lane : Nat) (l : Lane), (s.lanes.map (·.number)).Nodup → s.laneOf lane = some l →
    let clear := (∀ b ∈ s.buses.records, ∀ pos, b.berth? = some (lane, pos) → b.fleet ≠ none) ∧ ∀ st ∈ l.settle, st = .quiet
    (clear → s.clearSuspect lane = s.updateLane lane (fun x => { x with suspect := false })) ∧
    (¬ clear → s.clearSuspect lane = s)) ∧
  ∀ (s : State) (sender tag lane pos fleet : Nat), Claims.ordered s sender tag → 1 ≤ lane → lane ≤ 8 →
    1 ≤ pos → pos ≤ 6 → 1 ≤ fleet → fleet ≤ 9999 → (s.buses.records.map (·.id)).Nodup →
    let u := s.frameEnded
    let answers := fun (code : AnswerCode) (t : State) =>
      exec (.identify sender tag ([byte lane, byte pos] ++ be16 fleet)) s = .next (Claims.answered sender tag code t)
    let names := fun (b : Bus) (f : Bus → Bus) (t : State) => answers .done (((t.updateBus b.id f).clearSuspect lane).settle u [])
    ((∀ l, s.laneOf lane = some l → l.size < pos ∨ s.occupant lane pos = none) → answers .notFound u) ∧
    (∀ l b, s.laneOf lane = some l → pos ≤ l.size → s.occupant lane pos = some b →
      (b.fleet ≠ none → answers .refused u) ∧
      (b.fleet = none → s.busOf fleet = none → names b (fun x => { x with fleet := some fleet, kind := .named }) u) ∧
      (∀ o, b.fleet = none → s.busOf fleet = some o →
        (o.isApron = false → o.isTransit = false → answers .refused u) ∧
        (o.isApron = true ∨ o.isTransit = true →
          let t := Claims.watched o fleet (Claims.withdrawn o fleet u)
          let called := o.isApron = true ∧ ∃ c count timer, s.alloc.caller = .calling c count timer ∧ c.fleet = fleet
          (called → names b (Claims.merged o fleet) (Claims.foundHere fleet lane t)) ∧
          (¬ called → names b (Claims.merged o fleet) t))))

/-! ### Wash lane (R43 to R46, R52 to R64) -/

/-- The record of a new bus in the wash queue, or BUS_TABLE_FULL (R32, R44). -/
def Sys2Proof.Claims.queued (fleet : Nat) (s : State) : State :=
  if s.buses.records.length < 64 then Claims.named fleet .queued s else s.raise .busTableFull fleet

/-- The record of a new bus on the apron and at the end of its list, or the alert that says why there is none (R44,
R46, R48). -/
def Sys2Proof.Claims.onApron (fleet : Nat) (s : State) : State :=
  if s.wash.apron.length + (if s.wash.promised then 1 else 0) < 4 then
    if s.buses.records.length < 64 then
      (Claims.named fleet (.apron false none) s).setWash { s.wash with apron := s.wash.apron ++ [fleet] }
    else s.raise .busTableFull fleet
  else s.raise .entryOverflow fleet

/-- Readings at the entry and at the bypass: nothing in LOADING and CONFIG_FAULT, for a fleet of 0 or above 9 999, for one with
a record, or without the lane or the bypass; else the place of R44 and R46, its record made by R28, R29 and R32, its
handle the MODEL's, log 5 (R43 to R46, R200). -/
def Obligations.NewBusFindsItsPlaceAtTheEntry : Prop :=
  ∀ (s : State) (fleet : Nat),
    (s.active = false ∨ fleet = 0 ∨ 9999 < fleet ∨ (s.busOf fleet).isSome = true →
      exec (.entryReaderReading fleet) s = .next s ∧ exec (.bypassReaderReading fleet) s = .next s) ∧
    (s.cfg.washLane = false → exec (.entryReaderReading fleet) s = .next s) ∧
    (s.cfg.bypass = false → exec (.bypassReaderReading fleet) s = .next s) ∧
    (s.active = true → 1 ≤ fleet → fleet ≤ 9999 → s.busOf fleet = none →
      (s.cfg.washLane = true → exec (.entryReaderReading fleet) s =
        .next ((if (s.buses.records.filter (fun b => b.place == .queued)).length < 8 then Claims.queued fleet s
          else Claims.onApron fleet s).settle s [])) ∧
      (s.cfg.bypass = true → exec (.bypassReaderReading fleet) s = .next ((Claims.onApron fleet s).settle s [])))

/-- A record comes into a stage: DWELL out of a run-on or with no spin-up time, else SPINUP, held in STOPPED (R54,
R56, R57, R62). -/
def Sys2Proof.Claims.arrives (id stage : Nat) (s : State) : State :=
  let t := s.stageTimes stage
  let moved := s.setPlace id (.washing stage)
  if s.wash.mode = .stopped then moved.setStage stage .spinup none
  else if s.stageState stage = .runon ∨ t.spinup = 0 then moved.setStage stage .dwell (some (s.now + t.dwell))
  else moved.setStage stage .spinup (some (s.now + t.spinup))

/-- A stage detector changed to this level, at a stage in use. -/
def Sys2Proof.Claims.stageShows (s : State) (stage : Nat) (level : Bool) : Prop :=
  s.active = true ∧ s.cfg.washLane = true ∧ 1 ≤ stage ∧ stage ≤ s.cfg.stageCount ∧ s.stageDetector stage = !level

/-- A stage detector, by the table of R52. To occupied, with no record in the stage: the call ends, its bus in stage 1; an
advance ends, also one that was held in STOPPED, or confirmed late out of FAULT, its bus in this stage and the stage before
left. To clear: the last stage's bus, LEAVING or in FAULT, goes to the apron, washed; a FAULT stage with no record becomes
EMPTY. Any other change has no effect but for the tests of the wash lane; a level that stands already, and one at a node or a
stage that takes none, has not these either (R52, R54, R56 to R58, R62; what STOPPED leaves of the stage before is the
MODEL's reading, log 15). -/
def Obligations.StageDetectorConfirmsTheMove : Prop :=
  ∀ (s : State) (b : Bus) (stage : Nat) (level : Bool),
    let sent := fun (k : Nat) => s.stageState k = .leaving ∨ s.stageState k = .fault
    (∀ fleet, Claims.stageShows s 1 true → s.stageBus 1 = none → s.wash.called = some fleet → s.busOf fleet = some b →
      let t := Claims.arrives b.id 1 (s.setStageDetector 1 true)
      exec (.stageDetectorChange 1 true) s = .next (t.setWash { t.wash with called := none, callTimer := none }).settleWash) ∧
    (Claims.stageShows s stage true → 2 ≤ stage → s.stageBus stage = none → sent (stage - 1) →
      s.stageBus (stage - 1) = some b → exec (.stageDetectorChange stage true) s =
        .next (Claims.sentOn (stage - 1) (Claims.arrives b.id stage (s.setStageDetector stage true))).settleWash) ∧
    (∀ fleet, Claims.stageShows s s.cfg.stageCount false → s.stageBus s.cfg.stageCount = some b → b.fleet = some fleet →
      sent s.cfg.stageCount →
      let t := (s.setStageDetector s.cfg.stageCount false).updateBus b.id (fun x => { x with place := .apron false none, washed := true })
      exec (.stageDetectorChange s.cfg.stageCount false) s = .next (Claims.sentOn s.cfg.stageCount
        (t.setWash { t.wash with apron := t.wash.apron ++ [fleet], promised := false })).settleWash) ∧
    (Claims.stageShows s stage false → s.stageBus stage = none → s.stageState stage = .fault →
      exec (.stageDetectorChange stage false) s =
        .next ((s.setStageDetector stage false).setStage stage .empty none).settleWash) ∧
    (Claims.stageShows s stage level →
      (s.stageBus stage ≠ none ∧ (level = true ∨ stage ≠ s.cfg.stageCount ∨ ¬ sent stage) ∨
        s.stageBus stage = none ∧ level = false ∧ s.stageState stage ≠ .fault) →
      exec (.stageDetectorChange stage level) s = .next (s.setStageDetector stage level).settleWash) ∧
    (s.stageDetector stage = level → exec (.stageDetectorChange stage level) s = .next s) ∧
    (s.stageDetector stage ≠ level → (s.active = false ∨ s.cfg.washLane = false ∨ stage = 0 ∨ s.cfg.stageCount < stage) →
      exec (.stageDetectorChange stage level) s = .next (s.setStageDetector stage level))

/-- A stage as STOPPED holds it (R62). -/
def Sys2Proof.Claims.held (st : Stage) : Stage :=
  ⟨match st.state with | .runon => .empty | .dwell => .spinup | x => x, none⟩

/-- The lane put in STOPPED; no further effect from STOPPED (R62). -/
def Sys2Proof.Claims.stopped (s : State) : State :=
  if s.wash.mode = .stopped then s
  else s.setWash { s.wash with mode := .stopped, stages := s.wash.stages.map Claims.held, callTimer := none }

/-- The wash timers: spin-up to DWELL, dwell to the wait for the onward place, run-on to EMPTY; the timeouts of a call
and of an advance raise WASH_STAGE_TIMEOUT and stop the lane (R54 to R57). An intruding bus: its stage becomes FAULT with no
record, and the lane STOPPED. The stop input: asserted it stops the lane, cleared it does not of itself end STOPPED (R52, R62,
R63). -/
def Obligations.WashTimersAndStops : Prop :=
  (∀ (s : State) (stage e : Nat), s.active = true → 1 ≤ stage → e ≤ s.now →
      (s.wash.stages[stage - 1]? = some ⟨.spinup, some e⟩ → exec (.spinupExpiry stage) s =
        .next (s.setStage stage .dwell (some (s.now + (s.stageTimes stage).dwell)))) ∧
      (s.wash.stages[stage - 1]? = some ⟨.dwell, some e⟩ → exec (.dwellExpiry stage) s =
        .next (s.setStage stage .doneWait none).settleWash) ∧
      (s.wash.stages[stage - 1]? = some ⟨.runon, some e⟩ → exec (.runonExpiry stage) s =
        .next (s.setStage stage .empty none).settleWash) ∧
      (∀ b fleet, s.wash.stages[stage - 1]? = some ⟨.leaving, some e⟩ → s.stageBus stage = some b → b.fleet = some fleet →
        exec (.advanceTimeout stage) s =
          .next (Claims.stopped ((s.setStage stage .fault none).raise .washStageTimeout fleet))) ∧
      (∀ fleet, s.wash.called = some fleet → s.wash.callTimer = some e → exec .entryCallTimeout s =
        .next (Claims.stopped ((s.setWash { s.wash with called := none, callTimer := none }).raise .washStageTimeout
          fleet)).settleWash)) ∧
  ((∀ (s : State) (stage : Nat), Claims.stageShows s stage true → s.stageBus stage = none →
        (stage = 1 → s.wash.called = none) →
        (2 ≤ stage → s.stageState (stage - 1) ≠ .leaving ∧ s.stageState (stage - 1) ≠ .fault ∨ s.stageBus (stage - 1) = none) →
        exec (.stageDetectorChange stage true) s =
          .next (Claims.stopped ((s.setStageDetector stage true).setStage stage .fault none)).settleWash) ∧
    (∀ s : State,
        (s.active = true → s.cfg.washLane = true →
          exec .stopInputAsserted s = .next (Claims.stopped (s.setInputs { s.inputs with stop := true }))) ∧
        (s.active = false ∨ s.cfg.washLane = false →
          exec .stopInputAsserted s = .next (s.setInputs { s.inputs with stop := true })) ∧
        exec .stopInputCleared s = .next (s.setInputs { s.inputs with stop := false })))

/-- The wash lane under a new temperature: the frost flag set below the threshold, FROST_HOLD entered from normal
operation with its alert (R50, R60). -/
def Sys2Proof.Claims.frosted (frost : Bool) (clearing : Option Nat) (s : State) : State :=
  if s.wash.mode = .normal ∧ frost then
    (s.setWash { s.wash with frost := frost, clearing := clearing, mode := .frostHold }).raise .frostHold 0
  else s.setWash { s.wash with frost := frost, clearing := clearing }

/-- The frost flag and its clearing timer of 10 min: set below the threshold, timed from two degrees above it on while
set, stopped below that; its expiry clears the flag and ends FROST_HOLD. In LOADING and CONFIG_FAULT, and without the wash lane, the
temperature is the input's alone (R43, R50, R60, R200; the tests that follow are in the MODEL's order, log 7). -/
def Obligations.FrostFlagFollowsTheTemperature : Prop :=
  (∀ (s : State) (d : Int), s.active = false ∨ s.cfg.washLane = false →
    exec (.temperatureReading d) s = .next (s.setInputs { s.inputs with temperature := d })) ∧
  ∀ (s : State) (d : Int), s.active = true → s.cfg.washLane = true →
    let t := s.setInputs { s.inputs with temperature := d }
    (d < s.cfg.frostThreshold → exec (.temperatureReading d) s = .next (Claims.frosted true none t).settleWash) ∧
    (s.cfg.frostThreshold ≤ d → d < s.cfg.frostThreshold + 2 →
      exec (.temperatureReading d) s = .next (Claims.frosted s.wash.frost none t).settleWash) ∧
    (s.cfg.frostThreshold + 2 ≤ d → s.wash.frost = true → exec (.temperatureReading d) s =
      .next (Claims.frosted true (some (s.wash.clearing.getD (s.now + 600))) t).settleWash) ∧
    (s.cfg.frostThreshold + 2 ≤ d → s.wash.frost = false →
      exec (.temperatureReading d) s = .next (Claims.frosted false none t).settleWash) ∧
    (∀ e, s.wash.clearing = some e → e ≤ s.now →
      let mode := if s.wash.mode = .frostHold then .normal else s.wash.mode
      exec .frostClearExpiry s =
        .next (s.setWash { s.wash with frost := false, clearing := none, mode := mode }).settleWash)

/-- A stage resumed: SPINUP with its timer in full, or DWELL at once with a spin-up time of 0; LEAVING with its timeout
in full (R63). -/
def Sys2Proof.Claims.resumed (s : State) (stage : Nat) (st : Stage) : Stage :=
  let t := s.stageTimes stage
  match st.state with
  | .spinup => if t.spinup = 0 then ⟨.dwell, some (s.now + t.dwell)⟩ else ⟨.spinup, some (s.now + t.spinup)⟩
  | .leaving => ⟨.leaving, some (s.now + s.cfg.advanceTimeout)⟩
  | _ => st

/-- WASH_SKIP: the queued record goes to the apron unwashed; REFUSED for one that is not QUEUED, is the called record,
or finds no room; NOT_FOUND without a record (R64). WASH_RESUME: NOT_FOUND without a wash lane; DONE and no effect outside
STOPPED; REFUSED while a stage is FAULT or the stop input is asserted; else the lane runs on, every stage resumed and the held
call timed in full (R63). That the tests and their frames come before the ANSWER is the MODEL's choice (log 7). -/
def Obligations.WashSkipAndResume : Prop :=
  (∀ (s : State) (sender tag fleet : Nat), Claims.ordered s sender tag → 1 ≤ fleet → fleet ≤ 9999 →
      let room := s.wash.apron.length + (if s.wash.promised then 1 else 0) < 4
      (s.busOf fleet = none →
        exec (.washSkip sender tag (be16 fleet)) s = .next (Claims.answered sender tag .notFound s.frameEnded)) ∧
      (∀ b, s.busOf fleet = some b → (b.place ≠ .queued ∨ s.wash.called = some fleet ∨ ¬ room) →
        exec (.washSkip sender tag (be16 fleet)) s = .next (Claims.answered sender tag .refused s.frameEnded)) ∧
      (∀ b, s.busOf fleet = some b → b.place = .queued → s.wash.called ≠ some fleet → room →
        exec (.washSkip sender tag (be16 fleet)) s = .next (Claims.answered sender tag .done
          (((s.frameEnded.updateBus b.id (fun x => { x with place := .apron false none, washed := false })).setWash
            { s.wash with apron := s.wash.apron ++ [fleet] }).settle s.frameEnded [])))) ∧
  (∀ (s : State) (sender tag : Nat), Claims.ordered s sender tag →
      let blocked := s.inputs.stop = true ∨ ∃ st ∈ s.wash.stages, st.state = .fault
      (s.cfg.washLane = false →
        exec (.washResume sender tag []) s = .next (Claims.answered sender tag .notFound s.frameEnded)) ∧
      (s.cfg.washLane = true → s.wash.mode ≠ .stopped →
        exec (.washResume sender tag []) s = .next (Claims.answered sender tag .done s.frameEnded)) ∧
      (s.cfg.washLane = true → s.wash.mode = .stopped → blocked →
        exec (.washResume sender tag []) s = .next (Claims.answered sender tag .refused s.frameEnded)) ∧
      (s.cfg.washLane = true → s.wash.mode = .stopped → ¬ blocked → ∃ stages : List Stage,
        (∀ i, i < s.cfg.stageCount → stages[i]? = (s.wash.stages[i]?).map (Claims.resumed s (i + 1))) ∧
        let timer := if s.wash.called.isSome then some (s.now + s.cfg.advanceTimeout) else none
        let t := s.frameEnded.setWash { s.wash with mode := .normal, stages := stages, callTimer := timer }
        exec (.washResume sender tag []) s = .next (Claims.answered sender tag .done
          (Claims.frosted s.wash.frost s.wash.clearing t).settleWash)))

/-- The node drives its signals, links and equipment by its records: in LISTEN, RUN and MUTE, the reset line not held (R129,
R177, R200, R202). -/
def Sys2Proof.Claims.outputsOn (s : State) : Prop :=
  (s.node.state = .listen ∨ s.node.state = .run ∨ s.node.state = .mute) ∧ s.node.resetLine = .released

/-- The onward place of a stage is free: for the last stage room on the apron, for another the next stage EMPTY or in its
run-on with its detector clear (R48, R52, R55). -/
def Sys2Proof.Claims.onward (s : State) (k : Nat) : Prop :=
  if k = s.stageCount then s.wash.apron.length + (if s.wash.promised then 1 else 0) < 4
  else (s.stageState (k + 1) = .empty ∨ s.stageState (k + 1) = .runon) ∧ s.stageDetector (k + 1) = false

/-- The tests of the wash lane. Its stages are tested from the last to the first, so that the apron's room goes to the last
stage before the spill; the spill moves queue heads to the apron unwashed, in FROST_HOLD and while there is room; last comes
the entry call. A stage in DONE_WAIT whose onward place is free signals its bus on, the last stage with a promise of its apron
place; the head of the queue is called, in IDLE or RUNNING, when stage 1 is free and no call stands; and the head is the
queued record of the latest departure, of the earliest arrival among equals (R47, R49, R53, R55, R61; that the three tests
are made in this order at every command is the MODEL's, log 7). The lane's outputs follow from this: out of STOPPED, the entry
signal is green while a call stands, a stage's signal in LEAVING, and its equipment runs while it washes, waits, is left or
runs on; all else is red and stopped (R51, R202). -/
def Obligations.WashTestsServeTheLane : Prop :=
  (∀ s : State,
    let room := s.wash.apron.length + (if s.wash.promised then 1 else 0) < 4
    let callable := s.wash.mode = .normal ∧ (s.stageState 1 = .empty ∨ s.stageState 1 = .runon) ∧
      s.stageDetector 1 = false ∧ s.wash.called = none
    let waits := fun (b : Bus) => b ∈ s.buses.records ∧ b.place = .queued ∧ b.fleet ≠ s.wash.called
    (s.active = true → s.cfg.washLane = true → s.wash.mode ≠ .stopped →
      s.washTests = ((s.testStages s.stageCount).spill 4).testEntryCall) ∧
    (s.active = false ∨ s.cfg.washLane = false ∨ s.wash.mode = .stopped → s.washTests = s) ∧
    (∀ k, s.testStages (k + 1) = (s.testOnward (k + 1)).testStages k) ∧
    (∀ k, s.stageState k = .doneWait → Claims.onward s k →
      let t := s.setStage k .leaving (some (s.now + s.cfg.advanceTimeout))
      s.testOnward k = if k = s.stageCount then t.setWash { t.wash with promised := true } else t) ∧
    (∀ k, s.stageState k ≠ .doneWait ∨ ¬ Claims.onward s k → s.testOnward k = s) ∧
    ((∀ b rest fleet k, s.wash.mode = .frostHold → room → s.washQueue = b :: rest → b.fleet = some fleet →
        s.spill (k + 1) = State.spill k ((s.updateBus b.id (fun x => { x with place := .apron false none, washed := false })).setWash
          { s.wash with apron := s.wash.apron ++ [fleet] })) ∧
      (∀ k, s.wash.mode ≠ .frostHold ∨ ¬ room ∨ s.washQueue = [] → s.spill k = s)) ∧
    ((∀ b rest, callable → s.washQueue = b :: rest → s.testEntryCall =
        s.setWash { s.wash with called := b.fleet, callTimer := some (s.now + s.cfg.advanceTimeout) }) ∧
      (¬ callable ∨ s.washQueue = [] → s.testEntryCall = s)) ∧
    ((s.washQueue = [] ↔ ∀ b, ¬ waits b) ∧
      (∀ b rest, s.washQueue = b :: rest → waits b ∧ (∀ x, waits x →
        s.busService x < s.busService b ∨ s.busService x = s.busService b ∧ b.seq ≤ x.seq)))) ∧
  ∀ (s : State) (k : Nat), 1 ≤ k →
    let lit := Claims.outputsOn s ∧ s.wash.mode ≠ .stopped
    let stageIs := fun (st : StageState) => ∃ timer, s.wash.stages[k - 1]? = some ⟨st, timer⟩
    (s.entrySignal = true ↔ lit ∧ ∃ fleet, s.wash.called = some fleet) ∧
    (s.stageSignal k = true ↔ lit ∧ stageIs .leaving) ∧
    (s.equipmentRuns k = true ↔
      lit ∧ (stageIs .spinup ∨ stageIs .dwell ∨ stageIs .doneWait ∨ stageIs .leaving ∨ stageIs .runon))

/-! ### Berth allocation (R68 to R82) -/

/-- A call evaluated that no record here and no full table stands against: the older offer to its caller is dropped; the best
lane, where one fits, is held for it, and offered (R71, R73). -/
def Sys2Proof.Claims.offered (caller : Nat) (c : Call) (s : State) : State :=
  let t := s.dropOffer caller
  match t.bestLane (t.callNeed caller c) none with
  | none => t
  | some (cost, lane) =>
    let u := t.updateLane lane (fun l => { l with holds := l.holds ++ [⟨caller, c.seq⟩] })
    let record : OfferRecord := ⟨caller, c, lane, cost, false, none, s.now + s.cfg.offerWindow⟩
    (u.setAlloc { t.alloc with offers := t.alloc.offers ++ [record] }).send (.offer caller c.seq cost)

/-- A PARK_CALL made for an apron record, the next in sequence and the `count`th of its series, and taken as heard from
itself: this node offers for it too, the record of its bus on the apron, and a full bus table, being no bar (R68, R71, R73). -/
def Sys2Proof.Claims.calls (b : Bus) (fleet count : Nat) (s : State) : State :=
  let c : Call := ⟨(s.alloc.seq + 1) % 256, fleet, b.cls, b.route, b.pullOut, b.washed⟩
  let timer := s.now + s.cfg.offerWindow + s.cfg.takeWait
  Claims.offered s.cfg.station c
    ((s.setAlloc { s.alloc with seq := c.seq, caller := .calling c count timer }).send (.parkCall c))

/-- The call test starts a series, in RUN with the caller IDLE, for the oldest record of the apron list that is eligible: not
unplaced, or with its retry run out; each call of it is priced and offered for at home, with a hold on the best lane of this
node and an OFFER. The caller's timers: a call without a TAKE is followed by the next of the series, the
third ends it with NO_BERTH and a retry in 5 min; a series whose record has left the apron ends at its timer, with NO_BERTH
after the third call alone (the MODEL's choice, log 43); an expired retry makes the record eligible again; the end of the take
wait ends the call (R68, R69, R71, R73, R78). -/
def Obligations.CallsAreStartedAndRenewed : Prop :=
  (∀ s : State,
    let eligible := fun (f : Nat) (b : Bus) => s.busOf f = some b ∧ ∃ u retry, b.place = .apron u retry ∧ (u = false ∨ retry = none)
    (∀ pre f post b, s.inRun = true → s.alloc.caller = .idle → s.wash.apron = pre ++ f :: post →
      (∀ g ∈ pre, ∀ x, ¬ eligible g x) → eligible f b → s.callTest = Claims.calls b f 1 s) ∧
    (s.inRun = false ∨ s.alloc.caller ≠ .idle ∨ (∀ f ∈ s.wash.apron, ∀ b, ¬ eligible f b) → s.callTest = s)) ∧
  (∀ (s : State) (b : Bus) (c : Call) (count timer e : Nat) (unplaced : Bool) (retry : Option Nat),
    s.busOf c.fleet = some b → timer ≤ s.now → e ≤ s.now →
    (s.alloc.caller = .calling c count timer → b.place = .apron unplaced retry → count < 3 →
      exec .callTimerExpiry s = .next (Claims.calls b c.fleet (count + 1) s)) ∧
    (s.alloc.caller = .calling c count timer → b.place = .apron unplaced retry → 3 ≤ count →
      let t := (s.raise .noBerth c.fleet).updateBus b.id (fun x => { x with place := .apron true (some (s.now + 300)) })
      exec .callTimerExpiry s = .next (t.setAlloc { t.alloc with caller := .idle }).settleWash) ∧
    (b.place = .apron unplaced (some e) → exec (.unplacedRetryExpiry c.fleet) s =
      .next (s.updateBus b.id (fun x => { x with place := .apron unplaced none })).settleWash)) ∧
  (∀ (s : State) (c : Call) (count timer : Nat) (best : HeardTake), s.alloc.caller = .taken c count best timer → timer ≤ s.now →
    exec .takeWaitExpiry s = .next (s.setAlloc { s.alloc with caller := .idle }).settleWash) ∧
  (∀ (s : State) (c : Call) (count timer : Nat), s.alloc.caller = .calling c count timer → timer ≤ s.now →
    (∀ b, s.busOf c.fleet = some b → b.isApron = false) →
    let told := if count < 3 then s else s.raise .noBerth c.fleet
    exec .callTimerExpiry s = .next (told.setAlloc { told.alloc with caller := .idle }).settleWash)

/-- A notice of this station number is taken and accepted (R181, R184, R192). -/
def Sys2Proof.Claims.heardFrom (s : State) (sender : Nat) : Prop :=
  Claims.hearing s ∧ sender ≤ 31 ∧ sender ≠ s.cfg.station

/-- An open offer record is dropped with its hold and with no TAKE; where there is none, nothing is done (R70, R73).
A PARK_CALL heard in RUN: the older offer to that caller is dropped so; no offer is made for a fleet with
a record here, with a full bus table or with no fitting lane; else the best lane is held and offered (R71, R73). -/
def Obligations.ParkCallIsOfferedTheBestLane : Prop :=
  (∀ (s : State) (caller : Nat),
    ((∀ o ∈ s.alloc.offers, o.caller ≠ caller) → s.dropOffer caller = s) ∧
    (∀ pre o post, s.alloc.offers = pre ++ o :: post → (∀ x ∈ pre, x.caller ≠ caller) → o.caller = caller →
      s.dropOffer caller =
        (s.updateLane o.lane (fun l => { l with holds := removeFirst (fun h => h == ⟨caller, o.call.seq⟩) l.holds })).setAlloc
          { s.alloc with offers := s.alloc.offers.filter (fun x => x.caller != caller) })) ∧
  ∀ (s : State) (sender : Nat) (c : Call), Claims.heardFrom s sender → s.inRun = true → c.seq ≤ 255 →
    1 ≤ c.fleet → c.fleet ≤ 9999 → (∀ r, c.route = some r → r ≤ 255) → (∀ m, c.pullOut = some m → m ≤ 1439) →
    let heard := exec (.parkCall sender c.seq c.fleet c.cls c.route c.pullOut c.washed) s
    let t := s.frameEnded.dropOffer sender
    (((s.busOf c.fleet).isSome = true ∨ 64 ≤ s.buses.records.length) → heard = .next t) ∧
    (s.busOf c.fleet = none → s.buses.records.length < 64 → heard = .next (Claims.offered sender c s.frameEnded))

/-- The price of a lane (R72): 500 when empty, else the block term and the difference term of the neighbour. -/
def Sys2Proof.Claims.price (kind : LaneKind) (v w : Int) : Int :=
  let block := match kind with | .deadEnd => max 0 (v - w) | .through => max 0 (w - v)
  (if 0 < block then 1000 + min block 999 else 0) + min |v - w| 999

/-- The allowance of a called bus: for the node's own call that of the record's run; for a peer's that of the lowest-numbered
run here that is PENDING or MINE and names the fleet (R71). -/
def Sys2Proof.Claims.allowed (s : State) (caller : Nat) (c : Call) (allowance : Nat) : Prop :=
  let wants := fun (r : Run) => r ∈ s.runs.runs ∧ r.demand = .fleet c.fleet ∧ (r.state = .pending ∨ r.state = .mine)
  if caller = s.cfg.station ∧ (s.busOf c.fleet).isSome = true
  then ∃ b n r, s.busOf c.fleet = some b ∧ b.run = some n ∧ s.runOf n = some r ∧ r.allowance = allowance
  else ∃ r, wants r ∧ (∀ q, wants q → r.run ≤ q.run) ∧ r.allowance = allowance

/-- The lane chosen for a bus is a fitting one of least cost, the lowest-numbered at that cost; there is none exactly
when no lane fits; a lane fits when it is READY, takes the class and the route, has room, and is charged or need not be; a
call brings its class, route and service value, and needs a charged lane but with an allowance of 6 000; and a lane's cost is
that of the table, between 0 and 2 998 (R6 to R8, R71, R72). A service value counts minutes from the day change, and that of a
record without a pull-out is the spare ready minute's (R36). -/
def Obligations.BestLaneIsTheCheapestFit : Prop :=
  ∀ (s : State) (n : Need),
    (s.bestLane n none = none ↔ ∀ l ∈ s.lanes, s.laneFits l n = false) ∧
    (∀ cost lane, s.bestLane n none = some (cost, lane) →
      (∃ l ∈ s.lanes, l.number = lane ∧ s.laneFits l n = true ∧ s.laneCost l n.service = cost) ∧
      (∀ l ∈ s.lanes, s.laneFits l n = true → cost < s.laneCost l n.service ∨
        (cost = s.laneCost l n.service ∧ lane ≤ l.number))) ∧
    (∀ m : Nat, (s.service m : Int) = ((m : Int) - s.cfg.dayChange) % 1440) ∧
    (∀ b : Bus, s.busService b = s.service (match b.pullOut with | some m => m | none => s.cfg.spareReady)) ∧
    (∀ l, s.laneCost l n.service ≤ 2998) ∧
    (∀ l, s.occupiedPositions l = [] → s.laneCost l n.service = 500) ∧
    (∀ l p b, s.entryMost l = some p → s.occupant l.number p = some b →
      (s.laneCost l n.service : Int) = Claims.price l.kind n.service (s.busService b)) ∧
    (∀ l, s.laneFits l n = true ↔ l.closed = false ∧ l.suspect = false ∧
      (match n.cls with | .midi => l.conf.classes.midi | .standard => l.conf.classes.standard | .artic => l.conf.classes.artic) = true ∧
      (∀ base span, l.conf.window = some (base, span) → ∃ r, n.route = some r ∧ (r = 255 ∨ base ≤ r ∧ r < base + span)) ∧
      l.reservations.length + l.holds.length < s.entryRoom l ∧ (l.conf.charged = true ∨ n.charge = false)) ∧
    ((s.runs.runs.map (·.run)).Pairwise (· < ·) → ∀ caller c,
      let need := s.callNeed caller c
      need.cls = c.cls ∧ need.route = c.route ∧ need.service = s.service (c.pullOut.getD s.cfg.spareReady) ∧
        (need.charge = false ↔ Claims.allowed s caller c 6000))

/-- An offer record goes, its hold released, and no TAKE is sent (R75, R76). -/
def Sys2Proof.Claims.unheld (o : OfferRecord) (s : State) : State :=
  s.updateLane o.lane (fun l => { l with holds := removeFirst (fun x => x == ⟨o.caller, o.call.seq⟩) l.holds })

/-- A TAKE is queued, the hold made a TRANSIT reservation (R8, R76). -/
def Sys2Proof.Claims.taken (o : OfferRecord) (s : State) : State :=
  ((Claims.unheld o s).updateLane o.lane (fun l => { l with reservations := l.reservations ++ [⟨.transit, o.call.fleet⟩] })).send
    (.take o.caller o.call.seq o.lane o.cost)

/-- The caller after a TAKE for its current call: the first is taken, and the take wait begun; a better one replaces it while
that wait runs; the display shows the one taken (R78, R79). -/
def Sys2Proof.Claims.shown (station seq lane cost : Nat) (s : State) : State :=
  let with_ := fun (c : Call) (count timer : Nat) => s.setAlloc { s.alloc with
    caller := .taken c count ⟨station, lane, cost⟩ timer, display := some ⟨c.fleet, station, lane⟩ }
  match s.alloc.caller with
  | .calling c count _ => if c.seq = seq then with_ c count (s.now + s.cfg.takeWait) else s
  | .taken c count best timer =>
    if c.seq = seq ∧ (cost < best.cost ∨ cost = best.cost ∧ station < best.station) then with_ c count timer else s
  | .idle => s

/-- The end of an offer window: lost when withdrawn or when a better offer was heard; else the Bus Table decides. A call of a
fleet with no record here is won with a TRANSIT record made from the call, this node's own call too, whose record a peer's
TAKE has deleted; it is given up for a full table, or for a record of the fleet off the apron. With the record on the apron the
call is won with that record, which leaves the apron list for TRANSIT. The TAKE of this node's own call is applied at home
(R8, R32, R33, R75, R76, R78; that a peer's call moves a record on this node's apron too is the MODEL's reading, log 11).
The fields of a record made are those of R28 and R32, its class and washed flag the call's (its handle the MODEL's, log 5). -/
def Obligations.OfferWindowJudgesTheCall : Prop :=
  ∀ (s : State) (o : OfferRecord) (caller : Nat), s.offerOf caller = some o → o.window ≤ s.now →
    let gone := s.setAlloc { s.alloc with offers := s.alloc.offers.filter (fun x => x.caller != caller) }
    let lost := o.withdrawn = true ∨
      ∃ cost station, o.best = some (cost, station) ∧ (cost < o.cost ∨ cost = o.cost ∧ station < s.cfg.station)
    let place : Place := .transit o.lane s.now false (some ⟨o.caller, o.call.seq, o.cost, some (s.now + s.cfg.offerWindow + s.cfg.takeWait)⟩)
    let takes := fun (t : State) => exec (.offerWindowExpiry caller) s = .next (State.settle
      (if caller = s.cfg.station then Claims.shown s.cfg.station o.call.seq o.lane o.cost (Claims.taken o t) else Claims.taken o t)
      s [])
    (lost → exec (.offerWindowExpiry caller) s = .next ((Claims.unheld o gone).settle s [])) ∧
    (¬ lost → s.busOf o.call.fleet = none → s.buses.records.length < 64 →
      takes (Claims.created (some o.call.fleet) .named o.call.cls place o.call.washed gone)) ∧
    (¬ lost → s.busOf o.call.fleet = none → 64 ≤ s.buses.records.length → exec (.offerWindowExpiry caller) s =
      .next ((Claims.unheld o (gone.raise .busTableFull o.call.fleet)).settle s [])) ∧
    (∀ b, ¬ lost → s.busOf o.call.fleet = some b → b.isApron = false →
      exec (.offerWindowExpiry caller) s = .next ((Claims.unheld o gone).settle s [])) ∧
    (∀ b, ¬ lost → s.busOf o.call.fleet = some b → b.isApron = true →
      takes ((gone.setWash { s.wash with apron := s.wash.apron.filter (fun f => f != o.call.fleet) }).updateBus b.id
        (fun x => { x with place := place })))

/-- The best offer heard after one more (R74). -/
def Sys2Proof.Claims.better (cost station : Nat) : Option (Nat × Nat) → Option (Nat × Nat)
  | none => some (cost, station)
  | some (c, t) => if cost < c ∨ cost = c ∧ station < t then some (cost, station) else some (c, t)

/-- The offer records after an OFFER or a TAKE for a call (R74). -/
def Sys2Proof.Claims.collected (sender caller seq cost : Nat) (s : State) : State :=
  s.setAlloc { s.alloc with offers := s.alloc.offers.map (fun o => if o.caller = caller ∧ o.call.seq = seq then { o with best := Claims.better cost sender o.best } else o) }

/-- What a TAKE heard does to the takes that this node has sent for the same call and whose watch runs: where it is the
better, the record in TRANSIT is deleted, and a bus that has come already is told by FOUND (R77; that such a take is
remembered is the MODEL's, log 12). -/
def Sys2Proof.Claims.yielded (sender caller seq cost : Nat) (s : State) : State :=
  let beaten := fun (x : SentTake) => decide (x.caller = caller ∧ x.seq = seq ∧ x.watch.isSome = true ∧
    (cost < x.cost ∨ cost = x.cost ∧ sender < s.cfg.station))
  let lost := s.buses.records.filter (fun b =>
    match b.place with | .transit _ _ _ (some x) => beaten x | _ => false)
  let t := lost.foldl (fun t b => t.deleteBus b.id) s
  (t.alloc.arrived.filter (fun a => beaten a.sent)).foldl (fun t a =>
    match (t.busOf a.fleet).bind Bus.berth? with | some (lane, _) => t.send (.found a.fleet lane) | none => t) t

/-- OFFER and TAKE heard in RUN are collected by the open offer record of their call, and a TAKE is held against the takes
this node has sent. A TAKE for this node's current call is shown on the display: the first deletes the called record and
starts the take wait, a better one replaces it while that runs (R74, R77 to R79). -/
def Obligations.OffersAndTakesAreCollected : Prop :=
  ∀ (s : State) (sender caller seq lane cost : Nat), Claims.heardFrom s sender → s.inRun = true → 1 ≤ caller →
    caller ≤ 31 → seq ≤ 255 → 1 ≤ lane → lane ≤ 8 → cost ≤ 4094 →
    let t := Claims.collected sender caller seq cost s.frameEnded
    let v := Claims.yielded sender caller seq cost t
    let u := Claims.shown sender seq lane cost v
    let takes := fun (x : State) => exec (.take sender caller seq lane cost) s = .next (x.settle s.frameEnded [])
    exec (.offer sender caller seq cost) s = .next t ∧
    (caller ≠ s.cfg.station → takes v) ∧
    (caller = s.cfg.station →
      ((∀ c count timer, v.alloc.caller = .calling c count timer → c.seq ≠ seq) → takes u) ∧
      (∀ c count timer, v.alloc.caller = .calling c count timer → c.seq = seq →
        (∀ b, v.busOf c.fleet = some b → b.isApron = true → takes (u.deleteBus b.id)) ∧
        ((∀ b, v.busOf c.fleet = some b → b.isApron = false) → takes u)))

/-- What the other blocks give up with a record that is deleted: the Wash Sequencer its place there, a lane the reservation
of its transit, the Departure Controller its shunt order with the reservation of that. The deletion of a record in release has
a statement of its own (R34). -/
def Sys2Proof.Claims.cleared (b : Bus) (fleet : Nat) (s : State) : State :=
  match b.place with
  | .transit lane _ lost _ => if lost then s else Claims.unreserved lane ⟨.transit, fleet⟩ s
  | .shunting _ _ | .shuntingBetween =>
    match s.shuntOf fleet with
    | some o => Claims.unshunted fleet (Claims.unreserved o.target ⟨.shunt, fleet⟩ s)
    | none => s
  | _ => Claims.outOfWash b fleet s

/-- What the Run List does for run `n` whose record is deleted: MINE becomes PENDING, its claim withdrawn in RUN where a class
is wanted; LATE loses the own mark; any other state stands (R34, R150, R167). -/
def Sys2Proof.Claims.orphaned (n fleet : Nat) (s : State) : State :=
  match s.runOf n with
  | some r =>
    let t := s.updateRun n (fun x => { x with state := .pending, claim := none })
    if r.state = .mine then (if r.isWildcard ∧ s.inRun then t.send (.claim n fleet 4095) else t)
    else if r.state = .late then s.updateRun n (fun x => { x with ownMark := false })
    else s
  | none => s

/-- What ends a transit: the end of the take watch leaves the record, the transit timeout deletes it with MISPARK, a
FOUND deletes it without an alert. A FOUND of a bus on the apron deletes it and ends a call for it; one of any other bus has
no effect (R70, R77, R81, R82; that a take whose bus has come is forgotten with its watch is the MODEL's, log 12). A record
deleted leaves the table and its place, and its run is told (R34). -/
def Obligations.TransitEndsByTimeoutOrFound : Prop :=
  (∀ (s : State) (b : Bus) (fleet : Nat), s.buses.records.find? (fun x => x.id == b.id) = some b → b.fleet = some fleet →
    (b.isReleased = true → ∀ rel, s.departures.release = some rel → rel.fleet ≠ fleet) →
    let t := Claims.cleared b fleet (Claims.removed b.id s)
    (b.run = none → s.deleteBus b.id = t) ∧ (∀ n, b.run = some n → s.deleteBus b.id = Claims.orphaned n fleet t)) ∧
  ∀ (s : State) (b : Bus) (fleet : Nat), s.busOf fleet = some b →
    (∀ lane start lost take e, b.place = .transit lane start lost (some take) → take.watch = some e → e ≤ s.now →
      let watches := fun (a : ArrivedTake) => a.fleet != fleet ||
        (match a.sent.watch with | some e => decide (s.now < e) | none => true)
      exec (.takeWatchExpiry fleet) s = .next ((s.setAlloc { s.alloc with arrived := s.alloc.arrived.filter watches }).updateBus
        b.id (fun x => { x with place := .transit lane start lost (some { take with watch := none }) }))) ∧
    (∀ lane start lost take, b.place = .transit lane start lost take → s.active = true →
      start + s.cfg.transitTimeout * 60 ≤ s.now →
      exec (.transitTimeout fleet) s = .next (((s.deleteBus b.id).raise .mispark fleet).settle s [])) ∧
    (∀ sender number, Claims.heardFrom s sender → 1 ≤ fleet → fleet ≤ 9999 → 1 ≤ number → number ≤ 8 →
      let u := s.frameEnded
      let called := b.isApron = true ∧ ∃ c count timer, s.alloc.caller = .calling c count timer ∧ c.fleet = fleet
      let found := fun (t : State) => exec (.found sender fleet number) s = .next (t.settle u [])
      (called → found (((u.setAlloc { u.alloc with caller := .idle }).dropOffer s.cfg.station).deleteBus b.id)) ∧
      (¬ called → b.isApron = true ∨ b.isTransit = true → found (u.deleteBus b.id)) ∧
      (b.isTransit = false → b.isApron = false → found u))

/-! ### Chargers (R98, R100, R101, R106 to R112, R120 to R128) -/

/-- The need of the record at a charger's berth changed, when one stands there (R108, R112). -/
def Sys2Proof.Claims.needs (c : Charger) (f : Option Nat → Option Nat) (s : State) : State :=
  match s.occupant c.lane c.pos with
  | some b => s.updateBus b.id (fun x => { x with need := f x.need })
  | none => s

/-- A charger that draws nothing and is to draw nothing (R107). -/
def Sys2Proof.Claims.dead (c : Charger) : Charger := { c with target := 0, planned := 0, present := 0, ramp := none }

/-- A charger whose target is cut to `v`: the present falls with it, and a ramp that has arrived stops (R107, R128). -/
def Sys2Proof.Claims.lowered (v : Nat) (c : Charger) : Charger :=
  { c with target := v, present := min c.present v, ramp := if c.present < v then c.ramp else none }

/-- A charger at a turn boundary. A claimant takes its planned target and its figures, its target cut at once where it lies
above; another is planned 0, and has no figures (R100, R121, R127). -/
def Sys2Proof.Claims.planned (plan : List Claimant) (c : Charger) : Charger :=
  match plan.find? (fun x => x.charger.berth == c.berth) with
  | some x => { (if x.power < c.target then Claims.lowered x.power c else c) with planned := x.power, figures := some x.figures }
  | none => { Claims.lowered 0 c with planned := 0, figures := none }

/-- A charger after a connection report of need `n` (R106, R108). -/
def Sys2Proof.Claims.connected (n now settle : Nat) (c : Charger) : Charger :=
  let told := { c with statusAsked := false, session := some n }
  match c.phase with
  | .idle => { told with connectedAt := some now, phase := .settling (now + settle) }
  | .connected => if n = 0 then Claims.dead told else told
  | _ => told

/-- The charger's link reports: a connection sets the needs and starts the settle time from IDLE, and is ignored in
FAULT; a disconnect ends the session; a fault ends the draw with CHARGER_FAULT, once (R108, R110, R111). Meter pulses, the end
of a charger's settle time, and its ramp: a pulse takes one off the needs, and a connected charger whose need comes to 0 is
FULL; each ramp step raises the present towards the target (R109, R112, R128). In LOADING and CONFIG_FAULT no report of a link
is taken, nor one for a berth without a charger (R129). -/
def Obligations.ChargersFollowTheirLinksAndTimers : Prop :=
  (∀ (s : State) (berth energy : Nat), s.active = false ∨ s.chargerOf berth = none →
      exec (.connectionReport berth energy) s = .next s ∧ exec (.disconnectReport berth) s = .next s ∧
      exec (.faultReport berth) s = .next s ∧ exec (.meterPulse berth) s = .next s) ∧
  (∀ (s : State) (c : Charger) (berth energy : Nat), s.active = true → s.chargerOf berth = some c →
      let n := min energy 6000
      let told := s.updateCharger berth (fun x => { x with statusAsked := false })
      let left := fun (t : State) => t.setCharging { t.charging with order := s.charging.order.filter (fun b => b != berth) }
      (c.phase = .fault → exec (.connectionReport berth energy) s = .next told ∧ exec (.faultReport berth) s = .next told) ∧
      (c.phase ≠ .fault →
        exec (.connectionReport berth energy) s = .next ((Claims.needs c (fun _ => some n)
          (s.updateCharger berth (Claims.connected n s.now s.cfg.chargerSettle))).settle s []) ∧
        exec (.faultReport berth) s = .next ((left (s.updateCharger berth
          (fun x => { Claims.dead x with statusAsked := false, phase := .fault }))).raise .chargerFault berth)) ∧
      (c.phase = .idle → exec (.disconnectReport berth) s = .next told) ∧
      (c.phase ≠ .idle → exec (.disconnectReport berth) s = .next (left (s.updateCharger berth
        (fun x => { Claims.dead x with statusAsked := false, session := none, connectedAt := none, phase := .idle, turnAge := 0 }))))) ∧
  (∀ (s : State) (c : Charger) (berth e : Nat), s.active = true → s.chargerOf berth = some c →
      let need := match s.occupant c.lane c.pos with | some b => b.need | none => c.session
      let off := fun (n : Option Nat) => n.map (fun x => x - 1)
      let counted := Claims.needs c off (s.updateCharger berth (fun x => { x with session := off c.session }))
      (c.phase = .idle → exec (.meterPulse berth) s = .next s) ∧
      (c.phase = .connected → need = some 0 ∨ need = some 1 →
        exec (.meterPulse berth) s = .next ((counted.updateCharger berth Claims.dead).settle s [])) ∧
      ((∃ e, c.phase = .settling e) ∨ c.phase = .fault ∨ (c.phase = .connected ∧ need ≠ some 0 ∧ need ≠ some 1) →
        exec (.meterPulse berth) s = .next (counted.settle s [])) ∧
      (c.phase = .settling e → e ≤ s.now → exec (.chargerSettleExpiry berth) s =
        .next (s.updateCharger berth (fun x => { x with phase := .connected }))) ∧
      (c.ramp = some e → e ≤ s.now → exec (.rampTimerExpiry berth) s = .next (s.updateCharger berth (fun x =>
        let present := min x.target (x.present + s.cfg.rampStep)
        { x with present := present, ramp := if present < x.target then some (s.now + s.cfg.rampInterval) else none }))))

/-- The grants of the three groups set (R97). -/
def Sys2Proof.Claims.granted (figure : Group → Nat) (s : State) : State :=
  s.setFeeders { s.feeders with groups := groupMake (fun g => { groupGet s.feeders.groups g with grant := figure g }) }

/-- A turn boundary: each grant its available figure, each charger as the allotment plans it, the allocation order kept and the
next boundary timed, a DRAW queued, and the plan held for 2 s (R100, R120, R127). -/
def Sys2Proof.Claims.turned (s : State) : State :=
  let plan := allot (groupMake s.available) s.claimants
  let next := s.now + s.cfg.turnTick * 2 ^ s.cfg.turnExponent
  let t := (Claims.granted s.available s).setCharging
    ⟨s.charging.chargers.map (Claims.planned plan), plan.map (fun x => x.charger.berth), some next⟩
  let u := t.send (.draw (groupMake t.committed) (groupMake t.plannedTotal))
  u.setFeeders { u.feeders with planHold := some (s.now + 2) }

/-- A turn boundary in RUN: each grant is its available figure, the claimants are allotted against the grants, planned
targets below the targets lower them at once, a DRAW is queued, and the plan is held for 2 s; the next boundary comes after a
turn period. At the end of a hold the grants are the figures as they now stand, each plan is cut to its grant, which has a
statement of its own, every charger takes its planned target, a raised one with its ramp timer at the full interval, and the
turn ages are set (R100, R101, R120, R127, R128; log 14, 21; that a ramp timer which runs already starts anew is the MODEL's
choice, log 36). -/
def Obligations.TurnBoundaryAndPlanHold : Prop :=
  (∀ (s : State) (e : Nat), s.inRun = true → s.charging.boundary = some e → e ≤ s.now →
      exec .turnBoundary s = .next (Claims.turned s)) ∧
  (∀ (s : State) (e : Nat), s.inRun = true → s.feeders.planHold = some e → e ≤ s.now →
      let t := Claims.granted s.available (s.setFeeders { s.feeders with planHold := none })
      let u := ((t.cutPlan .a).cutPlan .b).cutPlan .c
      let taken := fun (c : Charger) =>
        if c.target < c.planned then
          { c with target := c.planned, ramp := if c.present < c.planned then some (s.now + s.cfg.rampInterval) else none }
        else if c.planned < c.target then Claims.lowered c.planned c else c
      let aged := fun (c : Charger) =>
        if c.figures.isSome ∧ c.phase = .connected then { c with turnAge := if c.target = 0 then min (c.turnAge + 1) 255 else 0 } else c
      exec .planHoldExpiry s = .next (u.setCharging { u.charging with chargers := u.charging.chargers.map (fun c => aged (taken c)) }))

/-- The power allotted to the claimants of a group. -/
def Sys2Proof.Claims.allotted (g : Group) (cs : List Claimant) : Nat :=
  ((cs.filter (fun c => c.group == g)).map (·.power)).sum

/-- What the first `n` claimants of an order take of a group's power, the claimant at index `i` taking `f i`. -/
def Sys2Proof.Claims.spent (cs : List Claimant) (f : Nat → Nat) (n : Nat) (g : Group) : Nat :=
  (((List.range n).filter (fun i => (cs[i]?).any (fun c => c.group == g))).map f).sum

/-- A power of at least the charger's Pmin, or none. -/
def Sys2Proof.Claims.atLeast (pmin x : Nat) : Nat := if pmin ≤ x then x else 0

/-- The quotient of two numbers, rounded up (R1). -/
def Sys2Proof.Claims.ceiling (x y : Nat) : Nat := (x + y - 1) / y

/-- The need of a charger: of the record at its berth while one stands there, of its session otherwise (R106). -/
def Sys2Proof.Claims.needOf (s : State) (c : Charger) : Option Nat :=
  match s.occupant c.lane c.pos with | some b => b.need | none => c.session

/-- The charger is a claimant at a boundary taken now: connected and settled, its stagger passed, its need and its ceiling
above 0, and no RELEASED record at its berth (R121). -/
def Sys2Proof.Claims.claims (s : State) (c : Charger) : Prop :=
  c.phase = .connected ∧ (∀ e, c.staggerEnd = some e → e ≤ s.now) ∧ (∃ n, Claims.needOf s c = some n ∧ 0 < n) ∧
  0 < s.ceiling c ∧ ∀ b, s.occupant c.lane c.pos = some b → b.isReleased = false

/-- Deadline, granted rate and slack of a claimant. The deadline is the time to go to the pull-out of its record, or to the
spare ready minute, less the ready margin, from 1 to 72 000 s; it is 36 000 s while the clock is UNSET (R122, R123). -/
def Sys2Proof.Claims.figures (s : State) (c : Charger) : Figures :=
  let minute := match s.occupant c.lane c.pos with | some b => b.pullOut.getD s.cfg.spareReady | none => s.cfg.spareReady
  let deadline := if s.clock.isSet then
    (max 1 (min 72000 (timeToGo s.clock.time (minute * 60) - (s.cfg.readyMargin : Int)))).toNat else 36000
  let energy := (Claims.needOf s c).getD 0 * 360
  ⟨deadline, max c.conf.pmin (min (Claims.ceiling energy deadline) (s.ceiling c)),
    (deadline : Int) - (Claims.ceiling energy (s.ceiling c) : Nat)⟩

/-- The allocation order: slack ascending, then turn age descending, then lane, then position ascending (R124). -/
def Sys2Proof.Claims.served (x y : Claimant) : Prop :=
  x.figures.slack < y.figures.slack ∨ x.figures.slack = y.figures.slack ∧
    (y.charger.turnAge < x.charger.turnAge ∨ x.charger.turnAge = y.charger.turnAge ∧
      (x.charger.lane < y.charger.lane ∨ x.charger.lane = y.charger.lane ∧ x.charger.pos ≤ y.charger.pos))

/-- The two passes allot each group no more than its grant, and each claimant nothing or a power between its Pmin and its
ceiling; the claimants keep their order (R125, R126). Pass 1 gives each in turn its granted rate, or what its group has left,
if that is its Pmin at least; pass 2 raises each in turn towards its ceiling with what is left after pass 1, one that has
nothing to its Pmin at least (R125, R126). The claimants of a boundary are the chargers that claim, with their figures, in
allocation order (R121 to R124). -/
def Obligations.AllotmentKeepsGrantsAndCeilings : Prop :=
  (∀ (grants : PerGroup Nat) (cs : List Claimant), (∀ c ∈ cs, c.figures.rate ≤ c.top) →
    (∀ g, Claims.allotted g (allot grants cs) ≤ groupGet grants g) ∧
    (∀ c ∈ allot grants cs, c.power = 0 ∨ (c.charger.conf.pmin ≤ c.power ∧ c.power ≤ c.top)) ∧
    (allot grants cs).map (·.charger) = cs.map (·.charger)) ∧
  (∀ (grants : PerGroup Nat) (cs : List Claimant), ∃ first second : Nat → Nat, (allot grants cs).length = cs.length ∧
    ∀ i c, cs[i]? = some c →
      let left := groupGet grants c.group - Claims.spent cs first i c.group
      let rest := groupGet grants c.group - Claims.spent cs first cs.length c.group - Claims.spent cs second i c.group
      first i = Claims.atLeast c.charger.conf.pmin (min c.figures.rate left) ∧
      second i = (if 0 < first i then min (c.top - first i) rest else Claims.atLeast c.charger.conf.pmin (min c.top rest)) ∧
      (allot grants cs)[i]? = some { c with power := first i + second i }) ∧
  ∀ s : State, (∀ c, s.isClaimant c = true ↔ Claims.claims s c) ∧ s.claimants.Pairwise Claims.served ∧
    s.claimants.Perm ((s.charging.chargers.filter s.isClaimant).map
      (fun c => ⟨c, s.drawingGroup c, s.ceiling c, Claims.figures s c, 0⟩))

/-! ### Feeder groups and peers (R88 to R99, R191) -/

/-- The effective cap: floor(base × d / 16), the base the shed cap in SHED or UNKNOWN and the cap else, the duty the lower
of the two while hot (R90). -/
def Obligations.EffectiveCapFollowsStateAndHeat : Prop :=
  ∀ (s : State) (g : Group),
    let c := groupGet s.cfg.groups g
    let r := groupGet s.feeders.groups g
    let base := if r.state = .unknown ∨ r.state = .told .shed then c.shedCap else c.cap
    let duty := if r.hot = true then min c.duty c.hotDuty else c.duty
    s.effectiveCap g = base * duty / 16 ∧ (base ≤ 4000 → duty ≤ 16 → s.effectiveCap g ≤ 4000)

/-- A value cut to make good an excess `x`: lowered by it, or to 0 where less than the charger's Pmin would be left (R98). -/
def Sys2Proof.Claims.cutTo (pmin v x : Nat) : Nat := if x + pmin ≤ v then v - x else 0

/-- One step of the cut procedure at the charger `b`, with its excess: a charger that draws from the group with a value above
0 is cut, and the excess falls by what it lost; another is passed over (R98). -/
def Sys2Proof.Claims.cutsOn (value : Charger → Nat) (apply : Nat → Charger → Charger) (g : Group) : Prop :=
  ∀ (s : State) (b : Nat) (bs : List Nat) (x : Nat),
    let cut := State.cutOver value apply g
    cut [] x s = s ∧ cut (b :: bs) 0 s = s ∧
    (∀ c, 0 < x → s.chargerOf b = some c →
      (s.drawingGroup c = g → 0 < value c →
        let v := Claims.cutTo c.conf.pmin (value c) x
        cut (b :: bs) x s = cut bs (x - (value c - v)) (s.updateCharger b (apply v))) ∧
      (s.drawingGroup c ≠ g ∨ value c = 0 → cut (b :: bs) x s = cut bs x s)) ∧
    (0 < x → s.chargerOf b = none → cut (b :: bs) x s = cut bs x s)

/-- The available figure of a group: what its effective cap leaves beside the assumed draws of the peers, up to the node's
limit, in RUN; 0 in other states. A FRESH peer is taken at the greater of what it has committed and planned, a STALE one at
its declared maximum (R95, R97). -/
def Sys2Proof.Claims.figure (s : State) (g : Group) : Nat :=
  let assumed := fun (e : StationEntry) =>
    if e.fresh = none then groupGet e.maxima g else max (groupGet e.committed g) (groupGet e.planned g)
  if s.node.state = .run then min (groupGet s.cfg.groups g).limit (s.effectiveCap g - (s.feeders.stations.map assumed).sum) else 0

/-- The grants between boundaries: each falls to its available figure when that is lower, and the groups A, B and C are then
cut to their grants in this order (R97). The targets of a group above its grant are cut, and at the end of a plan hold its
planned targets, one charger after another in reverse allocation order; a cut leaves the group within its grant, each target
as it was, or 0, or from the charger's Pmin to what it was, and the chargers of the other groups as they were. A group within
its grant is not touched (R98, R101; log 14). The available figure is as R95 and R97 give it, and the committed and planned
totals sum over the chargers that draw from the group. -/
def Obligations.GrantsFallAndCutTheTargets : Prop :=
  (∀ (s : State) (g : Group), s.available g = Claims.figure s g ∧
    let drawing := s.charging.chargers.filter (fun c => s.drawingGroup c == g)
    s.committed g = (drawing.map (·.target)).sum ∧ s.plannedTotal g = (drawing.map (·.planned)).sum) ∧
  (∀ v c, Charger.lowerTo v c = Claims.lowered v c) ∧
  (∀ s : State,
    s.followGrants = (((Claims.granted (fun g => min (s.grant g) (s.available g)) s).cutGroup .a).cutGroup .b).cutGroup .c ∧
    (∀ g, s.followGrants.grant g = min (s.grant g) (s.available g)) ∧
    ((∀ g, s.committed g ≤ min (s.grant g) (s.available g)) → s.followGrants.charging = s.charging)) ∧
  (∀ g, Claims.cutsOn (·.target) Charger.lowerTo g ∧ Claims.cutsOn (·.planned) (fun v c => { c with planned := v }) g) ∧
  (∀ (s : State) (g : Group),
    let last := s.charging.order.reverse
    let t := State.cutOver (·.target) Charger.lowerTo g last (s.committed g - s.grant g) s
    (s.committed g ≤ s.grant g → s.cutGroup g = s) ∧
    (s.grant g < s.committed g → s.cutGroup g = t.setCharging { t.charging with chargers := t.charging.chargers.map (fun c =>
      if s.drawingGroup c = g then { c with planned := min c.planned c.target } else c) }) ∧
    s.cutPlan g = State.cutOver (·.planned) (fun v c => { c with planned := v }) g last (s.plannedTotal g - s.grant g) s) ∧
  (∀ (s : State) (g : Group), (s.charging.chargers.map (·.berth)).Nodup → s.charging.order.Nodup →
    (∀ c ∈ s.charging.chargers, s.drawingGroup c = g → 0 < c.target → c.berth ∈ s.charging.order) →
    (s.cutGroup g).committed g ≤ s.grant g ∧
    (∀ c ∈ (s.cutGroup g).charging.chargers, ∃ old ∈ s.charging.chargers, c.berth = old.berth ∧ c.conf = old.conf ∧
      (s.drawingGroup old ≠ g → c = old) ∧
      (c.target = old.target ∨ c.target = 0 ∨ c.conf.pmin ≤ c.target ∧ c.target < old.target)))

/-- The state of a group as every charger takes it: UNKNOWN counts as SHED (R88, R114). -/
def Sys2Proof.Claims.groupIs (s : State) (g : Group) : FeederState :=
  match (groupGet s.feeders.groups g).state with | .unknown => .shed | .told st => st

/-- The effective state under a mask: the most permissive among its groups (R114). -/
def Sys2Proof.Claims.effective (st : Group → FeederState) (m : Mask) : FeederState :=
  let has := fun (x : FeederState) => m.a = true ∧ st .a = x ∨ m.b = true ∧ st .b = x ∨ m.c = true ∧ st .c = x
  if has .opened then .opened else if has .peak then .peak else .shed

/-- The drawing group under a mask: the first of A, B and C in the effective state (R114). -/
def Sys2Proof.Claims.drawn (st : Group → FeederState) (m : Mask) : Group :=
  let e := Claims.effective st m
  if m.a = true ∧ st .a = e then .a else if m.b = true ∧ st .b = e then .b else if m.c = true ∧ st .c = e then .c else .a

/-- The ceiling of a charger in an effective state (R117). -/
def Sys2Proof.Claims.top (c : ChargerConfig) : FeederState → Nat
  | .opened => c.pmax
  | .peak => if c.peak = .full then c.pmax else if c.peak = .floor then c.floor else 0
  | .shed => if c.shed = .floor then c.floor else 0

/-- A charger whose ceiling is now this: a target above it is cut to it, the present with it, and so is the planned target
(R107, R118). -/
def Sys2Proof.Claims.capped (top : Nat) (c : Charger) : Charger :=
  let cut := { c with planned := min c.planned top }
  if top < c.target then { cut with target := top, present := min c.present top, ramp := if c.present < top then c.ramp else none }
  else cut

/-- A charger under a change of its effective state and drawing group: at 0 in a new group; else under its new ceiling; and
with a stagger end where it has left SHED with target 0, a target judged after it is put to 0 in a new group or cut to a new
ceiling (R115, R118, R119; log 33). -/
def Sys2Proof.Claims.revised (old new : FeederState) (left taken : Group) (stagger : Nat) (c : Charger) : Charger :=
  let d := if left = taken then Claims.capped (Claims.top c.conf new) c else Claims.dead c
  if old = .shed ∧ new ≠ .shed ∧ d.target = 0 then { d with staggerEnd := some stagger } else d

/-- A group record that takes a state and a hot flag, with what follows from it for chargers and grants (R88). -/
def Sys2Proof.Claims.fed (g : Group) (st : FeederState) (hot : Bool) (s : State) : State :=
  let r := groupGet s.feeders.groups g
  if r.state = .told st ∧ r.hot = hot then s
  else
    let t := s.setFeeders { s.feeders with groups := groupSet s.feeders.groups g { r with state := .told st, hot := hot } }
    (t.reviseChargers s.groupState (fun c => groupGet c.mask g)).followGrants

/-- The feeder monitor tells a group: FEEDER queued, its refresh timer started at 60 s, and the notice applied at home
(R88, R89). -/
def Sys2Proof.Claims.told (g : Group) (st : FeederState) (hot : Bool) (s : State) : State :=
  let t := s.send (.feeder g st hot)
  let r := groupGet t.feeders.groups g
  Claims.fed g st hot (t.setFeeders { t.feeders with groups := groupSet t.feeders.groups g { r with refresh := some (s.now + 60) } })

/-- A FEEDER heard changes the group, its chargers and its grant, and one that carries what the group holds changes nothing.
The chargers whose mask holds the group take their new effective state, drawing group and ceiling, and the place of one whose
drawing group changed lapses (R114, R115, R117 to R119; that R119 looks at the target after R115 has put it to 0 and R118 has
cut it is the MODEL's choice, log 33). At the monitor a changed input is told in LISTEN and RUN and applied alone in MUTE, and a
refresh tells the inputs as they stand; an input that stands already changes nothing, and in LOADING and CONFIG_FAULT, or at
another node, an input is not read (R88, R89, R200). -/
def Obligations.FeederStatesAreTakenAndTold : Prop :=
  (∀ (s : State) (before : Group → FeederState) (touched : Charger → Bool),
    let st := Claims.groupIs s
    let moved := fun (c : Charger) => touched c && Claims.drawn before c.mask != Claims.drawn st c.mask
    s.groupState = st ∧
    (∀ c, s.effectiveState c = Claims.effective st c.mask ∧ s.drawingGroup c = Claims.drawn st c.mask ∧
      s.ceiling c = Claims.top c.conf (Claims.effective st c.mask)) ∧
    s.reviseChargers before touched = s.setCharging { s.charging with
      chargers := s.charging.chargers.map (fun c => if touched c then
        Claims.revised (Claims.effective before c.mask) (Claims.effective st c.mask) (Claims.drawn before c.mask)
          (Claims.drawn st c.mask) (s.now + (c.conf.rank - 1) * s.cfg.staggerInterval) c else c)
      order := s.charging.order.filter (fun b => !s.charging.chargers.any (fun c => c.berth == b && moved c)) }) ∧
  ∀ (s : State) (sender : Nat) (g : Group) (st : FeederState) (hot : Bool) (e : Nat),
    let t := s.setInputs { s.inputs with groups := groupSet s.inputs.groups g ⟨st, hot⟩ }
    (Claims.heardFrom s sender → exec (.feeder sender g st hot) s = .next (Claims.fed g st hot s.frameEnded)) ∧
    (groupGet s.inputs.groups g = ⟨st, hot⟩ → exec (.feederInputChange g st hot) s = .next s) ∧
    (groupGet s.inputs.groups g ≠ ⟨st, hot⟩ →
      (s.cfg.monitor = true → s.listenOrRun = true → exec (.feederInputChange g st hot) s = .next (Claims.told g st hot t)) ∧
      (s.cfg.monitor = true → s.node.state = .mute → exec (.feederInputChange g st hot) s = .next (Claims.fed g st hot t)) ∧
      (s.cfg.monitor = false ∨ s.active = false → exec (.feederInputChange g st hot) s = .next t)) ∧
    (s.cfg.monitor = true → s.listenOrRun = true → (groupGet s.feeders.groups g).refresh = some e →
      e ≤ s.now →
      exec (.feederRefreshExpiry g) s =
        .next (Claims.told g (groupGet s.inputs.groups g).state (groupGet s.inputs.groups g).hot s))

/-- What a node says of itself in a ROLL: its lanes, berths and chargers, its wash lane and its bypass (R91, R93). -/
def Sys2Proof.Claims.described (s : State) : Description :=
  ⟨s.lanes.length, (s.lanes.map (fun l => l.conf.berths.length)).sum, s.charging.chargers.length, s.cfg.washLane, s.cfg.bypass⟩

/-- The declared maximum of a group: the Pmax of the chargers whose mask holds it, up to the node's limit (R93). -/
def Sys2Proof.Claims.declared (s : State) (g : Group) : Nat :=
  min (groupGet s.cfg.groups g).limit
    ((s.charging.chargers.filter (fun c => groupGet c.mask g)).map (fun c => c.conf.pmax)).sum

/-- The station table entry of a peer replaced, or put in its place by station number (R91). -/
def Sys2Proof.Claims.entered (station : Nat) (f : StationEntry → StationEntry) (new : StationEntry) (s : State) : State :=
  let stations :=
    if (s.entryOf station).isSome then s.feeders.stations.map (fun e => if e.station == station then f e else e)
    else insertBy (fun x y => x.station < y.station) new s.feeders.stations
  s.setFeeders { s.feeders with stations := stations }

/-- ROLL and DRAW heard from a peer: an entry takes maxima and description from a ROLL, and committed, planned and 30 s of
freshness from a DRAW; a first ROLL makes a STALE entry, a first DRAW a FRESH one whose maxima are its greater figures,
and asks for a ROLL; the grants follow the figures, and an ask is answered unless a ROLL waits (R92 to R94; log 9). The end of
a peer's freshness makes its entry STALE and the grants follow; a STALE entry is forgotten by FORGET, a FRESH one is not, and
an unknown station is NOT_FOUND; the DRAW timer queues a DRAW every 10 s (R95, R96, R99). -/
def Obligations.StationTableFollowsThePeers : Prop :=
  (∀ (s : State) (sender : Nat) (ask : Bool) (d : Description) (x y : PerGroup Nat), Claims.heardFrom s sender →
      1 ≤ sender → 1 ≤ d.lanes → d.lanes ≤ 8 → 1 ≤ d.berths → d.berths ≤ 48 → d.chargers ≤ 48 →
      (∀ g, groupGet x g ≤ 4000 ∧ groupGet y g ≤ 4000) →
      let zero : PerGroup Nat := ⟨0, 0, 0⟩
      let greater := groupMake (fun g => max (groupGet x g) (groupGet y g))
      let rolled := (Claims.entered sender (fun e => { e with maxima := x, description := some d })
        ⟨sender, x, some d, zero, zero, none, none⟩ s.frameEnded).followGrants
      let drawn := Claims.entered sender (fun e => { e with committed := x, planned := y, lastDraw := some s.now, fresh := some (s.now + 30) })
        ⟨sender, greater, none, x, y, some s.now, some (s.now + 30)⟩ s.frameEnded
      let waiting := if rolled.link.sending = some .other then rolled.link.other.tail else rolled.link.other
      exec (.roll sender ask d.wash d.bypass d.lanes d.berths d.chargers x.a x.b x.c) s =
        .next (if ask = true ∧ (∀ f ∈ waiting, f.notice.isRoll = false)
          then rolled.send (.roll false (Claims.described rolled) (groupMake (Claims.declared rolled))) else rolled) ∧
      exec (.draw sender x.a x.b x.c y.a y.b y.c) s = .next (if (s.entryOf sender).isSome then drawn.followGrants
        else (drawn.send (.roll true (Claims.described drawn) (groupMake (Claims.declared drawn)))).followGrants)) ∧
  (∀ (s : State) (sender tag station e : Nat), 1 ≤ station → station ≤ 31 →
      (∀ x, s.active = true → s.entryOf station = some x → x.fresh = some e → e ≤ s.now → exec (.freshnessTimerExpiry station) s =
        .next (s.setFeeders { s.feeders with stations := s.feeders.stations.map (fun e => if e.station == station then { e with fresh := none } else e) }).followGrants) ∧
      (Claims.ordered s sender tag →
        (s.entryOf station = none →
          exec (.forget sender tag [byte station]) s = .next (Claims.answered sender tag .notFound s.frameEnded)) ∧
        (∀ x, s.entryOf station = some x → x.fresh = some e →
          exec (.forget sender tag [byte station]) s = .next (Claims.answered sender tag .refused s.frameEnded)) ∧
        (∀ x, s.entryOf station = some x → x.fresh = none →
          let left := s.feeders.stations.filter (fun e => e.station != station)
          exec (.forget sender tag [byte station]) s =
          .next (Claims.answered sender tag .done (s.frameEnded.setFeeders { s.feeders with stations := left }).followGrants))) ∧
      (s.listenOrRun = true → s.feeders.drawTimer = some e → e ≤ s.now →
        let t := s.setFeeders { s.feeders with drawTimer := some (s.now + 10) }
        exec .drawTimerExpiry s = .next (t.send (.draw (groupMake s.committed) (groupMake s.plannedTotal)))))

/-- A record on entry to MUTE: a take watch ends. That its take stays with the transit entry is the MODEL's reading (R85;
log 42). -/
def Sys2Proof.Claims.unwatched (b : Bus) : Bus :=
  match b.place with
  | .transit lane start lost (some take) => { b with place := .transit lane start lost (some { take with watch := none }) }
  | _ => b

/-- A run on entry to MUTE: no refresh, and in CLAIMING neither window nor own claim (R151). -/
def Sys2Proof.Claims.mutedRun (r : Run) : Run :=
  match r.state with
  | .claiming => { r with
      state := if r.best = none then .pending else .claimedElsewhere, claim := none, window := none, refresh := none }
  | _ => { r with refresh := none }

/-- The node on entry to MUTE. Grants and powers 0, no DRAW, refresh, hold or boundary to come; no offer, its hold released; no
call, no take watch, no claim in progress; STATION_CLASH stored, and a send queue of its one ALERT, with which a RESTART whose
answer waited in it is dropped. All else stands (R85, R102, R129, R151, R188, R191, R209, R212). -/
def Sys2Proof.Claims.muted (s : State) : State :=
  let stamp := if s.clock.isSet then some s.clock.time else none
  let restarts := fun (o : Order) => match o.work with | .restart _ => true | .survey _ _ => false
  { s with
    node := ⟨.mute, none, s.node.resetLine⟩
    feeders := { s.feeders with
      groups := groupMake (fun g => { groupGet s.feeders.groups g with grant := 0, refresh := none })
      drawTimer := none
      planHold := none }
    charging := ⟨s.charging.chargers.map Claims.dead, [], none⟩
    lanes := (s.alloc.offers.foldl (fun t o => Claims.unheld o t) s).lanes
    alloc := { s.alloc with caller := .idle, offers := [], arrived := [] }
    buses := { s.buses with records := s.buses.records.map Claims.unwatched }
    runs := { s.runs with runs := s.runs.runs.map Claims.mutedRun }
    alerts := (s.storeAlert .stationClash s.cfg.station).alerts
    order := if (s.link.urgent ++ s.link.other).any (·.ofRestart) then s.order.filter (fun o => !restarts o) else s.order
    link := { s.link with
      urgent := [], other := [⟨.alert .stationClash s.cfg.station stamp, 0, false⟩], sending := none, latch := false } }

/-- A ROLL or a DRAW of the node's own station number puts a node in LISTEN or RUN in MUTE, where the entry to MUTE is as each
chapter states it; in MUTE it changes nothing (R85, R102, R129, R151, R188, R191, R209, R212; that a take outlives its watch is
the MODEL's reading, log 42; that the tests of every command are made at the clash too, releases, lateness and shunts among
them, and also where the node was never in RUN, is its choice, log 7, 50). -/
def Obligations.StationClashMutesTheNode : Prop :=
  ∀ (s : State) (ask : Bool) (d : Description) (x y : PerGroup Nat), Claims.hearing s → s.cfg.station ≤ 31 →
    (s.alloc.offers.map (·.caller)).Nodup → 1 ≤ d.lanes → d.lanes ≤ 8 → 1 ≤ d.berths → d.berths ≤ 48 → d.chargers ≤ 48 →
    (∀ g, groupGet x g ≤ 4000 ∧ groupGet y g ≤ 4000) →
    let rolled := exec (.roll s.cfg.station ask d.wash d.bypass d.lanes d.berths d.chargers x.a x.b x.c) s
    exec (.draw s.cfg.station x.a x.b x.c y.a y.b y.c) s = rolled ∧
    (s.node.state = .mute → rolled = .next s.frameEnded) ∧
    (s.listenOrRun = true → rolled = .next ((Claims.muted s.frameEnded).settle s.frameEnded []))

/-! ### Run list and claims (R135 to R149, R195) -/

/-- A run with the fields of a RUN (R137). -/
def Sys2Proof.Claims.replaced (f : RunFields) (r : Run) : Run :=
  { r with pullOut := f.pullOut, route := f.route, demand := f.demand, allowance := f.allowance }

/-- A run with the fields of a RUN, made PENDING with no claim, own or heard, and no window (R137; of a LAPSED or CANCELLED
run that is the MODEL's reading, log 20). -/
def Sys2Proof.Claims.renewed (f : RunFields) (r : Run) : Run :=
  { Claims.replaced f r with state := .pending, claim := none, best := none, heardOther := false, window := none }

/-- The record bound to a run freed (R141). -/
def Sys2Proof.Claims.freed (n : Nat) (s : State) : State :=
  match s.boundTo n with
  | some b => s.updateBus b.id (fun x => { x with run := none, pullOut := none, route := none })
  | none => s

/-- The record bound to a run takes its pull-out and route again (R141). -/
def Sys2Proof.Claims.copied (f : RunFields) (s : State) : State :=
  match s.boundTo f.run with
  | some b => s.updateBus b.id (fun x => { x with run := some f.run, pullOut := some f.pullOut, route := some f.route })
  | none => s

/-- The bound record of a run is RELEASED (R137, R148). -/
def Sys2Proof.Claims.releasedFor (n : Nat) (s : State) : Bool :=
  s.buses.records.any (fun b => (match b.place with | .released _ _ => true | _ => false) && b.run == some n)

/-- A RUN taken: a new run PENDING, or LAPSED behind the front, or RUN_LIST_FULL at 256; a listed one by the table of
R137, where MINE and LATE with the own mark stand for a run with a bound record: a RELEASED record keeps its run, and a
record that keeps it takes the copies again (R136, R137, R141). R137 names the claims that a run gives up on its way to
PENDING but for a LAPSED or CANCELLED one: that this one loses its best heard claim, own claim and window is the MODEL's
reading (log 20). That a run which a RELEASED record keeps also keeps its own claim is the MODEL's choice (log 48). -/
def Sys2Proof.Claims.runTaken (f : RunFields) (s : State) : State :=
  match s.runOf f.run with
  | none =>
    let state := if s.behindFront f.run then .lapsed else .pending
    let new : Run := ⟨f.run, f.pullOut, f.route, f.demand, f.allowance, state, false, none, none, false, none, none, false⟩
    if s.runs.runs.length < 256 then s.setRuns { s.runs with runs := insertBy (fun x y => x.run < y.run) new s.runs.runs }
    else s.raise .runListFull f.run
  | some r =>
    let kept := s.updateRun f.run (Claims.replaced f)
    let renewed := s.updateRun f.run (Claims.renewed f)
    if r.state = .departed then s
    else if r.state = .lapsed ∨ r.state = .cancelled then if s.behindFront f.run then kept else renewed
    else if r.state = .claiming ∨ r.state = .claimedElsewhere then if r.demand = f.demand then kept else renewed
    else if r.state = .pending ∨ (r.state = .late ∧ r.ownMark = false) then kept
    else if r.demand = f.demand ∨ Claims.releasedFor f.run s = true then Claims.copied f kept
    else if r.state = .mine then (Claims.freed f.run s).updateRun f.run (Claims.renewed f)
    else (Claims.freed f.run s).updateRun f.run (fun x => { Claims.replaced f x with ownMark := false })

/-- A notice that the office alone may send is heard (R184). -/
def Sys2Proof.Claims.heardFromOffice (s : State) : Prop := Claims.hearing s ∧ s.cfg.station ≠ 0

/-- RUN heard: the run list takes it, and every test follows, a claim test of a run left PENDING among them; from another
station than the office it ends the frame alone (R136, R137, R184; that a LAPSED or CANCELLED run made PENDING loses its best
heard claim, own claim and window is the MODEL's reading, log 20; that a run which a RELEASED record keeps also keeps its own
claim is the MODEL's choice, log 48). -/
def Obligations.RunIsTakenIntoTheRunList : Prop :=
  ∀ (s : State) (f : RunFields), Claims.hearing s → 1 ≤ f.run → f.run ≤ 999 → f.pullOut ≤ 1439 → f.route ≤ 255 →
    f.allowance ≤ 6000 → okDemand f.demand = true →
    let t := Claims.runTaken f s.frameEnded
    (s.cfg.station ≠ 0 → exec (.run 0 f.run f.pullOut f.route f.demand f.allowance) s = .next (t.settle s.frameEnded
      (match t.runOf f.run with | some r => if r.state = .pending then [f.run] else [] | none => []))) ∧
    (∀ sender, sender ≠ 0 → exec (.run sender f.run f.pullOut f.route f.demand f.allowance) s = .next s.frameEnded)

/-- CLOCK sets the clock; RUN_CANCEL cancels a run that is neither DEPARTED nor CANCELLED and frees its record, after the end
of its release where one is in progress (R164), and leaves any other alone; CLEAR_RUNS ends a release, makes every record a
spare and empties the list with its front mark; the tests follow each (R138, R139, R195). -/
def Obligations.ClockCancelAndClear : Prop :=
  ∀ (s : State) (n : Nat), Claims.heardFromOffice s →
    let u := s.frameEnded
    (n ≤ 86399 → exec (.clock 0 n) s = .next ((u.setClock ⟨n, true⟩).settle u [])) ∧
    (1 ≤ n → n ≤ 999 →
      ((∀ r, s.runOf n = some r → r.state = .departed ∨ r.state = .cancelled) →
        exec (.runCancel 0 n) s = .next (u.settle u [])) ∧
      (∀ r, s.runOf n = some r → r.state ≠ .departed → r.state ≠ .cancelled →
        let releasing := ∃ rel, s.departures.release = some rel ∧ rel.run = n
        let cancels := fun (t : State) => exec (.runCancel 0 n) s = .next (((Claims.freed n t).updateRun n (fun x =>
          { x with state := .cancelled, claim := none, window := none, best := none, ownMark := false })).settle u [])
        (releasing → cancels u.endRelease) ∧ (¬ releasing → cancels u))) ∧
    (let t := u.endRelease
      let spares := t.buses.records.map (fun b => { b with run := none, pullOut := none, route := none })
      exec (.clearRuns 0) s = .next (((t.setBuses { t.buses with records := spares }).setRuns ⟨[], 0⟩).settle u []))

/-- The best claim heard after a bid: replaced by a better one, or by one of the same station (R146, R148). -/
def Sys2Proof.Claims.heardBid (bid : HeardClaim) : Option HeardClaim → HeardClaim
  | none => bid
  | some b => if b.station = bid.station ∨ bid.cost < b.cost ∨ (bid.cost = b.cost ∧ bid.station < b.station) then bid else b

/-- A bid heard for a wildcard run acts by the state of the run (R146, R148); one for a MINE run that has no own claim is
ignored (the MODEL's choice, log 37). A withdrawal heard (cost NO_FIT): from the station
of the best heard claim it clears that claim, and makes a run CLAIMED_ELSEWHERE PENDING; else it is ignored, as is any CLAIM
for a named run or a run not in the list (R148, R149). -/
def Obligations.ClaimsHeardActByTheRunsState : Prop :=
  (∀ (s : State) (r : Run) (bid : HeardClaim), Claims.heardFrom s bid.station → s.runOf r.run = some r → 1 ≤ r.run →
      r.run ≤ 999 → 1 ≤ bid.fleet → bid.fleet ≤ 9999 → bid.cost ≤ 4094 → r.isWildcard = true →
      let u := s.frameEnded
      let heard := exec (.claim bid.station r.run bid.fleet bid.cost) s
      let collects := fun (x : Run) => { x with best := some (Claims.heardBid bid x.best) }
      (r.state = .pending → heard =
        .next ((u.updateRun r.run (fun x => { x with state := .claimedElsewhere, best := some bid })).settle u [])) ∧
      (r.state = .claiming →
        heard = .next ((u.updateRun r.run (fun x => { collects x with heardOther := true })).settle u [])) ∧
      (r.state = .claimedElsewhere → heard = .next ((u.updateRun r.run collects).settle u [])) ∧
      (∀ c, r.state = .mine → r.claim = some c →
        let better := bid.cost < c.cost ∨ (bid.cost = c.cost ∧ bid.station < s.cfg.station)
        (better ∧ Claims.releasedFor r.run s = false → heard = .next (((Claims.freed r.run u).updateRun r.run (fun x =>
          { x with state := .claimedElsewhere, claim := none, window := none, best := some bid })).settle u [])) ∧
        (¬ better ∨ Claims.releasedFor r.run s = true → heard =
          .next ((if s.inRun then u.send (.claim r.run c.fleet c.cost) else u).settle u []))) ∧
      (r.state = .mine → r.claim = none → heard = .next (u.settle u [])) ∧
      (r.state = .late ∨ r.state = .departed ∨ r.state = .lapsed ∨ r.state = .cancelled → heard = .next (u.settle u []))) ∧
  (∀ (s : State) (sender n fleet cost : Nat), Claims.heardFrom s sender → 1 ≤ n → n ≤ 999 → 1 ≤ fleet → fleet ≤ 9999 →
      let u := s.frameEnded
      ((∀ r, s.runOf n = some r → r.isWildcard = false) → cost ≤ 4095 →
        exec (.claim sender n fleet cost) s = .next (u.settle u [])) ∧
      (∀ r, s.runOf n = some r → r.isWildcard = true →
        (∀ b, r.best = some b → b.station = sender →
          (r.state = .claimedElsewhere → exec (.claim sender n fleet 4095) s =
            .next ((u.updateRun n (fun x => { x with best := none, state := .pending })).settle u [])) ∧
          (r.state = .claiming → exec (.claim sender n fleet 4095) s =
            .next ((u.updateRun n (fun x => { x with best := none })).settle u [])) ∧
          (r.state ≠ .claiming → r.state ≠ .claimedElsewhere →
            exec (.claim sender n fleet 4095) s = .next (u.settle u []))) ∧
        ((∀ b, r.best = some b → b.station ≠ sender) → exec (.claim sender n fleet 4095) s = .next (u.settle u []))))

/-- A run waits for claims: PENDING or CLAIMED_ELSEWHERE in its claim period (R142, R145). -/
def Sys2Proof.Claims.waiting (s : State) (r : Run) : Prop :=
  s.inClaimPeriod r = true ∧ (r.state = .pending ∨ r.state = .claimedElsewhere)

/-- The end of a claim window: won against the best heard claim, the run is MINE with the spare bound to it, and claimed once
more when another bid was heard; lost, it is CLAIMED_ELSEWHERE. The refresh timer starts again at its expiry, which calls for
a claim test, as the entry to a claim period does, at which the timer is started at 60 s. It is started too for a run that
comes to wait for claims in RUN, goes on while the run waits, and stops when the run leaves PENDING and CLAIMED_ELSEWHERE or
its claim period (R142, R145, R147). A CLOCK that puts the run outside its claim period does not stop it (R195; that R145 does
not stop it there, and that a change of the run's own fields does, is the MODEL's reading, log 44; that a run which goes from
PENDING to CLAIMED_ELSEWHERE or back keeps its timer is the MODEL's choice, log 1). -/
def Obligations.ClaimTimersDecideAndRenew : Prop :=
  (∀ s before : State, ∃ timer : Run → Option Nat,
    (∀ r,
      let was := ∃ old, before.runOf r.run = some old ∧ before.inClaimPeriod old = true
      let placed := s.inRun = true ∧ r.isWildcard = true ∧ (r.state = .pending ∨ r.state = .claimedElsewhere)
      (¬ placed → timer r = none) ∧
      (placed → s.inClaimPeriod r = true →
        (was → timer r = some (r.refresh.getD (s.now + 60))) ∧ (¬ was → timer r = some (s.now + 60))) ∧
      (placed → s.inClaimPeriod r = false →
        (was ∧ s.clock = before.clock → timer r = none) ∧ (¬ (was ∧ s.clock = before.clock) → timer r = r.refresh))) ∧
    s.keepRefresh before = s.setRuns { s.runs with runs := s.runs.runs.map (fun r => { r with refresh := timer r }) }) ∧
  ∀ (s : State) (r : Run) (c : OwnClaim) (b : Bus) (e : Nat), s.runOf r.run = some r →
    let won := ∀ h, r.best = some h → c.cost < h.cost ∨ (c.cost = h.cost ∧ s.cfg.station < h.station)
    let mine := (s.updateRun r.run (fun x => { x with state := .mine, best := none, window := none })).updateBus b.id
      (fun x => { x with run := some r.run, pullOut := some r.pullOut, route := some r.route })
    let enters := s.inRun = true ∧ Claims.waiting s r ∧ timeToGo s.clock.time (r.pullOut * 60) = (s.cfg.claimLead * 60 : Nat)
    (r.state = .claiming → r.window = some e → e ≤ s.now → r.claim = some c →
      (won → s.busOf c.fleet = some b → exec (.claimWindowExpiry r.run) s =
        .next ((if r.heardOther ∧ s.inRun then mine.send (.claim r.run c.fleet c.cost) else mine).settle s [])) ∧
      (¬ won → exec (.claimWindowExpiry r.run) s = .next ((s.updateRun r.run (fun x =>
        { x with state := .claimedElsewhere, claim := none, window := none })).settle s []))) ∧
    (r.refresh = some e → e ≤ s.now → exec (.claimRefreshExpiry r.run) s =
      .next ((s.updateRun r.run (fun x => { x with refresh := some (s.now + 60) })).settle s [r.run])) ∧
    ((enters → exec (.claimPeriodEntry r.run) s =
        .next ((s.updateRun r.run (fun x => { x with refresh := some (s.now + 60) })).settle s [r.run])) ∧
      (¬ enters → exec (.claimPeriodEntry r.run) s = .next (s.settle s [r.run])))

/-- A spare that may serve wildcard runs of a class (R143): PARKED, named, of the class, free and not held. -/
def Sys2Proof.Claims.spare (b : Bus) (k : BusClass) : Prop :=
  (∃ lane pos, b.place = .parked lane pos) ∧ b.fleet ≠ none ∧ b.cls = k ∧ b.run = none ∧ b.hold = false

/-- An eligible spare of the node: promised to no CLAIMING run besides (R143). -/
def Sys2Proof.Claims.eligible (s : State) (b : Bus) (k : BusClass) : Prop :=
  b ∈ s.buses.records ∧ Claims.spare b k ∧
    ∀ q ∈ s.runs.runs, q.state = .claiming → ∀ c, q.claim = some c → b.fleet ≠ some c.fleet

/-- The record is ready for a run of this allowance, an absent need counting as 6 000 Wh short of nothing (R37). -/
def Sys2Proof.Claims.ready (b : Bus) (allowance : Nat) : Prop :=
  match b.need with | some n => n ≤ allowance | none => allowance = 6000

/-- The blockers of a position for a service value: the records nearer to the leaving position of the lane that have no
pull-out, or a later one than the value (R157). -/
def Sys2Proof.Claims.blockers (s : State) (lane pos v : Nat) : List Bus :=
  let nearer := fun (x : Bus) => match x.place with
    | .parked l p | .shunting l p | .released l p => l == lane && decide (p < pos)
    | _ => false
  s.buses.records.filter (fun x => nearer x && (x.pullOut.isNone || decide (v < s.busService x)))

/-- The best eligible spare of a run is one of least cost, of the lowest fleet among those; its cost counts its blockers
(R157), and its shortfall where it is not ready (R143, R144). A claim test in RUN, in the claim period, claims with it from
PENDING, and from CLAIMED_ELSEWHERE where it is the better; it is made where the run has come to wait, has changed its state
while it waits, or has gained a spare, and not at a CLOCK alone while it waits already (R145, R146; the MODEL's choice,
log 45). A claim whose spare is no spare any more is withdrawn (R150). -/
def Obligations.ClaimsAreMadeAndWithdrawn : Prop :=
  (∀ (s : State) (r : Run) (k : BusClass), r.demand = .ofClass k →
    (s.bestSpare r = none ↔ ∀ b, ¬ Claims.eligible s b k) ∧
    (∀ cost fleet, s.bestSpare r = some (cost, fleet) →
      (∃ b, Claims.eligible s b k ∧ b.fleet = some fleet ∧ s.spareCost r b = cost) ∧
      (∀ b f, Claims.eligible s b k → b.fleet = some f →
        cost < s.spareCost r b ∨ cost = s.spareCost r b ∧ fleet ≤ f)) ∧
    (∀ b lane pos, b.place = .parked lane pos →
      let blockers := (Claims.blockers s lane pos (s.service r.pullOut)).length
      let short := (match b.need with | some n => n | none => 6000) - r.allowance
      (Claims.ready b r.allowance → s.spareCost r b = blockers * 100) ∧
      (¬ Claims.ready b r.allowance → s.spareCost r b = 1000 + blockers * 100 + min ((short + 9) / 10) 99))) ∧
  (∀ (s : State) (r : Run), s.runOf r.run = some r →
    let claims := fun (cost fleet : Nat) => (s.updateRun r.run (fun x => { x with
      state := .claiming, claim := some ⟨fleet, cost⟩, window := some (s.now + s.cfg.claimWindow), heardOther := false })).send
        (.claim r.run fleet cost)
    (∀ cost fleet, s.inRun = true → s.inClaimPeriod r = true → s.bestSpare r = some (cost, fleet) →
      (r.state = .pending → s.claimTest r.run = claims cost fleet) ∧
      (∀ h, r.state = .claimedElsewhere → r.best = some h →
        let better := cost < h.cost ∨ cost = h.cost ∧ s.cfg.station < h.station
        (better → s.claimTest r.run = claims cost fleet) ∧ (¬ better → s.claimTest r.run = s))) ∧
    (s.inRun = false ∨ ¬ Claims.waiting s r ∨ s.bestSpare r = none → s.claimTest r.run = s) ∧
    (s.inClaimPeriod r = true ↔ s.cfg.wildcard = true ∧ s.clock.isSet = true ∧ r.isWildcard = true ∧
      -((s.cfg.lateGrace * 60 : Nat) : Int) < timeToGo s.clock.time (r.pullOut * 60) ∧
      timeToGo s.clock.time (r.pullOut * 60) ≤ (s.cfg.claimLead * 60 : Nat)) ∧
    (∀ c k, r.state = .claiming → r.claim = some c → r.demand = .ofClass k →
      let stays := ∃ b ∈ s.buses.records, b.fleet = some c.fleet ∧ Claims.spare b k
      let t := s.updateRun r.run (fun x => { x with
        state := if x.best.isSome then .claimedElsewhere else .pending, claim := none, window := none })
      (stays → s.withdrawClaim r.run = s) ∧
      (¬ stays → s.withdrawClaim r.run = if s.inRun then t.send (.claim r.run c.fleet 4095) else t)) ∧
    (r.state ≠ .claiming → s.withdrawClaim r.run = s)) ∧
  (∀ (s before : State) (extra : List Nat),
    let gained := fun (r : Run) => ∃ b, (∃ k, r.demand = .ofClass k ∧ Claims.eligible s b k) ∧
      ∀ k old, r.demand = .ofClass k → old.id = b.id → ¬ Claims.eligible before old k
    let entered := fun (r : Run) => ∀ old, before.runOf r.run = some old → ¬ Claims.waiting before old ∨ old.state ≠ r.state
    ∃ called : Run → Bool, (∀ r, called r = true ↔ r.run ∈ extra ∨ Claims.waiting s r ∧ (entered r ∨ gained r)) ∧
      State.claimTests before extra s = ((s.runs.runs.filter called).map (·.run)).foldl (fun t n => t.claimTest n) s)

/-- A run that a fleet may be bound to: PENDING or MINE, its demand the fleet (R140), and kept by no RELEASED record (the
MODEL's reading, log 19). -/
def Sys2Proof.Claims.choosable (s : State) (fleet : Nat) (r : Run) : Prop :=
  r ∈ s.runs.runs ∧ r.demand = .fleet fleet ∧ (r.state = .pending ∨ r.state = .mine) ∧
    ∀ b ∈ s.buses.records, b.isReleased = true → b.run ≠ some r.run

/-- The run made MINE, and the record bound to it with copies of its pull-out and route (R140, R141). -/
def Sys2Proof.Claims.bound (b : Bus) (r : Run) (s : State) : State :=
  (s.updateRun r.run (fun x => { x with state := .mine })).updateBus b.id
    (fun x => { x with run := some r.run, pullOut := some r.pullOut, route := some r.route })

/-- The binding test of a named record binds it to the lowest-numbered run that may be chosen, giving up the run it had: a
MINE one becomes PENDING, a wildcard one withdrawn besides; a RELEASED record, and one of a run LATE with the own mark, is
passed over. The tests are made of every record in turn (R140, R141, R150; log 7, 19). -/
def Obligations.BindingTestsBindTheLowestRun : Prop :=
  (∀ (s : State) (b : Bus) (fleet : Nat), (s.buses.records.map (·.id)).Nodup → (s.runs.runs.map (·.run)).Pairwise (· < ·) →
    b ∈ s.buses.records → b.fleet = some fleet →
    let passed := b.isReleased = true ∨ ∃ n r, b.run = some n ∧ s.runOf n = some r ∧ r.state = .late ∧ r.ownMark = true
    (passed ∨ (∀ r, ¬ Claims.choosable s fleet r) → s.bindBus b.id = s) ∧
    (∀ r, ¬ passed → Claims.choosable s fleet r → (∀ q, Claims.choosable s fleet q → r.run ≤ q.run) →
      (b.run = some r.run → s.bindBus b.id = s) ∧
      (b.run = none → s.bindBus b.id = Claims.bound b r s) ∧
      (∀ n, b.run = some n → n ≠ r.run →
        (∀ q, s.runOf n = some q → q.state = .mine →
          let t := s.updateRun n (fun x => { x with state := .pending, claim := none })
          s.bindBus b.id = Claims.bound b r (if q.isWildcard ∧ s.inRun then t.send (.claim n fleet 4095) else t)) ∧
        ((∀ q, s.runOf n = some q → q.state ≠ .mine) → s.bindBus b.id = Claims.bound b r s)))) ∧
  (∀ s : State, (∀ b ∈ s.buses.records, b.fleet = none → (s.buses.records.map (·.id)).Nodup → s.bindBus b.id = s) ∧
    s.bindAll = (s.buses.records.map (·.id)).foldl (fun t id => t.bindBus id) s)

/-! ### Morning departure (R156 to R176) -/

/-- The departure front is the lowest-numbered run in a holding state, and a front that has moved above the front mark raises
the mark to itself (R135, R155; log 16). A run that no station serves lapses when its grace has passed (R169). A MINE run at
the front is made LATE when its release lead is reached and its bus is the reason that it cannot leave, one after another
while the front moves (R166): own mark set, its own claim gone (the MODEL's, log 22), LATE sent, its alert raised (R167).
After each, the front mark follows the front; that lapses and lateness come before the release and shunt tests at every
command is the MODEL's order (log 7). A shunt order takes its bus out of PARKED, so lateness and release are tested again after
the shunt tests (R166). A run number is behind the front below the mark, and at it where no holding run has it (R135). -/
def Obligations.LapsesAndLatenessMoveTheFront : Prop :=
  (∀ s before : State,
    let moved := fun (n : Nat) => s.front = some n ∧ before.front ≠ some n ∧ before.runs.runs ≠ [] ∧ s.runs.frontMark < n
    (∀ n, moved n → s.raiseFront before = s.setRuns { s.runs with frontMark := n }) ∧
    ((∀ n, ¬ moved n) → s.raiseFront before = s)) ∧
  (∀ (s : State) (n : Nat), (s.runs.runs.map (·.run)).Pairwise (· < ·) →
    let holds := fun (r : Run) => r.state = .pending ∨ r.state = .claiming ∨ r.state = .claimedElsewhere ∨ r.state = .mine
    (s.front = some n ↔ (∃ r ∈ s.runs.runs, r.run = n ∧ holds r) ∧ ∀ q ∈ s.runs.runs, holds q → n ≤ q.run) ∧
    (s.behindFront n = true ↔ n < s.runs.frontMark ∨ n = s.runs.frontMark ∧ ∀ r ∈ s.runs.runs, r.run = n → ¬ holds r)) ∧
  (∀ (s : State) (r : Run), s.runOf r.run = some r →
    let lapses := (r.state = .pending ∨ r.state = .claiming ∨ r.state = .claimedElsewhere) ∧ s.clock.isSet = true ∧
      timeToGo s.clock.time (r.pullOut * 60) ≤ -((s.cfg.lateGrace * 60 : Nat) : Int)
    (lapses → s.lapseRun r.run =
      (s.updateRun r.run (fun x => { x with state := .lapsed, claim := none, window := none })).raiseFront s) ∧
    (¬ lapses → s.lapseRun r.run = s)) ∧
  (∀ (s : State) (r : Run), s.lateDue r = true ↔ (s.node.state = .run ∨ s.node.state = .mute) ∧ s.clock.isSet = true ∧
    r.state = .mine ∧ s.front = some r.run ∧ timeToGo s.clock.time (r.pullOut * 60) ≤ (s.cfg.releaseLead * 60 : Nat) ∧
    (∀ rel, s.departures.release = some rel → rel.run ≠ r.run) ∧
    ∃ b, s.boundTo r.run = some b ∧ ¬ ((∃ l lane pos, b.place = .parked lane pos ∧ s.laneOf lane = some l ∧
      s.leavingPos l = some pos) ∧ Claims.ready b r.allowance ∧ b.hold = false)) ∧
  (∀ (s : State) (k : Nat),
    (∀ r, s.runs.runs.find? (fun r => s.lateDue r) = some r → State.latenessTests (k + 1) s =
      State.latenessTests k ((((s.updateRun r.run (fun x => { x with state := .late, ownMark := true, claim := none })).send
        (.late r.run)).raise .runLate r.run).raiseFront s)) ∧
    ((∀ r ∈ s.runs.runs, s.lateDue r = false) → State.latenessTests k s = s) ∧
    s.lapseRuns = (s.runs.runs.map (·.run)).foldl (fun t n => t.lapseRun n) s ∧
    (let turns := fun (t : State) => (State.latenessTests (t.runs.runs.length + 1) t).releaseTest;
      s.departureTests = turns (turns s.lapseRuns).clearFailed.shuntTests))

/-- The conditions of a release of run `r` with the bound record `b` at a position of a lane (R158). -/
def Sys2Proof.Claims.mayLeave (s : State) (r : Run) (b : Bus) (lane pos : Nat) : Prop :=
  (s.node.state = .run ∨ s.node.state = .mute) ∧ s.clock.isSet = true ∧
  ((r.state = .mine ∧ s.front = some r.run) ∨ (r.state = .late ∧ r.ownMark = true)) ∧
  timeToGo s.clock.time (r.pullOut * 60) ≤ (s.cfg.releaseLead * 60 : Nat) ∧
  (∀ x, s.departures.lastExit = some x → s.cfg.exitGap ≤ secondsBetween s.clock.time x) ∧
  s.departures.release = none ∧ s.boundTo r.run = some b ∧ b.place = .parked lane pos ∧
  (∃ l, s.laneOf lane = some l ∧ s.leavingPos l = some pos) ∧
  Claims.ready b r.allowance ∧ b.hold = false

/-- A release of a run may begin exactly under the conditions of R158; the lowest-numbered such run is released: its
record is RELEASED, the release timer starts, and the charger at the berth drops to 0. Where no run may be released, nothing
happens (R158 to R160). The exit signal of a lane is green exactly while a release from it is in progress (R154, R177, R202). -/
def Obligations.ReleaseBeginsUnderItsConditions : Prop :=
  (∀ (s : State) (n : Nat), s.exitSignal n = true ↔
    Claims.outputsOn s ∧ ∃ rel, s.departures.release = some rel ∧ rel.lane = n) ∧
  ∀ (s : State) (r : Run),
    ((∀ x ∈ s.runs.runs, s.releasable x = false) → s.releaseTest = s) ∧
    (s.releasable r = true ↔ ∃ b lane pos, Claims.mayLeave s r b lane pos) ∧
    (∀ b lane pos fleet, s.runs.runs.find? (fun x => s.releasable x) = some r → Claims.mayLeave s r b lane pos →
      b.fleet = some fleet →
      let t := s.updateBus b.id (fun x => { x with place := .released lane pos })
      let release : Release := ⟨r.run, fleet, lane, pos, s.now + s.cfg.releaseTimeout * 60, r.demand⟩
      let chargers := s.charging.chargers.map (fun c =>
        if c.lane = lane ∧ c.pos = pos then { c with target := 0, planned := 0, present := 0, ramp := none } else c)
      s.releaseTest = (t.setDepartures { s.departures with release := some release }).setCharging { s.charging with chargers := chargers })

/-- What a release that ends without a departure and without a notice leaves (R162, R164, R167): a MINE run is made LATE at
its own node with the alert; where `again`, so is one LATE already; else RELEASE_TIMEOUT is raised where it was the timer. -/
def Sys2Proof.Claims.lateFor (alert : AlertCode) (again : Bool) (r : Run) (s : State) : State :=
  if r.state = .mine ∨ (again = true ∧ r.state = .late) then
    ((s.updateRun r.run (fun x => { x with state := .late, ownMark := true, claim := none })).send (.late r.run)).raise alert r.run
  else if alert = .releaseTimeout then s.raise alert r.run
  else s

/-- A release that ends without a departure, the released record standing at its berth. It returns to PARKED there, with the
need its charger repeats; its run is made LATE if MINE, its own claim gone (the MODEL's, log 22); and a run whose demand a
RUN has changed meanwhile lets the record go, its own mark cleared (R137, R162, R164; log 19). Where a survey deletes the
record, its release ends, the run is made LATE, an already LATE one with its notice and alert once more (the MODEL's reading,
log 31), and the own mark goes with the record (R34, R164). -/
def Obligations.ReleasesEndWithoutADeparture : Prop :=
  ∀ (s : State) (rel : Release) (b : Bus) (r : Run) (lane pos : Nat), s.departures.release = some rel →
    s.busOf rel.fleet = some b → b.place = .released lane pos → b.run = some rel.run → s.runOf rel.run = some r →
    r.state = .mine ∨ r.state = .late → (s.runs.runs.map (·.run)).Nodup →
    let unmarked := fun (t : State) => t.updateRun rel.run (fun x => { x with ownMark := false })
    let closed := fun (t : State) => t.setDepartures { s.departures with release := none }
    let back := ((closed s).updateBus b.id (fun x => { x with place := .parked lane pos })).repeatNeed lane pos
    s.endRelease = back ∧
    (∀ alert again,
      (r.demand = rel.demand → s.failRelease alert again = Claims.lateFor alert again r back) ∧
      (r.demand ≠ rel.demand → s.failRelease alert again = unmarked ((Claims.lateFor alert again r back).updateBus b.id
        (fun x => { x with run := none, pullOut := none, route := none })))) ∧
    ((s.buses.records.map (·.id)).Nodup → (s.buses.records.filterMap (·.fleet)).Nodup →
      s.deleteBus b.id = unmarked (Claims.lateFor .runLate true r (closed (Claims.removed b.id s))))

/-- A shunt of the record `x` at the leaving position `k` of a lane is wanted for a run of this node, whose record `b` stands
behind it (R171). -/
def Sys2Proof.Claims.shuntWanted (s : State) (r : Run) (b x : Bus) (l : Lane) (lane pos k : Nat) : Prop :=
  s.cfg.impliedShunt = true ∧ (s.node.state = .run ∨ s.node.state = .mute) ∧
  (r.state = .mine ∨ r.state = .late ∧ r.ownMark = true) ∧ s.clock.isSet = true ∧
  timeToGo s.clock.time (r.pullOut * 60) ≤ (s.cfg.shuntLead * 60 : Nat) ∧
  s.boundTo r.run = some b ∧ b.place = .parked lane pos ∧ s.laneOf lane = some l ∧ s.leavingPos l = some k ∧ k < pos ∧
  s.occupant lane k = some x ∧ x.place = .parked lane k ∧ (x.pullOut = none ∨ s.busService b < s.busService x) ∧
  (∀ o ∈ s.departures.shunts, o.fromLane ≠ lane) ∧ s.departures.shunts.length < 4 ∧ (lane, x.id) ∉ s.departures.failed

/-- The shunt test of a run: where a shunt is wanted, the blocker is ordered to the best lane of the node but its own, with a
SHUNT reservation there; a placeholder, or a blocker that no lane fits, is marked with SHUNT_FAILED instead; else nothing
happens. The target is the fitting lane of least cost, the lowest-numbered among equals, its to-berth that of the entry
position. A shunt-failed mark goes when another record, or none, stands at the leaving position (R171, R172, R175; that it goes
where the other record stood there before the mark was set is the MODEL's choice, log 38). The shunt display shows the order
issued or reissued last, which is the last of the orders, and is blank with none (R176). -/
def Obligations.ShuntTestsOrderTheBlocker : Prop :=
  (∀ (s : State) (r : Run) (b x : Bus) (l : Lane) (lane pos k : Nat), (s.buses.records.map (·.id)).Nodup →
    s.runOf r.run = some r → Claims.shuntWanted s r b x l lane pos k →
    let failed := fun (subject : Nat) => (s.setDepartures { s.departures with
      failed := s.departures.failed.filter (fun m => m.1 != lane) ++ [(lane, x.id)] }).raise .shuntFailed subject
    (x.fleet = none → s.shuntTest r.run = failed lane) ∧
    (∀ fleet, x.fleet = some fleet →
      (s.shuntTarget x lane = none → s.shuntTest r.run = failed fleet) ∧
      (∀ target toBerth, s.shuntTarget x lane = some (target, toBerth) →
        let t := (s.updateLane target (fun y => { y with reservations := y.reservations ++ [⟨.shunt, fleet⟩] })).updateBus x.id
          (fun y => { y with place := .shunting lane k })
        let order : ShuntOrder := ⟨fleet, r.run, lane, k, l.berthAt k, target, toBerth, true, .atFrom, 1, s.now + s.cfg.shuntTimeout * 60⟩
        s.shuntTest r.run = t.setDepartures { s.departures with shunts := s.departures.shunts ++ [order] }))) ∧
  (∀ (s : State) (r : Run), (s.buses.records.map (·.id)).Nodup → s.runOf r.run = some r →
    (∀ b x l lane pos k, ¬ Claims.shuntWanted s r b x l lane pos k) → s.shuntTest r.run = s) ∧
  (∀ (s : State) (x : Bus) (lane : Nat), (s.lanes.map (·.number)).Nodup →
    let need : Need := ⟨x.cls, x.route, s.busService x, (x.run.bind s.runOf).map (·.allowance) != some 6000⟩
    let fits := fun (l : Lane) => l ∈ s.lanes ∧ l.number ≠ lane ∧ s.laneFits l need = true
    (s.shuntTarget x lane = none ↔ ∀ l, ¬ fits l) ∧
    (∀ target toBerth, s.shuntTarget x lane = some (target, toBerth) → ∃ l p, fits l ∧ l.number = target ∧
      s.entryPos l = some p ∧ toBerth = l.berthAt p ∧ ∀ y, fits y → s.laneCost l need.service < s.laneCost y need.service ∨
        s.laneCost l need.service = s.laneCost y need.service ∧ target ≤ y.number)) ∧
  (∀ s : State, (s.departures.shunts = [] → s.shuntDisplay = none) ∧
    (∀ before o, s.departures.shunts = before ++ [o] → s.shuntDisplay = some o)) ∧
  (∀ (s : State) (m : Nat × Nat), m ∈ s.clearFailed.departures.failed ↔ m ∈ s.departures.failed ∧
    ∃ l b, s.laneOf m.1 = some l ∧ s.leavingBus l = some b ∧ b.id = m.2)

/-- A shunt order put last, with one attempt more and its timer started again (R174, R176). -/
def Sys2Proof.Claims.reissued (o : ShuntOrder) (s : State) : State :=
  let again := { o with attempts := o.attempts + 1, timer := s.now + s.cfg.shuntTimeout * 60 }
  s.setDepartures { s.departures with shunts := s.departures.shunts.filter (fun x => x.fleet != o.fleet) ++ [again] }

/-- A shunt order gone, with its reservation when that stands (R174). -/
def Sys2Proof.Claims.unordered (o : ShuntOrder) (s : State) : State :=
  let t := if o.reserved then Claims.unreserved o.target ⟨.shunt, o.fleet⟩ s else s
  t.setDepartures { t.departures with shunts := t.departures.shunts.filter (fun x => x.fleet != o.fleet) }

/-- The instants of R156 and the exit gap call for the tests. The release timer returns the record to its berth, makes a MINE
run LATE, its own claim gone (the MODEL's, log 22), and raises RELEASE_TIMEOUT. A shunt timer reissues the order below the
attempt limit, in the lanes with a new target, and gives it up with SHUNT_FAILED at the limit. What the tests of an instant
do has statements of its own (R156, R162, R165, R174; log 7, 19). -/
def Obligations.DepartureTimersAndInstants : Prop :=
  ∀ (s : State) (n : Nat),
    (exec (.shuntLeadReached n) s = .next (s.settle s []) ∧ exec (.releaseLeadReached n) s = .next (s.settle s []) ∧
      exec (.gracePassed n) s = .next (s.settle s []) ∧ exec .exitGapHolds s = .next (s.settle s [])) ∧
    (∀ rel b lane pos r, s.active = true → s.departures.release = some rel → rel.timer ≤ s.now →
      s.busOf rel.fleet = some b → b.place = .released lane pos → s.runOf rel.run = some r → r.demand = rel.demand →
      let t := ((s.setDepartures { s.departures with release := none }).updateBus b.id (fun x => { x with place := .parked lane pos })).repeatNeed lane pos
      (r.state = .late → exec .releaseTimerExpiry s = .next ((t.raise .releaseTimeout rel.run).settle s [])) ∧
      (r.state = .mine → exec .releaseTimerExpiry s = .next ((((t.updateRun rel.run (fun x =>
        { x with state := .late, ownMark := true, claim := none })).send (.late rel.run)).raise .releaseTimeout
          rel.run).settle s []))) ∧
    (∀ fleet o x, s.active = true → s.shuntOf fleet = some o → s.busOf fleet = some x → o.timer ≤ s.now →
      let gone := Claims.unordered o s
      let free := if o.reserved then Claims.unreserved o.target ⟨.shunt, o.fleet⟩ s else s
      let marked := gone.updateBus x.id (fun y => { y with place := .parked o.fromLane o.fromPos })
      let givenUp := (marked.setDepartures { marked.departures with
        failed := marked.departures.failed.filter (fun m => m.1 != o.fromLane) ++ [(o.fromLane, x.id)] }).raise .shuntFailed o.fleet
      (o.attempts < s.cfg.shuntAttempts → o.phase = .between →
        exec (.shuntTimerExpiry fleet) s = .next ((Claims.reissued o s).settle s [])) ∧
      (s.cfg.shuntAttempts ≤ o.attempts → o.phase = .between → exec (.shuntTimerExpiry fleet) s =
        .next (((gone.updateBus x.id (fun y => { y with place := .transit o.fromLane s.now true none })).raise .shuntFailed
          o.fleet).settle s [])) ∧
      (s.cfg.shuntAttempts ≤ o.attempts → o.phase = .atFrom →
        exec (.shuntTimerExpiry fleet) s = .next (givenUp.settle s [])) ∧
      (o.attempts < s.cfg.shuntAttempts → o.phase = .atFrom →
        (free.shuntTarget x o.fromLane = none → exec (.shuntTimerExpiry fleet) s = .next (givenUp.settle s [])) ∧
        (∀ target toBerth, free.shuntTarget x o.fromLane = some (target, toBerth) → exec (.shuntTimerExpiry fleet) s =
          .next ((Claims.reissued { o with target := target, toBerth := toBerth, reserved := true }
            (free.updateLane target (fun y => { y with reservations := y.reservations ++ [⟨.shunt, o.fleet⟩] }))).settle s []))))

/-- The last exit after a second of a DEPART is offered (R165). -/
def Sys2Proof.Claims.exitAfter (s : State) (x : Nat) : Nat :=
  let now := s.clock.time
  if s.clock.isSet = false then x
  else if 0 < timeToGo now x then now
  else match s.departures.lastExit with
    | none => x
    | some last => if secondsBetween now x ≤ secondsBetween now last then x else last

/-- DEPART and LATE heard. A DEPART offers its second to the last exit, and its run becomes DEPARTED with its record
freed; in release it ends the release, with DOUBLE_DEPARTURE; so it is raised for a run this node departed itself. A LATE
makes a run LATE, with the own mark for a MINE one (R163, R165, R168, R170; log 22). -/
def Obligations.DepartAndLateHeard : Prop :=
  ∀ (s : State) (sender n fleet second : Nat), Claims.heardFrom s sender → 1 ≤ n → n ≤ 999 → 1 ≤ fleet → fleet ≤ 9999 →
    second ≤ 86399 →
    let u := s.frameEnded
    let t := u.setDepartures { s.departures with lastExit := some (Claims.exitAfter s second) }
    let gone := fun (v : State) => (Claims.freed n v).updateRun n
      (fun x => { x with state := .departed, claim := none, window := none, ownMark := false })
    let late := fun (own : Bool) => u.updateRun n
      (fun x => { x with state := .late, claim := none, window := none, ownMark := own })
    let departs := fun (v : State) => exec (.depart sender n fleet second) s = .next (v.settle u [])
    let lates := fun (v : State) => exec (.late sender n) s = .next (v.settle u [])
    (s.runOf n = none → departs t ∧ lates u) ∧
    (∀ r, s.runOf n = some r →
      (r.state = .departed → lates u ∧ departs (if r.ownDeparture then t.raise .doubleDeparture n else t)) ∧
      (r.state = .cancelled → departs t ∧ lates u) ∧
      (r.state = .lapsed → departs (gone t) ∧ lates u) ∧
      (r.state = .pending ∨ r.state = .claiming ∨ r.state = .claimedElsewhere → departs (gone t) ∧ lates (late false)) ∧
      (r.state = .mine → lates (late true)) ∧ (r.state = .late → lates u) ∧
      (r.state = .mine ∨ r.state = .late →
        departs (if s.departures.release.any (fun rel => rel.run == n) then (gone t.endRelease).raise .doubleDeparture n else gone t)))

/-! ### The yard link (R179 to R189, R192) -/

/-- The bytes of some fields, each a width in bytes and a value, the most significant byte first (R180). -/
def Sys2Proof.Claims.bytes (fields : List (Nat × Nat)) : List Byte :=
  fields.flatMap (fun f => (List.range f.1).map (fun i => BitVec.ofNat 8 (f.2 / 256 ^ (f.1 - 1 - i))))

/-- A flags byte from its bits, bit 0 first (R183). -/
def Sys2Proof.Claims.flags : List Bool → Nat
  | [] => 0
  | b :: bs => (if b then 1 else 0) + 2 * Claims.flags bs

/-- The code of a value in a table that numbers its values from 1. -/
def Sys2Proof.Claims.code {α : Type} [DecidableEq α] (table : List α) (x : α) : Nat := table.idxOf x + 1

def Sys2Proof.Claims.classCode (c : BusClass) : Nat := Claims.code [.midi, .standard, .artic] c
def Sys2Proof.Claims.groupCode (g : Group) : Nat := Claims.code [.a, .b, .c] g
def Sys2Proof.Claims.feederCode (st : FeederState) : Nat := Claims.code [.opened, .peak, .shed] st
def Sys2Proof.Claims.stageCode (st : StageState) : Nat :=
  Claims.code [.empty, .spinup, .dwell, .doneWait, .leaving, .runon, .fault] st
def Sys2Proof.Claims.runCode (st : RunState) : Nat :=
  Claims.code [.pending, .claiming, .claimedElsewhere, .mine, .late, .departed, .lapsed, .cancelled] st
def Sys2Proof.Claims.alertNumber (c : AlertCode) : Nat :=
  Claims.code [.configBad, .configClamped, .stationClash, .linkCongested, .laneSuspect, .stray, .mispark, .noBerth, .entryOverflow,
    .busTableFull, .washStageTimeout, .frostHold, .chargerFault, .runListFull, .runLate, .shuntFailed, .releaseTimeout,
    .doubleDeparture] c

/-- The commands that are completed frames on the line (R181, R184). -/
def Sys2Proof.Claims.isFrame : Instr → Bool
  | .roll .. | .draw .. | .feeder .. | .clock .. | .run .. | .runCancel .. | .clearRuns .. | .parkCall .. => true
  | .offer .. | .take .. | .found .. | .claim .. | .depart .. | .late .. | .answerOrAlertHeard .. => true
  | .frameRejected .. | .orderForAnotherStation .. | .orderUnknownKind .. => true
  | .survey .. | .identify .. | .laneOpen .. | .laneClose .. | .laneKind .. | .washSkip .. | .washResume .. => true
  | .hold .. | .unhold .. | .feed .. | .forget .. | .ack .. | .report .. | .restart .. => true
  | _ => false

/-- Nothing is read in LOADING or while the reset line is held. Else every frame ends, and the receiver then ignores the line
until it has been idle for 10 bit times; a frame in that time has no other effect, nor has one in CONFIG_FAULT. A frame taken
that is no affair of the node's, or whose bytes fail a test of R184, has none either; bytes that pass every test are taken as
the command they spell (log 24). An abandoned frame makes the receiver wait, for the idle alone that its first cause has
brought; an idle makes it ready, unless a frame is under way (R181, R184, R185, R192, R200, R202, R206; the idle count is the
model's, log 10). -/
def Obligations.ReceiverTakesTheLine : Prop :=
  ∀ s : State,
    let reads := s.node.resetLine = .released ∧ (s.active = true ∨ s.node.state = .configFault)
    let ended := s.setLink { s.link with receiver := .waitIdle, idle := 0 }
    (¬ reads → (∀ c, Claims.isFrame c = true → exec c s = .next s) ∧ (∀ cause, exec (.frameAbandoned cause) s = .next s)) ∧
    (reads →
      (¬ Claims.hearing s → ∀ c, Claims.isFrame c = true → exec c s = .next ended) ∧
      exec (.frameAbandoned .stopBitLow) s = .next ended ∧ exec (.frameAbandoned .lengthAbove32) s = .next ended ∧
      exec (.frameAbandoned .idle) s = .next (s.setLink { s.link with receiver := .ready, idle := 10 })) ∧
    (Claims.hearing s →
      (∀ sender kind body, exec (.answerOrAlertHeard sender kind body) s = .next ended) ∧
      (∀ sender target tag kind args, exec (.orderForAnotherStation sender target tag kind args) s = .next ended) ∧
      (∀ bytes, readFrame s.cfg.station bytes = none → exec (.frameRejected bytes) s = .next ended)) ∧
    (∀ bytes c, readFrame s.cfg.station bytes = some c → exec (.frameRejected bytes) s = exec c s) ∧
    (Claims.countsIdle s → exec .idleOf10BitTimes s = .next (Claims.idled 10 s)) ∧
    (¬ Claims.countsIdle s → exec .idleOf10BitTimes s = .next s)

/-- The fields of a notice lie in the ranges of the notice table (R183). -/
def Sys2Proof.Claims.inRange : Notice → Prop
  | .roll _ d m => 1 ≤ d.lanes ∧ d.lanes ≤ 8 ∧ 1 ≤ d.berths ∧ d.berths ≤ 48 ∧ d.chargers ≤ 48 ∧ ∀ g, groupGet m g ≤ 4000
  | .draw c p => ∀ g, groupGet c g ≤ 4000 ∧ groupGet p g ≤ 4000
  | .feeder _ _ _ => True
  | .parkCall c => c.seq ≤ 255 ∧ 1 ≤ c.fleet ∧ c.fleet ≤ 9999 ∧ (∀ r, c.route = some r → r ≤ 255) ∧
      (∀ m, c.pullOut = some m → m ≤ 1439)
  | .offer caller seq cost => 1 ≤ caller ∧ caller ≤ 31 ∧ seq ≤ 255 ∧ cost ≤ 4094
  | .take caller seq lane cost => 1 ≤ caller ∧ caller ≤ 31 ∧ seq ≤ 255 ∧ 1 ≤ lane ∧ lane ≤ 8 ∧ cost ≤ 4094
  | .found fleet lane => 1 ≤ fleet ∧ fleet ≤ 9999 ∧ 1 ≤ lane ∧ lane ≤ 8
  | .claim n fleet cost => 1 ≤ n ∧ n ≤ 999 ∧ 1 ≤ fleet ∧ fleet ≤ 9999 ∧ cost ≤ 4095
  | .depart n fleet seconds => 1 ≤ n ∧ n ≤ 999 ∧ 1 ≤ fleet ∧ fleet ≤ 9999 ∧ seconds ≤ 86399
  | .late n => 1 ≤ n ∧ n ≤ 999
  | .answer station _ _ _ payload => station ≤ 31 ∧ payload.length ≤ 28
  | .alert _ subject time => subject ≤ 9999 ∧ ∀ x, time = some x → x ≤ 86399

/-- The sum of some bytes, taken in pairs as numbers of 16 bits, an odd last byte paired with a zero (R182). -/
def Sys2Proof.Claims.pairSum : List Byte → Nat
  | [] => 0
  | [x] => x.toNat * 256
  | x :: y :: rest => x.toNat * 256 + y.toNat + Claims.pairSum rest

/-- A sum of words that an end-around carry brings to FFFFh: a multiple of 65 535 above 0 (R182, R198). -/
abbrev Sys2Proof.Claims.allOnes (sum : Nat) : Prop := 0 < sum ∧ sum % 65535 = 0

/-- A frame of some station: its header, its body, and the check, which is the complement of the end-around sum of what
stands before it; that sum is never 0, for a kind is not (R180, R182). -/
def Sys2Proof.Claims.frame (station kind : Nat) (body : List Byte) : List Byte :=
  let head := [byte station, byte kind, byte body.length] ++ body
  head ++ be16 ((65535 - Claims.pairSum head % 65535) % 65535)

/-- The order that a body of this station spells, by its kind (R207). -/
def Sys2Proof.Claims.orderOf (sender tag : Nat) (args : List Byte) : Nat → Instr
  | 0x01 => .survey sender tag args
  | 0x02 => .identify sender tag args
  | 0x03 => .laneOpen sender tag args
  | 0x04 => .laneClose sender tag args
  | 0x05 => .laneKind sender tag args
  | 0x06 => .washSkip sender tag args
  | 0x07 => .washResume sender tag args
  | 0x08 => .hold sender tag args
  | 0x09 => .unhold sender tag args
  | 0x0A => .feed sender tag args
  | 0x0B => .forget sender tag args
  | 0x0C => .ack sender tag args
  | 0x0D => .report sender tag args
  | 0x0E => .restart sender tag args
  | kind => .orderUnknownKind sender tag kind args

/-- The two bytes of a demand: a fleet, or FF01h, FF02h and FF03h for the classes (R183). -/
def Sys2Proof.Claims.demandBytes : Demand → List Byte
  | .fleet n => be16 n
  | .ofClass .midi => [0xFF, 1]
  | .ofClass .standard => [0xFF, 2]
  | .ofClass .artic => [0xFF, 3]

/-- The number that so many bytes of a body spell, from an offset on, the most significant first (R180, R183). -/
def Sys2Proof.Claims.field (body : List Byte) (off bytes : Nat) : Nat :=
  ((body.drop off).take bytes).foldl (fun n x => n * 256 + x.toNat) 0

/-- The notice table: each kind, its least and greatest length, and its fields that take a range, by offset, bytes, least and
greatest value (R183). -/
def Sys2Proof.Claims.noticeTable : List (Nat × Nat × Nat × List (Nat × Nat × Nat × Nat)) :=
  [(0x01, 10, 10, [(1, 1, 1, 8), (2, 1, 1, 48), (3, 1, 0, 48), (4, 2, 0, 4000), (6, 2, 0, 4000), (8, 2, 0, 4000)]),
   (0x02, 12, 12, [(0, 2, 0, 4000), (2, 2, 0, 4000), (4, 2, 0, 4000), (6, 2, 0, 4000), (8, 2, 0, 4000), (10, 2, 0, 4000)]),
   (0x03, 3, 3, [(0, 1, 1, 3), (1, 1, 1, 3), (2, 1, 0, 1)]),
   (0x04, 3, 3, [(0, 3, 0, 86399)]),
   (0x05, 9, 9, [(0, 2, 1, 999), (2, 2, 0, 1439), (7, 2, 0, 6000)]),
   (0x06, 2, 2, [(0, 2, 1, 999)]),
   (0x07, 0, 0, []),
   (0x08, 8, 8, [(1, 2, 1, 9999), (3, 1, 1, 3)]),
   (0x09, 4, 4, [(0, 1, 1, 31), (2, 2, 0, 4094)]),
   (0x0A, 5, 5, [(0, 1, 1, 31), (2, 1, 1, 8), (3, 2, 0, 4094)]),
   (0x0B, 3, 3, [(0, 2, 1, 9999), (2, 1, 1, 8)]),
   (0x0C, 6, 6, [(0, 2, 1, 999), (2, 2, 1, 9999), (4, 2, 0, 4095)]),
   (0x0D, 7, 7, [(0, 2, 1, 999), (2, 2, 1, 9999), (4, 3, 0, 86399)]),
   (0x0E, 2, 2, [(0, 2, 1, 999)]),
   (0x0F, 3, 32, [(0, 1, 0, 31)]),
   (0x10, 4, 32, [(0, 1, 0, 31), (2, 1, 1, 5)]),
   (0x11, 6, 6, [(1, 2, 0, 9999)])]

/-- The fields that take more than a range: the demand of a RUN, the pull-out of a PARK_CALL, which is examined only where its
flag is set, and the seconds of an ALERT (R183, R184). -/
def Sys2Proof.Claims.codesFit (kind : Nat) (body : List Byte) : Prop :=
  let f := Claims.field body
  (kind = 0x05 → 1 ≤ f 5 2 ∧ f 5 2 ≤ 9999 ∨ 0xFF01 ≤ f 5 2 ∧ f 5 2 ≤ 0xFF03) ∧
  (kind = 0x08 → f 4 1 / 2 % 2 = 1 → f 6 2 ≤ 1439) ∧
  (kind = 0x11 → f 3 3 ≤ 86399 ∨ f 3 3 = 0xFFFFFF)

/-- A body passes the tests of Kind, Length and Fields: its kind stands in the notice table with its length, and every field
has a value that the table gives for it (R184). -/
def Sys2Proof.Claims.bodyFits (kind : Nat) (body : List Byte) : Prop :=
  (∃ row ∈ Claims.noticeTable, row.1 = kind ∧ row.2.1 ≤ body.length ∧ body.length ≤ row.2.2.1 ∧
    ∀ x ∈ row.2.2.2, x.2.2.1 ≤ Claims.field body x.1 x.2.1 ∧ Claims.field body x.1 x.2.1 ≤ x.2.2.2) ∧
  Claims.codesFit kind body

/-- A notice as a command that fails a test of R184 at the station that reads it, or holds a value that no byte spells: a field
outside its range, the office's notices from another station, and any but a ROLL or a DRAW of the reader's own number (R183,
R184). -/
def Sys2Proof.Claims.discarded (own : Nat) : Instr → Prop
  | .roll sender _ _ _ lanes berths chargers x y z =>
    31 < sender ∨ Claims.outside 1 8 lanes ∨ Claims.outside 1 48 berths ∨ 48 < chargers ∨ 4000 < x ∨ 4000 < y ∨ 4000 < z
  | .draw sender x y z u v w => 31 < sender ∨ 4000 < x ∨ 4000 < y ∨ 4000 < z ∨ 4000 < u ∨ 4000 < v ∨ 4000 < w
  | .feeder sender .. => 31 < sender ∨ sender = own
  | .clock sender second => sender ≠ 0 ∨ sender = own ∨ 86399 < second
  | .run sender n minute route demand allowance =>
    sender ≠ 0 ∨ sender = own ∨ Claims.outside 1 999 n ∨ 1439 < minute ∨ 255 < route ∨ 6000 < allowance ∨
      ∃ fleet, demand = .fleet fleet ∧ Claims.outside 1 9999 fleet
  | .runCancel sender n => sender ≠ 0 ∨ sender = own ∨ Claims.outside 1 999 n
  | .clearRuns sender => sender ≠ 0 ∨ sender = own
  | .parkCall sender seq fleet _ route minute _ =>
    31 < sender ∨ sender = own ∨ 255 < seq ∨ Claims.outside 1 9999 fleet ∨ (∃ r, route = some r ∧ 255 < r) ∨
      ∃ m, minute = some m ∧ 1439 < m
  | .offer sender caller seq cost =>
    31 < sender ∨ sender = own ∨ Claims.outside 1 31 caller ∨ 255 < seq ∨ 4094 < cost
  | .take sender caller seq lane cost =>
    31 < sender ∨ sender = own ∨ Claims.outside 1 31 caller ∨ 255 < seq ∨ Claims.outside 1 8 lane ∨ 4094 < cost
  | .found sender fleet lane => 31 < sender ∨ sender = own ∨ Claims.outside 1 9999 fleet ∨ Claims.outside 1 8 lane
  | .claim sender n fleet cost =>
    31 < sender ∨ sender = own ∨ Claims.outside 1 999 n ∨ Claims.outside 1 9999 fleet ∨ 4095 < cost
  | .depart sender n fleet second =>
    31 < sender ∨ sender = own ∨ Claims.outside 1 999 n ∨ Claims.outside 1 9999 fleet ∨ 86399 < second
  | .late sender n => 31 < sender ∨ sender = own ∨ Claims.outside 1 999 n
  | .orderUnknownKind sender tag _ args => 31 < sender ∨ sender = own ∨ 255 < tag ∨ 29 < args.length
  | c => ∃ p ∈ Claims.orderKinds, ∃ sender tag args, c = p.1 sender tag args ∧
      (31 < sender ∨ sender = own ∨ 255 < tag ∨ 29 < args.length)

/-- The kind code of a notice and the fields of its body, each a width in bytes and a value (R183). -/
def Sys2Proof.Claims.laidOut : Notice → Nat × List (Nat × Nat)
  | .roll ask d m => (0x01, [(1, Claims.flags [ask, d.wash, d.bypass]), (1, d.lanes), (1, d.berths), (1, d.chargers),
      (2, m.a), (2, m.b), (2, m.c)])
  | .draw c p => (0x02, [(2, c.a), (2, c.b), (2, c.c), (2, p.a), (2, p.b), (2, p.c)])
  | .feeder g st hot => (0x03, [(1, Claims.groupCode g), (1, Claims.feederCode st), (1, if hot then 1 else 0)])
  | .parkCall c => (0x08, [(1, c.seq), (2, c.fleet), (1, Claims.classCode c.cls),
      (1, Claims.flags [c.route.isSome, c.pullOut.isSome, c.washed]), (1, c.route.getD 0), (2, c.pullOut.getD 0)])
  | .offer caller seq cost => (0x09, [(1, caller), (1, seq), (2, cost)])
  | .take caller seq lane cost => (0x0A, [(1, caller), (1, seq), (1, lane), (2, cost)])
  | .found fleet lane => (0x0B, [(2, fleet), (1, lane)])
  | .claim n fleet cost => (0x0C, [(2, n), (2, fleet), (2, cost)])
  | .depart n fleet second => (0x0D, [(2, n), (2, fleet), (3, second)])
  | .late n => (0x0E, [(2, n)])
  | .answer station tag code next payload => (0x10, [(1, station), (1, tag),
      (1, Claims.code [.done, .refused, .invalid, .busy, .notFound] code), (1, next)] ++ payload.map (fun b => (1, b.toNat)))
  | .alert code subject time => (0x11, [(1, Claims.alertNumber code), (2, subject), (3, time.getD 0xFFFFFF)])

/-- Every notice of the kinds that a node sends, with every field at every value of its range, is read from the bytes in
which it was sent as the command it is: check, header, lengths, codes and fields agree between the sender and the receiver;
its kind code and its body are those of the layout; and the frame is 5 bytes longer than its body. A frame of the receiver's own number is so read when it is a ROLL or a DRAW.
So are CLOCK, RUN, RUN_CANCEL and CLEAR_RUNS of station 0, and an ORDER of another station: one for the station that reads it
as the order of its kind, another as an order for another station. Bytes are read as a command where they pass every test of
R184, and only there: check, station, kind, length, fields, sender and own station; a frame ends with the two bytes that follow
its body. A notice given as a command that fails one of these tests has the effect of a discarded frame: the receiver waits for
the line to be idle, and the idle count starts again (R180 to R184, R186, R206, R207). -/
def Obligations.NoticesAreReadAsTheyWereSent : Prop :=
  (∀ (own station : Nat) (n : Notice), station ≤ 31 → Claims.inRange n →
    (station ≠ own ∨ n.isRoll = true ∨ n.isDraw = true) →
    readFrame own (n.wire station) = some (n.heardAs station) ∧ (n.wire station).length = n.body.length + 5 ∧
      n.wire station = Claims.frame station n.kind n.body) ∧
  (∀ n : Notice, n.kind = (Claims.laidOut n).1 ∧ n.body = Claims.bytes (Claims.laidOut n).2) ∧
  (∀ (own second n minute route allowance : Nat) (demand : Demand), own ≠ 0 → second ≤ 86399 → 1 ≤ n → n ≤ 999 →
    minute ≤ 1439 → route ≤ 255 → allowance ≤ 6000 → (∀ f, demand = .fleet f → 1 ≤ f ∧ f ≤ 9999) →
    readFrame own (Claims.frame 0 0x04 (be24 second)) = some (.clock 0 second) ∧
    readFrame own (Claims.frame 0 0x05 (be16 n ++ be16 minute ++ [byte route] ++ Claims.demandBytes demand ++ be16 allowance)) =
      some (.run 0 n minute route demand allowance) ∧
    readFrame own (Claims.frame 0 0x06 (be16 n)) = some (.runCancel 0 n) ∧
    readFrame own (Claims.frame 0 0x07 []) = some (.clearRuns 0)) ∧
  (∀ (own sender target tag kind : Nat) (args : List Byte), sender ≤ 31 → sender ≠ own → target ≤ 31 → tag ≤ 255 → kind ≤ 255 →
    args.length ≤ 29 →
    readFrame own (Claims.frame sender 0x0F ([byte target, byte tag, byte kind] ++ args)) = some
      (if target = own then Claims.orderOf sender tag args kind else .orderForAnotherStation sender target tag kind args)) ∧
  (∀ (own station kind check : Nat) (body : List Byte), station ≤ 255 → kind ≤ 255 → check ≤ 65535 → body.length ≤ 255 →
    let head := [byte station, byte kind, byte body.length] ++ body
    ((readFrame own (head ++ be16 check)).isSome = true ↔
      Claims.allOnes (Claims.pairSum head + check) ∧ station ≤ 31 ∧ Claims.bodyFits kind body ∧
        (4 ≤ kind → kind ≤ 7 → station = 0) ∧ (station = own → kind = 1 ∨ kind = 2))) ∧
  (∀ (own : Nat) (bytes : List Byte), (∀ x y z rest, bytes = x :: y :: z :: rest → rest.length ≠ z.toNat + 2) →
    readFrame own bytes = none) ∧
  ∀ (s : State) (c : Instr), s.frameEnded = s.setLink { s.link with receiver := .waitIdle, idle := 0 } ∧
    (Claims.hearing s → Claims.discarded s.cfg.station c → exec c s = .next s.frameEnded)

/-- The line: a bit takes 16, 8 or 4 µs; a byte is a low start bit, its bits with the most significant first, and a high stop
bit. Of two stations whose frames first differ at some byte, the one with the greater byte reads a level it does not drive,
within that byte, before the other does; two that send the same frame never do (R179, R187). -/
def Obligations.TheLowerFrameKeepsTheLine : Prop :=
  bitMicros 1 = 16 ∧ bitMicros 2 = 8 ∧ bitMicros 3 = 4 ∧
  (∀ (bytes : List Byte) (i : Nat) (b : Byte), bytes[i]? = some b →
    (frameLevels bytes)[10 * i]? = some false ∧ (frameLevels bytes)[10 * i + 9]? = some true ∧
    ∀ j, j < 8 → (frameLevels bytes)[10 * i + 1 + j]? = some (b.getLsbD (7 - j))) ∧
  (∀ (pre post other : List Byte) (x y : Byte), x.toNat < y.toNat →
    let low := frameLevels (pre ++ x :: post)
    let high := frameLevels (pre ++ y :: other)
    ∃ i, i < 10 ∧ withdrawsAt high low = some (10 * pre.length + i) ∧
      ∀ j, withdrawsAt low high = some j → 10 * pre.length + i < j) ∧
  (∀ bytes : List Byte, withdrawsAt (frameLevels bytes) (frameLevels bytes) = none)

/-- A link without the first frame of a class, no send under way, the latch cleared when the queue was full (R188). -/
def Sys2Proof.Claims.left (c : FrameClass) (receiver : Receiver) (l : Link) : Link :=
  let latch := l.latch && decide (l.urgent.length + l.other.length ≠ 16)
  match c with
  | .urgent => { l with urgent := l.urgent.tail, sending := none, latch := latch, receiver := receiver, idle := 0 }
  | .other => { l with other := l.other.tail, sending := none, latch := latch, receiver := receiver, idle := 0 }

/-- The urgent kinds are FEEDER, TAKE, DEPART and LATE (R186). A notice offered to the send queue: outside LISTEN and RUN it is discarded; a DRAW takes the place of the one that waits,
with its withdrawals; else it joins the tail of its class; and in a queue of 16 it is dropped, with LINK_CONGESTED at the
first drop (R188, R189, R192). The send of the head frame, an urgent one before any other, starts at the command that says
that the idle has reached its gap, where that lies before the next ten bit times to be counted (R186); a completed frame
leaves the queue; a withdrawn one stays with one withdrawal more, is removed when it is a DRAW behind which another waits, or
leaves the queue with LINK_CONGESTED at the sixteenth (R187 to R189; the idle count is the MODEL's, log 10; that the
sixteenth withdrawal of a DRAW behind which another waits is such a drop is its reading, log 23). -/
def Obligations.FramesAreQueuedSentOrWithdrawn : Prop :=
  (∀ n : Notice, (n.isUrgent = true ↔ n.kind ∈ [0x03, 0x0A, 0x0D, 0x0E]) ∧ (n.isRoll = true ↔ n.kind = 0x01) ∧
    (n.isDraw = true ↔ n.kind = 0x02)) ∧
  (∀ (s : State) (n : Notice),
    let l := s.link
    let waiting := if l.sending = some .other then l.other.tail else l.other
    let first := if l.sending = some .other then l.other.take 1 else []
    let f : SendFrame := ⟨n, 0, false⟩
    (s.listenOrRun = false → s.send n = s) ∧
    (s.listenOrRun = true →
      (∀ pre d post, n.isDraw = true → waiting = pre ++ d :: post → d.notice.isDraw = true →
        (∀ x ∈ pre, x.notice.isDraw = false) →
        s.send n = s.setLink { l with other := first ++ (pre ++ { d with notice := n } :: post) }) ∧
      (n.isDraw = false ∨ (∀ x ∈ waiting, x.notice.isDraw = false) →
        (l.urgent.length + l.other.length < 16 → s.send n = s.setLink
          (if n.isUrgent then { l with urgent := l.urgent ++ [f] } else { l with other := l.other ++ [f] })) ∧
        (16 ≤ l.urgent.length + l.other.length →
          (l.latch = true → s.send n = s) ∧
          (l.latch = false → s.send n = (s.setLink { l with latch := true }).storeAlert .linkCongested n.kind))))) ∧
  (∀ (s : State) (n : Notice) (w : Nat) (rest : List SendFrame),
    let f : SendFrame := ⟨n, w, false⟩
    let began := fun (c : FrameClass) => s.setLink { s.link with sending := some c, receiver := .waitIdle, idle := 0 }
    let starts := fun (c : FrameClass) =>
      let gap := (if n.isUrgent then 40 else 64) + 2 * s.cfg.station
      (gap < s.link.idle + 10 → exec .frameSendStart s = .next (began c)) ∧
      (s.link.idle + 10 ≤ gap → exec .frameSendStart s = .next s)
    let last := fun (c : FrameClass) =>
      let t := s.setLink (Claims.left c .receiving s.link)
      if s.node.state = .configFault then t else t.raise .linkCongested n.kind
    let draws := n.isDraw = true ∧ ∃ x ∈ rest, x.notice.isDraw = true
    (Claims.countsIdle s →
      (s.link.urgent = f :: rest → starts .urgent) ∧
      (s.link.urgent = [] → s.link.other = f :: rest → starts .other) ∧
      (s.link.urgent = [] → s.link.other = [] → exec .frameSendStart s = .next s)) ∧
    (¬ Claims.countsIdle s → exec .frameSendStart s = .next s) ∧
    (s.link.sending = none → exec .frameSent s = .next s ∧ exec .frameWithdrawn s = .next s) ∧
    (s.link.sending = some .urgent → s.link.urgent = f :: rest → n.isDraw = false →
      exec .frameSent s = .next (s.setLink (Claims.left .urgent .waitIdle s.link)) ∧
      (w < 15 → exec .frameWithdrawn s = .next (s.setLink
        { s.link with urgent := { f with withdrawals := w + 1 } :: rest, sending := none, receiver := .receiving, idle := 0 })) ∧
      (15 ≤ w → exec .frameWithdrawn s = .next (last .urgent))) ∧
    (s.link.sending = some .other → s.link.other = f :: rest →
      exec .frameSent s = .next (s.setLink (Claims.left .other .waitIdle s.link)) ∧
      (w < 15 → ¬ draws → exec .frameWithdrawn s = .next (s.setLink
        { s.link with other := { f with withdrawals := w + 1 } :: rest, sending := none, receiver := .receiving, idle := 0 })) ∧
      (w < 15 → draws → exec .frameWithdrawn s = .next (s.setLink (Claims.left .other .receiving s.link))) ∧
      (15 ≤ w → exec .frameWithdrawn s = .next (last .other))))

/-! ### Alerts (R212, R213) -/

/-- An entry acknowledged (R213). -/
def Sys2Proof.Claims.acked (e : AlertEntry) : AlertEntry := { e with acknowledged := true }

/-- An alert raised is stored, and then its ALERT is queued, both with the clock's second, or UNSET. The alert list: a new
entry is appended below 16, takes the place of the oldest acknowledged one at 16, and sets the list-full flag when there is
none. The button acknowledges the oldest unacknowledged entry; ACK acknowledges every one its code and subject pick, answered
with their number, with code 0 whatever its subject; either clears the flag (R212, R213; that such an order is never INVALID for
its subject is the MODEL's reading, log 39; that the number takes one byte of the answer is the MODEL's choice, log 40). -/
def Obligations.AlertsAreStoredAndAcknowledged : Prop :=
  ∀ (s : State) (code : AlertCode) (subject sender tag k : Nat) (e : AlertEntry) (pre post : List AlertEntry),
    let new : AlertEntry := ⟨code, subject, if s.clock.isSet then some s.clock.time else none, false⟩
    let pick := fun (x : AlertEntry) => x.acknowledged = false ∧ (k = 0 ∨ (Claims.alertNumber x.code = k ∧ x.subject = subject))
    let picked := s.alerts.entries.filter (fun x => decide (pick x))
    s.raise code subject =
      (s.storeAlert code subject).send (.alert code subject (if s.clock.isSet then some s.clock.time else none)) ∧
    (s.alerts.entries.length < 16 → s.storeAlert code subject = s.setAlerts { s.alerts with entries := s.alerts.entries ++ [new] }) ∧
    (s.alerts.entries = pre ++ e :: post → 15 ≤ pre.length + post.length → (∀ x ∈ pre, x.acknowledged = false) →
      e.acknowledged = true → s.storeAlert code subject = s.setAlerts { s.alerts with entries := pre ++ post ++ [new] }) ∧
    (16 ≤ s.alerts.entries.length → (∀ x ∈ s.alerts.entries, x.acknowledged = false) →
      s.storeAlert code subject = s.setAlerts { s.alerts with full := true }) ∧
    (s.alerts.entries = pre ++ e :: post → (∀ x ∈ pre, x.acknowledged = true) → e.acknowledged = false →
      s.node.state ≠ .configFault →
      exec .ackButtonPress s = .next (s.setAlerts ⟨pre ++ Claims.acked e :: post, false⟩)) ∧
    ((∀ x ∈ s.alerts.entries, x.acknowledged = true) ∨ s.node.state = .configFault →
      exec .ackButtonPress s = .next s) ∧
    (Claims.ordered s sender tag → k ≤ 18 → (k = 0 ∨ subject ≤ 9999) →
      (picked = [] → k ≠ 0 → exec (.ack sender tag (byte k :: be16 subject)) s =
        .next (Claims.answered sender tag .notFound s.frameEnded)) ∧
      (picked ≠ [] ∨ k = 0 →
        let entries := s.alerts.entries.map (fun x => if pick x then Claims.acked x else x)
        let t := s.frameEnded.setAlerts ⟨entries, if picked = [] then s.alerts.full else false⟩
        exec (.ack sender tag (byte k :: be16 subject)) s = .next (t.send (.answer sender tag .done 0 [byte picked.length]))))

/-! ### Reports and masks (R116, R210) -/

/-- The fleet field for the record at a place: 0 for no record, FFFFh for a placeholder (R210). -/
def Sys2Proof.Claims.fleetField (b : Option Bus) : Nat := match b with | none => 0 | some b => b.fleet.getD 0xFFFF

/-- The seconds since an instant, 65 535 for any longer time, 0 for none (R104, R132, R210). -/
def Sys2Proof.Claims.since (s : State) (instant : Option Nat) : Nat :=
  match instant with | none => 0 | some t => min (s.now - t) 65535

/-- The lane item: kind, state (R7), flags, counts, and the fleet at each of positions 1 to 6 (R210). -/
def Sys2Proof.Claims.laneItem (s : State) (l : Lane) : List Byte :=
  let green := match s.departures.release with | some rel => rel.lane == l.number | none => false
  Claims.bytes ([(1, l.number), (1, Claims.code [.deadEnd, .through] l.kind), (1, if l.closed then 3 else if l.suspect then 2 else 1),
    (1, Claims.flags [l.closed, l.suspect, green]), (1, (s.occupiedPositions l).length * 16 + l.reservations.length),
    (1, l.holds.length * 16 + s.entryRoom l)] ++
    [1, 2, 3, 4, 5, 6].map (fun p => (2, Claims.fleetField (s.occupant l.number p))))

/-- The wash item: lane state (R50), flags, called fleet, counts, then state and fleet of stages 1 to 4 (R210). -/
def Sys2Proof.Claims.washItem (s : State) : List Byte :=
  let running := s.wash.called.isSome || s.wash.stages.any (fun st => st.state != .empty)
  let state := match s.wash.mode with | .frostHold => 3 | .stopped => 4 | .normal => if running then 2 else 1
  Claims.bytes ([(1, state), (1, Claims.flags [s.wash.frost, s.wash.promised]), (2, s.wash.called.getD 0), (1, s.washQueue.length),
    (1, s.wash.apron.length)] ++
    [1, 2, 3, 4].map (fun k => (1, if k ≤ s.stageCount then Claims.stageCode (s.stageState k) else 0)) ++
    [1, 2, 3, 4].map (fun k => (2, Claims.fleetField (s.stageBus k))))

/-- The queue item: fleet and service value (R210). -/
def Sys2Proof.Claims.queueItem (s : State) (b : Bus) : List Byte := Claims.bytes [(2, b.fleet.getD 0), (2, s.busService b)]

/-- The unplaced mark of a record (R31). -/
def Sys2Proof.Claims.unplaced (b : Bus) : Bool := match b.place with | .apron u _ => u | _ => false

/-- The apron item: fleet, class, flags (R210). -/
def Sys2Proof.Claims.apronItem (b : Bus) : List Byte :=
  Claims.bytes [(2, b.fleet.getD 0), (1, Claims.classCode b.cls), (1, Claims.flags [b.washed, Claims.unplaced b])]

/-- The charger states in the precedence of R107. -/
def Sys2Proof.Claims.chargerCode (c : Charger) (need : Option Nat) (top : Nat) : Nat :=
  match c.phase with
  | .idle => 1
  | .settling _ => 2
  | .fault => 8
  | .connected =>
    if need = some 0 then 3 else if top = 0 then 4 else if c.target = 0 then 5 else if c.present < c.target then 6 else 7

/-- The first item of a charger (R132, R210; what stands for a stagger end or a connection time that it has not: log 34). -/
def Sys2Proof.Claims.chargerFirst (s : State) (c : Charger) : List Byte :=
  let st := Claims.effective (Claims.groupIs s) c.mask
  let top := Claims.top c.conf st
  let record := s.occupant c.lane c.pos
  let need := match record with | some b => b.need | none => c.session
  let mask := fun (m : Mask) => Claims.flags [m.a, m.b, m.c]
  Claims.bytes [(1, c.berth), (1, c.lane), (1, c.pos), (1, mask c.conf.home), (1, mask c.mask),
    (1, Claims.groupCode (Claims.drawn (Claims.groupIs s) c.mask)), (1, Claims.feederCode st), (1, top),
    (1, Claims.chargerCode c need top), (2, need.getD 0xFFFF), (1, if record.isSome then 1 else 2),
    (2, if c.phase = .idle then 0 else Claims.since s c.connectedAt), (2, min (c.staggerEnd.getD 0 - s.now) 65535)]

/-- The second item of a charger: its place counts those that still stand before it in the allocation order (R132, R210; log
35), and the slack is a signed number of 24 bits. -/
def Sys2Proof.Claims.chargerSecond (s : State) (c : Charger) : List Byte :=
  let place := if c.berth ∈ s.charging.order then s.charging.order.idxOf c.berth + 1 else 0xFF
  Claims.bytes ([(1, c.berth), (1, c.target), (1, c.planned), (1, c.present), (1, c.turnAge), (1, place)] ++
    match c.figures with
    | some f => [(3, f.deadline), (1, f.rate), (3, (f.slack % 16777216).toNat)]
    | none => [(3, 0xFFFFFF), (1, 0xFF), (3, 0x800000)])

/-- The bus record item: code of its place, stage, lane and position where it has them, flags, run and copies, need, arrival
sequence, seconds of its transit (R210; what stands for a route that it has not: log 47). -/
def Sys2Proof.Claims.busItem (s : State) (b : Bus) : List Byte :=
  let (place, stage, lane, pos) : Nat × Nat × Nat × Nat := match b.place with
    | .queued => (1, 0, 0, 0)
    | .washing stage => (2, stage, 0, 0)
    | .apron _ _ => (3, 0, 0, 0)
    | .transit lane _ _ _ => (4, 0, lane, 0)
    | .parked lane pos => (5, 0, lane, pos)
    | .shunting lane pos => (6, 0, lane, pos)
    | .shuntingBetween => (6, 0, 0, 0)
    | .released lane pos => (7, 0, lane, pos)
  let (lost, start) : Bool × Option Nat := match b.place with
    | .transit _ start lost _ => (lost, some start)
    | _ => (false, none)
  Claims.bytes [(2, b.fleet.getD 0xFFFF), (1, Claims.code [.named, .occupied, .gap] b.kind), (1, Claims.classCode b.cls), (1, place),
    (1, stage), (1, lane), (1, pos), (1, Claims.flags [b.washed, b.hold, lost, Claims.unplaced b, b.route.isSome]), (2, b.run.getD 0),
    (2, b.pullOut.getD 0xFFFF), (1, b.route.getD 0), (2, b.need.getD 0xFFFF), (2, b.seq), (2, Claims.since s start)]

/-- The run item (R153, R210; what stands for an own claim's cost, and a best heard claim's fleet and cost, where there is
none: log 41). -/
def Sys2Proof.Claims.runItem (s : State) (r : Run) : List Byte :=
  let demand := match r.demand with | .fleet f => f | .ofClass k => 0xFF00 + Claims.classCode k
  let own := match r.claim with | some c => [(2, c.fleet), (2, c.cost)] | none => [(2, 0), (2, 0)]
  let best := match r.best with | some h => [(1, h.station), (2, h.fleet), (2, h.cost)] | none => [(1, 0xFF), (2, 0), (2, 0)]
  Claims.bytes ([(2, r.run), (2, r.pullOut), (1, r.route), (2, demand), (2, r.allowance), (1, Claims.runCode r.state),
    (1, Claims.flags [r.ownMark, r.ownDeparture]), (2, Claims.fleetField (s.boundTo r.run))] ++ own ++ best)

/-- The feeder group item: its input readings are the monitor's alone (R104, R210). That the bit of the hot input reading is 0
at another node is the MODEL's choice (log 49). -/
def Sys2Proof.Claims.groupItem (s : State) (g : Group) : List Byte :=
  let r := groupGet s.feeders.groups g
  let input := groupGet s.inputs.groups g
  Claims.bytes [(1, Claims.groupCode g), (1, match r.state with | .unknown => 0 | .told st => Claims.feederCode st),
    (1, Claims.flags [r.hot, s.cfg.monitor && input.hot]), (1, if s.cfg.monitor then Claims.feederCode input.state else 0),
    (2, s.effectiveCap g), (2, s.available g), (2, r.grant), (2, s.committed g), (2, s.plannedTotal g),
    (2, (groupGet s.cfg.groups g).limit)]

/-- The two items of a station table entry; what its ROLL describes is 0 before one is heard (R104, R210). -/
def Sys2Proof.Claims.stationItems (s : State) (e : StationEntry) : List (List Byte) :=
  let told := match e.description with
    | some d => [d.lanes, d.berths, d.chargers, Claims.flags [d.wash, d.bypass]]
    | none => [0, 0, 0, 0]
  [Claims.bytes ([(1, e.station), (1, Claims.flags [e.fresh.isSome, e.lastDraw.isSome, e.description.isSome]),
      (2, Claims.since s e.lastDraw), (2, e.maxima.a), (2, e.maxima.b), (2, e.maxima.c)] ++ told.map (fun v => (1, v))),
    Claims.bytes ([e.committed.a, e.committed.b, e.committed.c, e.planned.a, e.planned.b, e.planned.c].map (fun v => (2, v)))]

/-- The alert item (R210). -/
def Sys2Proof.Claims.alertItem (e : AlertEntry) : List Byte :=
  Claims.bytes [(1, Claims.alertNumber e.code), (2, e.subject), (3, e.time.getD 0xFFFFFF), (1, if e.acknowledged then 1 else 0)]

/-- The items of a subject, in index order (R210): lanes, the wash item, the queue and the apron list; chargers by berth
number, two items each; bus records in arrival order; runs; groups; station entries, two items each; alerts. -/
def Sys2Proof.Claims.reported (s : State) (subject : Nat) (items : List (List Byte)) : Prop :=
  match subject with
  | 1 => items = s.lanes.map (Claims.laneItem s) ++ (if s.cfg.washLane then [Claims.washItem s] else []) ++
      s.washQueue.map (Claims.queueItem s) ++ (s.wash.apron.filterMap s.busOf).map Claims.apronItem
  | 2 => ∃ cs : List Charger, cs.Perm s.charging.chargers ∧ cs.Pairwise (fun x y => x.berth ≤ y.berth) ∧
      items = cs.flatMap (fun c => [Claims.chargerFirst s c, Claims.chargerSecond s c])
  | 3 => ∃ bs : List Bus, bs.Perm s.buses.records ∧ bs.Pairwise (fun x y => x.seq ≤ y.seq) ∧ items = bs.map (Claims.busItem s)
  | 4 => items = s.runs.runs.map (Claims.runItem s)
  | 5 => items = [Claims.groupItem s .a, Claims.groupItem s .b, Claims.groupItem s .c]
  | 6 => items = s.feeders.stations.flatMap (Claims.stationItems s)
  | 7 => items = s.alerts.entries.map Claims.alertItem
  | _ => False

/-- What stands before the items: the node state, the subject, and the head of the subjects that have one (R210). -/
def Sys2Proof.Claims.reportHead (s : State) (subject : Nat) : List Byte :=
  let node := match s.node.state with | .listen => 3 | .run => 4 | .mute => 5 | .loading | .configFault => 0
  let head := if subject = 4 then [(2, s.runs.frontMark)] else if subject = 7 then [(1, if s.alerts.full then 1 else 0)] else []
  Claims.bytes ([(1, node), (1, subject)] ++ head)

/-- FEED sets a charger's current mask, with what its new drawing group and effective state bring, and sends a ROLL when a
declared maximum changes; REFUSED for no group, NOT_FOUND without the charger (R93, R116; log 9; the target that R119 looks at is
the MODEL's choice, log 33). REPORT changes nothing and
is answered DONE with its head and the items from the start index on, as many whole ones as fit in 28 bytes; the next index
is that of the first not carried, or 0 (R210). The MODEL's are that an answer is filled beyond the number of items the table
gives, and that UNKNOWN is reported as SHED (log 18), what an item holds for a value that its record has not (log 34, 35, 41, 47), and
that the bit of the hot input reading is 0 at a node without the feeder monitor role (log 49). -/
def Obligations.FeedAndReport : Prop :=
  ∀ (s : State) (sender tag x y : Nat), Claims.ordered s sender tag →
    let u := s.frameEnded
    let mask : Mask := ⟨y % 2 = 1, y / 2 % 2 = 1, y / 4 % 2 = 1⟩
    let feed := exec (.feed sender tag [byte x, byte y]) s
    (1 ≤ x → x ≤ 99 → y ≤ 7 →
      (s.chargerOf x = none → feed = .next (Claims.answered sender tag .notFound u)) ∧
      (∀ c, s.chargerOf x = some c → y = 0 → feed = .next (Claims.answered sender tag .refused u)) ∧
      (∀ c, s.chargerOf x = some c → y ≠ 0 →
        let state := Claims.effective (Claims.groupIs s)
        let group := Claims.drawn (Claims.groupIs s)
        let stagger := s.now + (c.conf.rank - 1) * s.cfg.staggerInterval
        let changed := u.updateCharger x (fun z =>
          { Claims.revised (state c.mask) (state mask) (group c.mask) (group mask) stagger z with mask := mask })
        let t := if group c.mask ≠ group mask
          then changed.setCharging { changed.charging with order := s.charging.order.filter (fun b => b != x) } else changed
        feed = .next (Claims.answered sender tag .done (if groupMake (Claims.declared t) ≠ groupMake (Claims.declared s)
          then t.send (.roll false (Claims.described t) (groupMake (Claims.declared t))) else t)))) ∧
    (1 ≤ x → x ≤ 7 → y ≤ 255 → ∃ (items : List (List Byte)) (k : Nat), Claims.reported s x items ∧
      k ≤ (items.drop y).length ∧
      let payload := Claims.reportHead s x ++ ((items.drop y).take k).flatten
      payload.length ≤ 28 ∧ (∀ item, (items.drop y)[k]? = some item → 28 < payload.length + item.length) ∧
      exec (.report sender tag [byte x, byte y]) s =
        .next (u.send (.answer sender tag .done (if y + k < items.length then y + k else 0) payload)))

/-! ### Starts (R197 to R205, R209) -/

/-- A lane set from the configuration: suspect, empty, and in a survey period of one settle time (R26). Its berths are QUIET
until the survey (the MODEL's, log 32). -/
def Sys2Proof.Claims.newLane (surveyEnd i : Nat) (c : LaneConfig) : Lane :=
  { number := i + 1, kind := c.kind, conf := c, closed := false, suspect := true, reservations := [], holds := []
    settle := List.replicate c.berths.length .quiet, survey := some surveyEnd }

/-- The wash lane with no records: a stage is FAULT where its detector shows a bus; STOPPED after a warm restart or where a
stage is FAULT, else FROST_HOLD or IDLE by the temperature (R65). -/
def Sys2Proof.Claims.newWash (warm : Bool) (s : State) : State :=
  let stages := (List.range s.stageCount).map (fun i => ⟨if s.stageDetector (i + 1) then .fault else .empty, none⟩)
  let stops := s.cfg.washLane && (warm || stages.any (fun (st : Stage) => st.state == .fault))
  let frost := s.cfg.washLane && decide (s.inputs.temperature < s.cfg.frostThreshold)
  Claims.frosted frost none (s.setWash
    { mode := if stops then .stopped else .normal, stages := stages, called := none, callTimer := none, frost := frost
      clearing := none, promised := false, apron := [] })

/-- The yard records of a warm restart that does not keep them: lanes set anew, no bus record, no run, front mark 0 (R26, R41,
R65, R152). -/
def Sys2Proof.Claims.newYard (s : State) : State :=
  (Claims.newWash true (s.setLanes (s.cfg.lanes.mapIdx (Claims.newLane (s.now + s.cfg.laneSettle))))).setBuses
    ⟨[], 0, s.buses.nextId⟩ |>.setRuns ⟨[], 0⟩

/-- A lane kept through a warm restart: TRANSIT reservations kept and SHUNT ones removed, no holds, no survey, each running
settle timer started again in full (R27). -/
def Sys2Proof.Claims.keptLane (settleEnd : Nat) (l : Lane) : Lane :=
  let again := fun (st : BerthSettle) => match st with
    | .awaitEvent _ => .awaitEvent settleEnd
    | .awaitDetector _ => .awaitDetector settleEnd
    | .quiet => .quiet
    | .mismatch => .mismatch
  { l with
    reservations := l.reservations.filter (fun r => r.kind == .transit), holds := [], survey := none
    settle := l.settle.map again }

/-- The place of a record kept through a warm restart (R42, R86): PARKED where it stood at a position; TRANSIT anew from now,
for the from-lane and with its reservation lost where it was between lanes; on the apron no unplaced mark, and no retry. -/
def Sys2Proof.Claims.keptPlace (s : State) (b : Bus) : Place :=
  let from? := b.fleet.bind (fun f => (s.departures.shunts.find? (fun o => o.fleet == f)).map (·.fromLane))
  match b.place with
  | .shunting lane pos | .released lane pos => .parked lane pos
  | .shuntingBetween => .transit (from?.getD 0) s.now true none
  | .transit lane _ lost _ => .transit lane s.now lost none
  | .apron _ _ => .apron false none
  | x => x

/-- The wash lane kept through a warm restart: STOPPED, its stages held as there, FAULT where a detector shows a bus with no
record; the called record is back in the queue, the frost flag taken from the temperature, the apron list and the promise kept
(R66). -/
def Sys2Proof.Claims.keptWash (s : State) : Wash :=
  { s.wash with
    mode := if s.cfg.washLane then .stopped else .normal
    stages := s.wash.stages.mapIdx (fun i st =>
      if s.stageBus (i + 1) = none ∧ s.stageDetector (i + 1) = true then ⟨.fault, none⟩ else Claims.held st)
    called := none, callTimer := none, clearing := none
    frost := s.cfg.washLane && decide (s.inputs.temperature < s.cfg.frostThreshold) }

/-- A run kept through a warm restart: a CLAIMING one loses its own claim and is CLAIMED_ELSEWHERE where a claim was heard,
else PENDING; no claim window and no refresh timer runs (R152). -/
def Sys2Proof.Claims.keptRun (r : Run) : Run :=
  let dropped := if r.state = .claiming
    then { r with state := if r.best = none then .pending else .claimedElsewhere, claim := none } else r
  { dropped with window := none, refresh := none, heardOther := false }

/-- The yard records of a warm restart that keeps them (R27, R42, R66, R152). -/
def Sys2Proof.Claims.keptYard (s : State) : State :=
  { s with
    lanes := s.lanes.map (Claims.keptLane (s.now + s.cfg.laneSettle))
    wash := Claims.keptWash s
    buses := { s.buses with records := s.buses.records.map (fun b => { b with place := Claims.keptPlace s b }) }
    runs := { s.runs with runs := s.runs.runs.map Claims.keptRun } }

/-- The record of a dropped release, judged: where a RUN has changed the demand of its run, the record is freed, and the run
made PENDING if MINE, else its own mark cleared; the binding tests follow (R42, R137, R164; the MODEL's reading, log 19). -/
def Sys2Proof.Claims.judged (rel : Release) (s : State) : State :=
  let off := fun (r : Run) => if r.state = .mine
    then { r with state := .pending, claim := none, best := none, heardOther := false, window := none } else { r with ownMark := false }
  let freed := match s.busOf rel.fleet with
    | some b => if b.run = some rel.run then s.updateBus b.id (fun x => { x with run := none, pullOut := none, route := none }) else s
    | none => s
  match s.runOf rel.run with
  | some r => if r.demand = rel.demand then s.bindAll else (freed.updateRun rel.run off).bindAll
  | none => s.bindAll

/-- A charger through a warm restart: nothing drawn and nothing to draw, the home mask under "warm restore", a settle timer
started again in full (R131); no stagger end, and no figures (the MODEL's, log 28). -/
def Sys2Proof.Claims.restarted (s : State) (c : Charger) : Charger :=
  { Claims.dead c with
    mask := if s.cfg.warmRestore then c.conf.home else c.mask
    phase := match c.phase with | .settling _ => .settling (s.now + s.cfg.chargerSettle) | x => x
    staggerEnd := none, figures := none }

/-- What the blocks begin on entry to LISTEN: every charger link is asked for its status, ROLL is sent with its ask flag, a
DRAW of zeros, the DRAW timer started at 10 s, and the feeder monitor tells the groups A, B and C (R89, R93, R99, R106). -/
def Sys2Proof.Claims.listening (s : State) : State :=
  let t := s.setCharging { s.charging with chargers := s.charging.chargers.map (fun c => { c with statusAsked := true }) }
  let u := (t.send (.roll true (Claims.described t) (groupMake (Claims.declared t)))).send (.draw ⟨0, 0, 0⟩ ⟨0, 0, 0⟩)
  let v := u.setFeeders { u.feeders with drawTimer := some (s.now + 10) }
  let tell := fun (g : Group) => Claims.told g (groupGet s.inputs.groups g).state (groupGet s.inputs.groups g).hot
  if s.cfg.monitor then tell .c (tell .b (tell .a v)) else v

/-- The node after a warm restart. The configuration, the clock, the alert list, the call sequence counter and the last exit
are kept; the yard records kept or set anew; a release, the calls and offers, the shunts, the order in execution, the send
queue and the station table dropped, every group UNKNOWN with no grant. It is in LISTEN with 30 s of its timer, each charger
repeats its need to the record at its berth, and the blocks begin (R86, R103, R113, R131, R178, R193, R204, R205). -/
def Sys2Proof.Claims.warm (s : State) : State :=
  let t := (if s.cfg.keepYard then Claims.keptYard s else Claims.newYard s).setNode ⟨.listen, some (s.now + 30), s.node.resetLine⟩
  let u := { t with order := none, link := ⟨[], [], none, false, .waitIdle, 0⟩ }
  let v := match s.departures.release with | some rel => Claims.judged rel u | none => u
  let w := { v with
    alloc := ⟨s.alloc.seq, .idle, [], [], none⟩
    feeders := ⟨groupMake (fun _ => ⟨.unknown, false, 0, none⟩), [], none, none⟩
    charging := ⟨s.charging.chargers.map (Claims.restarted s), [], none⟩
    departures := ⟨s.departures.lastExit, none, [], []⟩ }
  Claims.listening ((w.buses.records.filterMap Bus.berth?).foldl (fun x p => x.repeatNeed p.1 p.2) w)

/-- RESTART: its answer is queued and it stays in execution until that answer leaves the send queue: sent, withdrawn for the
sixteenth time, dropped on a full queue or discarded in MUTE at once. Then the node makes a warm restart (R204, R209). What a
warm restart keeps, drops and begins is said in full, every block with it (R26, R27, R42, R66, R86, R103, R131, R152, R193);
the alert list and the clock stand (R204). Before its answer has left, and for any other order, RESTART_ANSWER_LEFT has no
effect. The MODEL's are the binding of a record whose release is dropped (log 19), the stagger end and the figures (log 28),
and the settle states before a survey (log 32). -/
def Obligations.RestartOrderRestartsWarm : Prop :=
  ∀ (s : State) (o : Order) (sender tag : Nat),
    let held := fun (left : Bool) => s.frameEnded.setOrder (some ⟨sender, tag, .restart left⟩)
    (Claims.ordered s sender tag →
      (s.listenOrRun = true → s.link.urgent.length + s.link.other.length < 16 → exec (.restart sender tag []) s =
        .next ((held false).setLink { s.frameEnded.link with other := s.link.other ++ [⟨.answer sender tag .done 0 [], 0, true⟩] })) ∧
      (s.listenOrRun = true → 16 ≤ s.link.urgent.length + s.link.other.length →
        (s.link.latch = true → exec (.restart sender tag []) s = .next (held true)) ∧
        (s.link.latch = false → exec (.restart sender tag []) s =
          .next (((held true).setLink { s.frameEnded.link with latch := true }).storeAlert .linkCongested 0x10))) ∧
      (s.listenOrRun = false → exec (.restart sender tag []) s = .next (held true))) ∧
    (∀ n w rest, s.order = some o → o.work = .restart false → s.link.sending = some .other →
      s.link.other = ⟨n, w, true⟩ :: rest → n.isDraw = false →
      let gone := fun (r : Receiver) => (s.setLink (Claims.left .other r s.link)).setOrder (some ⟨o.station, o.tag, .restart true⟩)
      exec .frameSent s = .next (gone .waitIdle) ∧
      (w < 15 → exec .frameWithdrawn s = .next (s.setLink
        { s.link with other := ⟨n, w + 1, true⟩ :: rest, sending := none, receiver := .receiving, idle := 0 })) ∧
      (15 ≤ w → s.node.state ≠ .configFault →
        exec .frameWithdrawn s = .next ((gone .receiving).raise .linkCongested n.kind))) ∧
    (s.order = some o → o.work = .restart true → exec .restartAnswerLeft s = .next (Claims.warm s)) ∧
    ((∀ x, s.order = some x → x.work ≠ .restart true) → exec .restartAnswerLeft s = .next s) ∧
    (Claims.warm s).cfg = s.cfg ∧ (Claims.warm s).clock = s.clock ∧ (Claims.warm s).alerts = s.alerts ∧
    (Claims.warm s).order = none ∧ (Claims.warm s).departures = ⟨s.departures.lastExit, none, [], []⟩

/-- Everything as a cold start leaves it: every record empty, the clock UNSET at 0, LOADING. The levels on the lines and
the timebase are the world's, and stand (R203; log 2, 3). -/
def Sys2Proof.Claims.cold (line : ResetLine) (s : State) : State :=
  { State.reset with now := s.now, inputs := s.inputs, pending := s.pending, node := ⟨.loading, none, line⟩ }

/-- Power-on and the reset line: power-on is a cold start; a press cuts off a send and times a hold of 1 s, at whose end
the state is lost; a release makes a warm restart in LISTEN, RUN and MUTE, and a cold start after the hold or from
LOADING and CONFIG_FAULT. While the line is held, and in LOADING and CONFIG_FAULT, every exit and wash signal is red, all wash
equipment stopped and every charger link driven with 0; else a link is driven with its charger's present (R105, R129, R177,
R200, R202). While the line is held the alert line keeps the level at which the press found it (R200 to R203, R213; what a cold
start leaves standing, and the level at a power-on with the line held, are the MODEL's choices, log 2, 3). -/
def Obligations.PowerOnAndTheResetLine : Prop :=
  (∀ s : State,
    (¬ Claims.outputsOn s → s.entrySignal = false ∧ (∀ k, s.stageSignal k = false ∧ s.equipmentRuns k = false) ∧
      (∀ n, s.exitSignal n = false) ∧ ∀ c, s.linkPower c = 0) ∧
    (Claims.outputsOn s → ∀ c, s.linkPower c = c.present)) ∧
  ∀ (s : State) (e : Nat) (level : Bool),
    let line := s.node.resetLine
    let asked := s.alerts.full || s.alerts.entries.any (fun x => !x.acknowledged)
    (line = .released → exec .powerOn s = .next (Claims.cold .released s)) ∧
    (line = .held e level → exec .powerOn s = .next (Claims.cold (.held e false) s)) ∧
    (line = .heldLong level → exec .powerOn s = .next (Claims.cold (.heldLong false) s)) ∧
    (line = .released → s.alertLine = asked ∧ exec .resetLineAsserted s =
      .next ((s.setLink { s.link with sending := none, receiver := .waitIdle, idle := 0 }).setNode
        { s.node with resetLine := .held (s.now + 1) asked })) ∧
    (line = .held e level ∨ line = .heldLong level → s.alertLine = level ∧ exec .resetLineAsserted s = .next s) ∧
    (line = .held e level → e ≤ s.now → exec .resetHoldExpiry s = .next (Claims.cold (.heldLong level) s)) ∧
    (line = .held e level → s.active = true →
      exec .resetLineReleased s = .next (Claims.warm (s.setNode { s.node with resetLine := .released }))) ∧
    (line = .held e level ∧ s.active = false ∨ line = .heldLong level →
      exec .resetLineReleased s = .next (Claims.cold .released s)) ∧
    (line = .released → exec .resetLineReleased s = .next s)

/-- The byte of an image at an offset, FFh where the memory does not give it; the number that two of them spell (R196, R197). -/
def Sys2Proof.Claims.imageByte (image : List Byte) (off : Nat) : Nat := match image[off]? with | some x => x.toNat | none => 0xFF
def Sys2Proof.Claims.imageField (image : List Byte) (off bytes : Nat) : Nat :=
  if bytes = 2 then Claims.imageByte image off * 256 + Claims.imageByte image (off + 1) else Claims.imageByte image off

/-- A field that takes a range: its offset, its bytes, its least and greatest value, and its place in the copy (R196). -/
abbrev Sys2Proof.Claims.Range := Nat × Nat × Nat × Nat × (NodeConfig → Nat)

/-- The fields of the node that take a range (R196). -/
def Sys2Proof.Claims.nodeRanges : List Claims.Range :=
  [(0x001, 1, 1, 3, (·.lineRate)), (0x003, 1, 1, 8, (·.lanes.length)), (0x004, 2, 0, 1439, (·.dayChange)),
   (0x006, 2, 0, 1439, (·.spareReady)), (0x008, 2, 1, 10000, (·.firstStandard)), (0x00C, 1, 2, 60, (·.laneSettle)),
   (0x00D, 1, 1, 5, (·.offerWindow)), (0x00E, 1, 2, 10, (·.takeWait)), (0x00F, 1, 1, 30, (·.transitTimeout)),
   (0x010, 1, 5, 120, (·.chargerSettle)), (0x011, 1, 5, 60, (·.staggerInterval)), (0x013, 1, 0, 3, (·.turnExponent)),
   (0x014, 1, 1, 10, (·.rampInterval)), (0x015, 1, 1, 50, (·.rampStep)), (0x016, 2, 0, 1800, (·.readyMargin)),
   (0x018, 1, 5, 60, (·.claimLead)), (0x019, 1, 2, 20, (·.claimWindow)), (0x01A, 1, 0, 10, (·.releaseLead)),
   (0x01B, 1, 10, 120, (·.exitGap)), (0x01C, 1, 1, 15, (·.releaseTimeout)), (0x01D, 1, 1, 15, (·.lateGrace)),
   (0x01E, 1, 10, 90, (·.shuntLead)), (0x01F, 1, 2, 30, (·.shuntTimeout)), (0x020, 1, 1, 3, (·.shuntAttempts)),
   (0x021, 1, 1, 4, (·.stageCount)), (0x022, 2, 30, 300, (·.advanceTimeout))]

/-- The fields of the stages and of the feeder groups that take a range (R196). -/
def Sys2Proof.Claims.blockRanges : List Claims.Range :=
  (List.range 4).flatMap (fun i =>
    let at_ := fun (f : StageConfig → Nat) (c : NodeConfig) => ((c.stages[i]?).map f).getD 0
    [(0x025 + 5 * i, 1, 0, 60, at_ (·.spinup)), (0x026 + 5 * i, 2, 10, 600, at_ (·.dwell)), (0x028 + 5 * i, 2, 0, 600, at_ (·.runon))]) ++
  [(0, Group.a), (1, .b), (2, .c)].flatMap (fun (i, g) =>
    [(0x039 + 8 * i, 2, 0, 4000, (fun c => (groupGet c.groups g).cap)), (0x03B + 8 * i, 2, 0, 4000, (fun c => (groupGet c.groups g).shedCap)),
     (0x03D + 8 * i, 2, 0, 4000, (fun c => (groupGet c.groups g).limit)), (0x03F + 8 * i, 1, 1, 16, (fun c => (groupGet c.groups g).duty)),
     (0x040 + 8 * i, 1, 1, 16, (fun c => (groupGet c.groups g).hotDuty))])

/-- The fields of the lanes read, of their berths and of their chargers that take a range; Pmin lies below Pmax (R105, R196,
R197). -/
def Sys2Proof.Claims.laneRanges (copy : NodeConfig) : List Claims.Range :=
  (copy.lanes.mapIdx (fun i l =>
    let lane := fun (f : LaneConfig → Nat) (c : NodeConfig) => ((c.lanes[i]?).map f).getD 0
    let charger := fun (p : Nat) (f : ChargerConfig → Nat) => lane (fun x => ((x.chargers[p]?).map f).getD 0)
    [(0x051 + 12 * i + 1, 1, 1, 6, lane (·.berths.length))] ++
    (List.range l.berths.length).map (fun p => (0x051 + 12 * i + 2 + p, 1, 1, 99, lane (fun x => (x.berths[p]?).getD 0))) ++
    (l.chargers.mapIdx (fun p c =>
      let slot := 0x0B1 + 6 * (6 * i + p)
      [(slot + 1, 1, 10, 150, charger p (·.pmax)), (slot + 2, 1, 5, c.pmax, charger p (·.pmin)),
       (slot + 5, 1, 1, 7, charger p (·.rank))])).flatten)).flatten

/-- Every field of an image that takes a range. -/
def Sys2Proof.Claims.ranges (copy : NodeConfig) : List Claims.Range :=
  Claims.nodeRanges ++ Claims.blockRanges ++ Claims.laneRanges copy

/-- The bits 0 to 2 of a byte, none of them standing for all three (R199). -/
def Sys2Proof.Claims.threeBits (n : Nat) : Bool × Bool × Bool :=
  if n % 8 = 0 then (true, true, true) else (n % 2 = 1, n / 2 % 2 = 1, n / 4 % 2 = 1)

/-- The route spans that a window may have (R3, R196). -/
def Sys2Proof.Claims.spans : List Nat := [1, 2, 4, 8, 16]

/-- The signed value of the frost threshold byte (R196). -/
def Sys2Proof.Claims.frostByte (image : List Byte) : Int :=
  let x := Claims.imageByte image 0x024
  if x < 128 then x else (x : Int) - 256

/-- The copy of a charger slot, beside its fields that take a range (R105, R196, R199). -/
def Sys2Proof.Claims.chargerRead (image : List Byte) (slot : Nat) (c : ChargerConfig) : Prop :=
  let x := Claims.imageByte image
  (c.home.a, c.home.b, c.home.c) = Claims.threeBits (x slot) ∧
  c.floor = (if x (slot + 3) = 0 then 0 else max c.pmin (min c.pmax (x (slot + 3)))) ∧
  c.peak = (if x (slot + 4) % 4 = 0 then .full else if x (slot + 4) % 4 = 1 then .floor else .pause) ∧
  c.shed = (if x (slot + 4) / 4 % 2 = 0 then .floor else .pause)

/-- The copy of a lane, beside its fields that take a range: a lane has as many chargers as berths where it is charged, and
none else; its span is the greatest allowed one not above the byte, or 1, its base a multiple of it (R3, R196, R199). -/
def Sys2Proof.Claims.laneRead (image : List Byte) (i : Nat) (l : LaneConfig) : Prop :=
  let x := fun (n : Nat) => Claims.imageByte image (0x051 + 12 * i + n)
  l.kind = (if x 0 ≤ 1 then .deadEnd else .through) ∧
  (l.classes.midi, l.classes.standard, l.classes.artic) = Claims.threeBits (x 8) ∧
  (x 9 = 0xFF → l.window = none) ∧
  (x 9 ≠ 0xFF → ∃ span ∈ Claims.spans, (span ≤ x 10 ∨ span = 1) ∧ (∀ y ∈ Claims.spans, y ≤ x 10 → y ≤ span) ∧
    l.window = some (x 9 - x 9 % span, span)) ∧
  l.charged = decide (x 11 % 2 = 1) ∧ l.kindChange = decide (x 11 / 2 % 2 = 1) ∧
  l.chargers.length = (if l.charged then l.berths.length else 0) ∧
  ∀ p c, l.chargers[p]? = some c → Claims.chargerRead image (0x0B1 + 6 * (6 * i + p)) c

/-- The copy of an image: every field that takes a range is clamped to its nearest end, and the others as R199 states (R196,
R197, R199). -/
def Sys2Proof.Claims.loaded (image : List Byte) (c : NodeConfig) : Prop :=
  let x := Claims.imageByte image
  c.station = x 0 ∧
  [c.keepYard, c.warmRestore, c.impliedShunt, c.wildcard, c.monitor, c.washLane, c.bypass] =
    (List.range 7).map (fun i => decide (x 2 / 2 ^ i % 2 = 1)) ∧
  c.firstArtic = max c.firstStandard (max 1 (min 10000 (Claims.imageField image 0x00A 2))) ∧
  c.turnTick = (if x 0x012 = 15 ∨ x 0x012 = 60 then x 0x012 else if x 0x012 < 38 then 15 else 60) ∧
  c.frostThreshold = max (-10) (min 5 (Claims.frostByte image)) ∧
  c.stages.length = 4 ∧
  (∀ off bytes least greatest value, (off, bytes, least, greatest, value) ∈ Claims.ranges c →
    value c = max least (min greatest (Claims.imageField image off bytes))) ∧
  ∀ i l, c.lanes[i]? = some l → Claims.laneRead image i l

/-- A field that was clamped stands at this offset (R199). -/
def Sys2Proof.Claims.clampedAt (image : List Byte) (c : NodeConfig) (off : Nat) : Prop :=
  let x := Claims.imageByte image
  (∃ bytes least greatest value, (off, bytes, least, greatest, value) ∈ Claims.ranges c ∧
    (Claims.imageField image off bytes < least ∨ greatest < Claims.imageField image off bytes)) ∨
  (off = 0x00A ∧ Claims.imageField image 0x00A 2 ≠ c.firstArtic) ∨
  (off = 0x012 ∧ x 0x012 ≠ 15 ∧ x 0x012 ≠ 60) ∨
  (off = 0x024 ∧ (Claims.frostByte image < -10 ∨ 5 < Claims.frostByte image)) ∨
  ∃ i l, c.lanes[i]? = some l ∧
    let lane := 0x051 + 12 * i
    (off = lane ∧ (x lane = 0 ∨ 2 < x lane) ∨ off = lane + 8 ∧ x (lane + 8) % 8 = 0 ∨
      off = lane + 9 ∧ (∃ base span, l.window = some (base, span) ∧ base ≠ x (lane + 9)) ∨
      off = lane + 10 ∧ x (lane + 10) ∉ Claims.spans ∨
      ∃ p y, l.chargers[p]? = some y ∧
        let slot := 0x0B1 + 6 * (6 * i + p)
        (off = slot ∧ x slot % 8 = 0 ∨ off = slot + 3 ∧ x (slot + 3) ≠ y.floor ∨ off = slot + 4 ∧ x (slot + 4) % 4 = 3))

/-- The chargers of a node, one for each berth of a charged lane, IDLE with the home mask (R105, R131). -/
def Sys2Proof.Claims.newChargers (c : NodeConfig) : List Charger :=
  (c.lanes.mapIdx (fun i l => (l.chargers.zip l.berths).mapIdx (fun p x =>
    { berth := x.2, lane := i + 1, pos := p + 1, conf := x.1, mask := x.1.home, phase := .idle, session := none
      connectedAt := none, staggerEnd := none, planned := 0, target := 0, present := 0, ramp := none, turnAge := 0
      figures := none, statusAsked := false }))).flatten

/-- The node on entry to LISTEN from a good image with this copy: its lanes and chargers set from it, the wash lane from its
detectors and the temperature, 30 s of its timer; and the blocks begin (R26, R65, R131, R203, R205). -/
def Sys2Proof.Claims.started (c : NodeConfig) (s : State) : State :=
  let t := { s with
    cfg := c
    node := ⟨.listen, some (s.now + 30), s.node.resetLine⟩
    lanes := c.lanes.mapIdx (Claims.newLane (s.now + c.laneSettle))
    charging := ⟨Claims.newChargers c, [], none⟩ }
  Claims.listening (Claims.newWash false t)

/-- The node after a bad image: CONFIG_FAULT, with CONFIG_BAD stored at an UNSET time; and where station and rate can be used as
read, those two alone in the copy, and the one ALERT queued, to be sent with them (R200, R212). That the copy is otherwise blank
is the MODEL's choice (log 4). -/
def Sys2Proof.Claims.faulted (image : List Byte) (cause : Nat) (s : State) : State :=
  let station := Claims.imageByte image 0
  let rate := Claims.imageByte image 1
  let t := { s with
    node := ⟨.configFault, none, s.node.resetLine⟩
    alerts := ((s.setClock ⟨s.clock.time, false⟩).storeAlert .configBad cause).alerts
    cfg := NodeConfig.blank }
  if 1 ≤ station ∧ station ≤ 31 ∧ 1 ≤ rate ∧ rate ≤ 3 then
    { t with
      cfg := { NodeConfig.blank with station := station, lineRate := rate }
      link := { s.link with other := s.link.other ++ [⟨.alert .configBad cause none, 0, false⟩] } }
  else t

/-- The node in RUN, with the stagger ends of the entry, before its first turn boundary (R119, R205). -/
def Sys2Proof.Claims.running (s : State) : State :=
  (s.setNode ⟨.run, none, s.node.resetLine⟩).setCharging { s.charging with
    chargers := s.charging.chargers.map (fun c => { c with staggerEnd := some (s.now + (c.conf.rank - 1) * s.cfg.staggerInterval) }) }

/-- The configuration read and the end of LISTEN. No read is completed outside LOADING, nor while the reset line is held (the
latter is the MODEL's choice, log 46). An image is bad where its words do not add up to FFFFh, else where its station is 0 or
above 31, else where a berth number stands twice after clamping (R198). A bad image makes CONFIG_FAULT with CONFIG_BAD stored
at an UNSET time, and one ALERT, sent with the station and the rate of the image, where both can be used as read; all else
stands (R200; the blank copy is the MODEL's, log 4). A good one makes LISTEN with the copy of the
image, every value clamped, and every lane suspect and in survey; CONFIG_CLAMPED is raised once, with the lowest offset
that was clamped (R26, R196, R197, R199, R203). After 30 s the node enters RUN with its stagger ends set, and its first turn
boundary is taken as every other: grants, plan, DRAW and plan hold (R100, R119, R120, R205). That every berth of the new lanes
is QUIET until the survey is the MODEL's choice (log 32). -/
def Obligations.ConfigurationReadAndListen : Prop :=
  (∀ (s : State) (image : List Byte), s.node.resetLine ≠ .released ∨ s.node.state ≠ .loading →
    exec (.configReadComplete image) s = .next s) ∧
  (∀ image : List Byte, Claims.loaded image (configOf image) ∧
    let station := Claims.imageByte image 0
    badCause image =
      if ¬ Claims.allOnes (Claims.pairSum ((image ++ List.replicate 512 0xFF).take 512)) then some 1
      else if station = 0 ∨ 31 < station then some 2
      else if ¬ ((configOf image).lanes.flatMap (·.berths)).Nodup then some 3
      else none) ∧
  ∀ (s : State) (image : List Byte), s.node.resetLine = .released →
    (∀ cause, s.node.state = .loading → badCause image = some cause →
      exec (.configReadComplete image) s = .next (Claims.faulted image cause s)) ∧
    (s.node.state = .loading → badCause image = none →
      let clamped := Claims.clampedAt image (configOf image)
      ((∀ off, ¬ clamped off) → exec (.configReadComplete image) s = .next (Claims.started (configOf image) s)) ∧
      (∀ off, clamped off → (∀ y, clamped y → off ≤ y) →
        exec (.configReadComplete image) s = .next ((Claims.started (configOf image) s).raise .configClamped off))) ∧
    (∀ e, s.node.state = .listen → s.node.listenTimer = some e → e ≤ s.now →
      exec .listenTimerExpiry s = .next ((Claims.turned (Claims.running s)).settle s (s.runs.runs.map (·.run))))

/-! ### What every command and every step keeps -/

/-- The bounds of the manual: 64 bus records, 16 alerts, 16 frames and none in LOADING, a clock second of the day, at most 256
runs in ascending order, a fleet in at most one bus record (R28, R30, R133, R188, R194, R212). -/
def Sys2Proof.Claims.bounded (s : State) : Prop :=
  tableBounded s ∧ alertsBounded s ∧ queueBounded s ∧ clockInDay s ∧ runsOrdered s ∧ fleetsUnique s

/-- The stack of a lane stands in one unbroken run, to the deep end in a DEAD_END lane, and what is reserved and held there is
within its entry room (R5, R8). -/
def Sys2Proof.Claims.laneSound (s : State) (l : Lane) : Prop :=
  let stands := fun (p : Nat) => s.occupant l.number p ≠ none
  1 ≤ l.size ∧ l.reservations.length + l.holds.length ≤ s.entryRoom l ∧
  ∀ p q, 1 ≤ p → p < q → q ≤ l.size → stands p → (l.kind = .deadEnd ∨ ∃ r, q < r ∧ r ≤ l.size ∧ stands r) → stands q

/-- The yard is sound: every lane is, each berth of a lane holds one record at most, and what other blocks keep of the yard
agrees with it: an open offer has its hold, a shunt order its record at its from-position or between lanes, and the called
record stands in the queue; in LOADING there is none of these (R3, R5, R8, R28, R30, R53, R67, R173, R203). -/
def Sys2Proof.Claims.yardSound (s : State) : Prop :=
  ((s.lanes.map (·.number)).Nodup ∧ (∀ c ∈ s.cfg.lanes, c.berths ≠ []) ∧ ∀ l ∈ s.lanes, Claims.laneSound s l) ∧
  ((s.buses.records.filterMap Bus.berth?).Nodup ∧
    ∀ b ∈ s.buses.records, ∀ n p, b.berth? = some (n, p) → ∃ l ∈ s.lanes, l.number = n ∧ 1 ≤ p ∧ p ≤ l.size) ∧
  ((s.alloc.offers.map (·.caller)).Nodup ∧
    ∀ o ∈ s.alloc.offers, o.withdrawn = false → ∃ l ∈ s.lanes, l.number = o.lane ∧ ⟨o.caller, o.call.seq⟩ ∈ l.holds) ∧
  ((s.departures.shunts.map (·.fleet)).Nodup ∧
    ∀ o ∈ s.departures.shunts, ∃ b ∈ s.buses.records, b.fleet = some o.fleet ∧
      b.place = match o.phase with | .atFrom => .shunting o.fromLane o.fromPos | .between => .shuntingBetween) ∧
  (∀ f, s.wash.called = some f → ∃ b ∈ s.buses.records, b.fleet = some f ∧ b.place = .queued) ∧
  (s.node.state = .loading → s.buses.records = [] ∧ s.alloc.offers = [] ∧ s.departures.shunts = [])

/-- The bounds hold right after reset, and the yard is sound. -/
def Obligations.ResetKeepsTheBounds : Prop := Claims.bounded State.reset ∧ Claims.yardSound State.reset

/-- Every step from a state within the bounds goes on, to a state within the bounds. -/
def Obligations.EveryStepKeepsTheBounds : Prop :=
  ∀ s : State, Claims.bounded s → ∃ t : State, step s = .next t ∧ Claims.bounded t

/-- Every step from a sound yard within the bounds leaves a sound yard: stacks stay unbroken, and what is reserved and held in
a lane stays within its entry room (R5, R8). -/
def Obligations.EveryStepKeepsTheYardSound : Prop :=
  ∀ s t : State, Claims.bounded s → Claims.yardSound s → step s = .next t → Claims.yardSound t

/-- A ROLL or a DRAW of the node's own station number, as a notice or as the bytes of a frame (R191). -/
def Sys2Proof.Claims.ownFigures (own : Nat) : Instr → Bool
  | .roll sender .. => sender == own
  | .draw sender .. => sender == own
  | .frameRejected bytes =>
    match readFrame own bytes with
    | some (.roll sender ..) => sender == own
    | some (.draw sender ..) => sender == own
    | _ => false
  | _ => false

/-- Every command is answered with a next state. One that is no start changes neither the configuration, nor the
timebase, nor the waiting commands, nor makes a SET clock UNSET, and leaves the node as it is, but that a ROLL or a DRAW of its
own station number, taken in LISTEN or RUN, makes it MUTE (R191, R194, R197, R201). Local events and notices are taken in LISTEN,
RUN and MUTE, and notices are queued in LISTEN and RUN (R192, R200, R201). -/
def Obligations.OnlyStartsAndClashesChangeTheNode : Prop :=
  ∀ (c : Instr) (s : State), ∃ t : State, exec c s = .next t ∧
    (isStart c = false → t.cfg = s.cfg ∧ t.now = s.now ∧ t.pending = s.pending ∧
      (s.clock.isSet = true → t.clock.isSet = true) ∧
      (t.node = s.node ∨ (t.node = { s.node with state := .mute, listenTimer := none } ∧ s.listenOrRun = true ∧
        Claims.hearing s ∧ Claims.ownFigures s.cfg.station c = true))) ∧
    (s.active = true ↔ s.node.state = .listen ∨ s.node.state = .run ∨ s.node.state = .mute) ∧
    (s.listenOrRun = true ↔ s.node.state = .listen ∨ s.node.state = .run) ∧ (s.inRun = true ↔ s.node.state = .run)

/-- The tests that follow a command in LISTEN, RUN and MUTE, in their order: the front mark, the binding tests, the
withdrawals of claims, the tests of the morning departure, withdrawals again, the claim tests with the refresh timers, the wash
lane, the call test; after an event of the wash lane, the last two alone. Claims are withdrawn, and shunts tested, run by run.
In other states there are none. That every command is followed by these tests, in this order, is the MODEL's choice (log 7,
27). They change nothing but bindings, claims, releases, shunts, holds, calls, wash stages, the spill of the wash queue, frames
and alerts: the ground of the state is kept (R49, R53, R68, R140, R145, R150, R158, R166, R169, R171). -/
def Obligations.TestsAfterACommandKeepTheGround : Prop :=
  (∀ (s before : State) (extra : List Nat),
    let bound := (s.raiseFront before).bindAll.withdrawClaims
    let departed := bound.departureTests.withdrawClaims
    (s.active = true → s.settle before extra =
      ((State.claimTests before extra departed).keepRefresh before).washTests.callTest) ∧
    (s.active = false → s.settle before extra = s) ∧
    s.settleWash = s.washTests.callTest ∧
    s.withdrawClaims = (s.runs.runs.map (·.run)).foldl (fun t n => t.withdrawClaim n) s ∧
    s.shuntTests = (s.runs.runs.map (·.run)).foldl (fun t n => t.shuntTest n) s) ∧
  ∀ (s before : State) (extra : List Nat), (s.buses.records.map (·.id)).Nodup →
    (s.settle before extra).ground = s.ground
end

