-- ==== Sys2Proof/Laws/State.lean ====
section
/-! SUPPORT. One lemma per field per block update, true by rfl: an update of one block leaves every other block as it
stands, and the block updated reads back what was written. -/

namespace Sys2Proof.Machine

variable (s : State)

@[simp] theorem State.setNow_now (x : Nat) : (s.setNow x).now = x := rfl
@[simp] theorem State.setNow_node (x : Nat) : (s.setNow x).node = s.node := rfl
@[simp] theorem State.setNow_clock (x : Nat) : (s.setNow x).clock = s.clock := rfl
@[simp] theorem State.setNow_inputs (x : Nat) : (s.setNow x).inputs = s.inputs := rfl
@[simp] theorem State.setNow_cfg (x : Nat) : (s.setNow x).cfg = s.cfg := rfl
@[simp] theorem State.setNow_link (x : Nat) : (s.setNow x).link = s.link := rfl
@[simp] theorem State.setNow_lanes (x : Nat) : (s.setNow x).lanes = s.lanes := rfl
@[simp] theorem State.setNow_buses (x : Nat) : (s.setNow x).buses = s.buses := rfl
@[simp] theorem State.setNow_wash (x : Nat) : (s.setNow x).wash = s.wash := rfl
@[simp] theorem State.setNow_alloc (x : Nat) : (s.setNow x).alloc = s.alloc := rfl
@[simp] theorem State.setNow_feeders (x : Nat) : (s.setNow x).feeders = s.feeders := rfl
@[simp] theorem State.setNow_charging (x : Nat) : (s.setNow x).charging = s.charging := rfl
@[simp] theorem State.setNow_runs (x : Nat) : (s.setNow x).runs = s.runs := rfl
@[simp] theorem State.setNow_departures (x : Nat) : (s.setNow x).departures = s.departures := rfl
@[simp] theorem State.setNow_order (x : Nat) : (s.setNow x).order = s.order := rfl
@[simp] theorem State.setNow_alerts (x : Nat) : (s.setNow x).alerts = s.alerts := rfl
@[simp] theorem State.setNow_pending (x : Nat) : (s.setNow x).pending = s.pending := rfl
@[simp] theorem State.setNode_now (x : Node) : (s.setNode x).now = s.now := rfl
@[simp] theorem State.setNode_node (x : Node) : (s.setNode x).node = x := rfl
@[simp] theorem State.setNode_clock (x : Node) : (s.setNode x).clock = s.clock := rfl
@[simp] theorem State.setNode_inputs (x : Node) : (s.setNode x).inputs = s.inputs := rfl
@[simp] theorem State.setNode_cfg (x : Node) : (s.setNode x).cfg = s.cfg := rfl
@[simp] theorem State.setNode_link (x : Node) : (s.setNode x).link = s.link := rfl
@[simp] theorem State.setNode_lanes (x : Node) : (s.setNode x).lanes = s.lanes := rfl
@[simp] theorem State.setNode_buses (x : Node) : (s.setNode x).buses = s.buses := rfl
@[simp] theorem State.setNode_wash (x : Node) : (s.setNode x).wash = s.wash := rfl
@[simp] theorem State.setNode_alloc (x : Node) : (s.setNode x).alloc = s.alloc := rfl
@[simp] theorem State.setNode_feeders (x : Node) : (s.setNode x).feeders = s.feeders := rfl
@[simp] theorem State.setNode_charging (x : Node) : (s.setNode x).charging = s.charging := rfl
@[simp] theorem State.setNode_runs (x : Node) : (s.setNode x).runs = s.runs := rfl
@[simp] theorem State.setNode_departures (x : Node) : (s.setNode x).departures = s.departures := rfl
@[simp] theorem State.setNode_order (x : Node) : (s.setNode x).order = s.order := rfl
@[simp] theorem State.setNode_alerts (x : Node) : (s.setNode x).alerts = s.alerts := rfl
@[simp] theorem State.setNode_pending (x : Node) : (s.setNode x).pending = s.pending := rfl
@[simp] theorem State.setClock_now (x : Clock) : (s.setClock x).now = s.now := rfl
@[simp] theorem State.setClock_node (x : Clock) : (s.setClock x).node = s.node := rfl
@[simp] theorem State.setClock_clock (x : Clock) : (s.setClock x).clock = x := rfl
@[simp] theorem State.setClock_inputs (x : Clock) : (s.setClock x).inputs = s.inputs := rfl
@[simp] theorem State.setClock_cfg (x : Clock) : (s.setClock x).cfg = s.cfg := rfl
@[simp] theorem State.setClock_link (x : Clock) : (s.setClock x).link = s.link := rfl
@[simp] theorem State.setClock_lanes (x : Clock) : (s.setClock x).lanes = s.lanes := rfl
@[simp] theorem State.setClock_buses (x : Clock) : (s.setClock x).buses = s.buses := rfl
@[simp] theorem State.setClock_wash (x : Clock) : (s.setClock x).wash = s.wash := rfl
@[simp] theorem State.setClock_alloc (x : Clock) : (s.setClock x).alloc = s.alloc := rfl
@[simp] theorem State.setClock_feeders (x : Clock) : (s.setClock x).feeders = s.feeders := rfl
@[simp] theorem State.setClock_charging (x : Clock) : (s.setClock x).charging = s.charging := rfl
@[simp] theorem State.setClock_runs (x : Clock) : (s.setClock x).runs = s.runs := rfl
@[simp] theorem State.setClock_departures (x : Clock) : (s.setClock x).departures = s.departures := rfl
@[simp] theorem State.setClock_order (x : Clock) : (s.setClock x).order = s.order := rfl
@[simp] theorem State.setClock_alerts (x : Clock) : (s.setClock x).alerts = s.alerts := rfl
@[simp] theorem State.setClock_pending (x : Clock) : (s.setClock x).pending = s.pending := rfl
@[simp] theorem State.setInputs_now (x : Inputs) : (s.setInputs x).now = s.now := rfl
@[simp] theorem State.setInputs_node (x : Inputs) : (s.setInputs x).node = s.node := rfl
@[simp] theorem State.setInputs_clock (x : Inputs) : (s.setInputs x).clock = s.clock := rfl
@[simp] theorem State.setInputs_inputs (x : Inputs) : (s.setInputs x).inputs = x := rfl
@[simp] theorem State.setInputs_cfg (x : Inputs) : (s.setInputs x).cfg = s.cfg := rfl
@[simp] theorem State.setInputs_link (x : Inputs) : (s.setInputs x).link = s.link := rfl
@[simp] theorem State.setInputs_lanes (x : Inputs) : (s.setInputs x).lanes = s.lanes := rfl
@[simp] theorem State.setInputs_buses (x : Inputs) : (s.setInputs x).buses = s.buses := rfl
@[simp] theorem State.setInputs_wash (x : Inputs) : (s.setInputs x).wash = s.wash := rfl
@[simp] theorem State.setInputs_alloc (x : Inputs) : (s.setInputs x).alloc = s.alloc := rfl
@[simp] theorem State.setInputs_feeders (x : Inputs) : (s.setInputs x).feeders = s.feeders := rfl
@[simp] theorem State.setInputs_charging (x : Inputs) : (s.setInputs x).charging = s.charging := rfl
@[simp] theorem State.setInputs_runs (x : Inputs) : (s.setInputs x).runs = s.runs := rfl
@[simp] theorem State.setInputs_departures (x : Inputs) : (s.setInputs x).departures = s.departures := rfl
@[simp] theorem State.setInputs_order (x : Inputs) : (s.setInputs x).order = s.order := rfl
@[simp] theorem State.setInputs_alerts (x : Inputs) : (s.setInputs x).alerts = s.alerts := rfl
@[simp] theorem State.setInputs_pending (x : Inputs) : (s.setInputs x).pending = s.pending := rfl
@[simp] theorem State.setCfg_now (x : NodeConfig) : (s.setCfg x).now = s.now := rfl
@[simp] theorem State.setCfg_node (x : NodeConfig) : (s.setCfg x).node = s.node := rfl
@[simp] theorem State.setCfg_clock (x : NodeConfig) : (s.setCfg x).clock = s.clock := rfl
@[simp] theorem State.setCfg_inputs (x : NodeConfig) : (s.setCfg x).inputs = s.inputs := rfl
@[simp] theorem State.setCfg_cfg (x : NodeConfig) : (s.setCfg x).cfg = x := rfl
@[simp] theorem State.setCfg_link (x : NodeConfig) : (s.setCfg x).link = s.link := rfl
@[simp] theorem State.setCfg_lanes (x : NodeConfig) : (s.setCfg x).lanes = s.lanes := rfl
@[simp] theorem State.setCfg_buses (x : NodeConfig) : (s.setCfg x).buses = s.buses := rfl
@[simp] theorem State.setCfg_wash (x : NodeConfig) : (s.setCfg x).wash = s.wash := rfl
@[simp] theorem State.setCfg_alloc (x : NodeConfig) : (s.setCfg x).alloc = s.alloc := rfl
@[simp] theorem State.setCfg_feeders (x : NodeConfig) : (s.setCfg x).feeders = s.feeders := rfl
@[simp] theorem State.setCfg_charging (x : NodeConfig) : (s.setCfg x).charging = s.charging := rfl
@[simp] theorem State.setCfg_runs (x : NodeConfig) : (s.setCfg x).runs = s.runs := rfl
@[simp] theorem State.setCfg_departures (x : NodeConfig) : (s.setCfg x).departures = s.departures := rfl
@[simp] theorem State.setCfg_order (x : NodeConfig) : (s.setCfg x).order = s.order := rfl
@[simp] theorem State.setCfg_alerts (x : NodeConfig) : (s.setCfg x).alerts = s.alerts := rfl
@[simp] theorem State.setCfg_pending (x : NodeConfig) : (s.setCfg x).pending = s.pending := rfl
@[simp] theorem State.setLink_now (x : Link) : (s.setLink x).now = s.now := rfl
@[simp] theorem State.setLink_node (x : Link) : (s.setLink x).node = s.node := rfl
@[simp] theorem State.setLink_clock (x : Link) : (s.setLink x).clock = s.clock := rfl
@[simp] theorem State.setLink_inputs (x : Link) : (s.setLink x).inputs = s.inputs := rfl
@[simp] theorem State.setLink_cfg (x : Link) : (s.setLink x).cfg = s.cfg := rfl
@[simp] theorem State.setLink_link (x : Link) : (s.setLink x).link = x := rfl
@[simp] theorem State.setLink_lanes (x : Link) : (s.setLink x).lanes = s.lanes := rfl
@[simp] theorem State.setLink_buses (x : Link) : (s.setLink x).buses = s.buses := rfl
@[simp] theorem State.setLink_wash (x : Link) : (s.setLink x).wash = s.wash := rfl
@[simp] theorem State.setLink_alloc (x : Link) : (s.setLink x).alloc = s.alloc := rfl
@[simp] theorem State.setLink_feeders (x : Link) : (s.setLink x).feeders = s.feeders := rfl
@[simp] theorem State.setLink_charging (x : Link) : (s.setLink x).charging = s.charging := rfl
@[simp] theorem State.setLink_runs (x : Link) : (s.setLink x).runs = s.runs := rfl
@[simp] theorem State.setLink_departures (x : Link) : (s.setLink x).departures = s.departures := rfl
@[simp] theorem State.setLink_order (x : Link) : (s.setLink x).order = s.order := rfl
@[simp] theorem State.setLink_alerts (x : Link) : (s.setLink x).alerts = s.alerts := rfl
@[simp] theorem State.setLink_pending (x : Link) : (s.setLink x).pending = s.pending := rfl
@[simp] theorem State.setLanes_now (x : List Lane) : (s.setLanes x).now = s.now := rfl
@[simp] theorem State.setLanes_node (x : List Lane) : (s.setLanes x).node = s.node := rfl
@[simp] theorem State.setLanes_clock (x : List Lane) : (s.setLanes x).clock = s.clock := rfl
@[simp] theorem State.setLanes_inputs (x : List Lane) : (s.setLanes x).inputs = s.inputs := rfl
@[simp] theorem State.setLanes_cfg (x : List Lane) : (s.setLanes x).cfg = s.cfg := rfl
@[simp] theorem State.setLanes_link (x : List Lane) : (s.setLanes x).link = s.link := rfl
@[simp] theorem State.setLanes_lanes (x : List Lane) : (s.setLanes x).lanes = x := rfl
@[simp] theorem State.setLanes_buses (x : List Lane) : (s.setLanes x).buses = s.buses := rfl
@[simp] theorem State.setLanes_wash (x : List Lane) : (s.setLanes x).wash = s.wash := rfl
@[simp] theorem State.setLanes_alloc (x : List Lane) : (s.setLanes x).alloc = s.alloc := rfl
@[simp] theorem State.setLanes_feeders (x : List Lane) : (s.setLanes x).feeders = s.feeders := rfl
@[simp] theorem State.setLanes_charging (x : List Lane) : (s.setLanes x).charging = s.charging := rfl
@[simp] theorem State.setLanes_runs (x : List Lane) : (s.setLanes x).runs = s.runs := rfl
@[simp] theorem State.setLanes_departures (x : List Lane) : (s.setLanes x).departures = s.departures := rfl
@[simp] theorem State.setLanes_order (x : List Lane) : (s.setLanes x).order = s.order := rfl
@[simp] theorem State.setLanes_alerts (x : List Lane) : (s.setLanes x).alerts = s.alerts := rfl
@[simp] theorem State.setLanes_pending (x : List Lane) : (s.setLanes x).pending = s.pending := rfl
@[simp] theorem State.setBuses_now (x : BusTable) : (s.setBuses x).now = s.now := rfl
@[simp] theorem State.setBuses_node (x : BusTable) : (s.setBuses x).node = s.node := rfl
@[simp] theorem State.setBuses_clock (x : BusTable) : (s.setBuses x).clock = s.clock := rfl
@[simp] theorem State.setBuses_inputs (x : BusTable) : (s.setBuses x).inputs = s.inputs := rfl
@[simp] theorem State.setBuses_cfg (x : BusTable) : (s.setBuses x).cfg = s.cfg := rfl
@[simp] theorem State.setBuses_link (x : BusTable) : (s.setBuses x).link = s.link := rfl
@[simp] theorem State.setBuses_lanes (x : BusTable) : (s.setBuses x).lanes = s.lanes := rfl
@[simp] theorem State.setBuses_buses (x : BusTable) : (s.setBuses x).buses = x := rfl
@[simp] theorem State.setBuses_wash (x : BusTable) : (s.setBuses x).wash = s.wash := rfl
@[simp] theorem State.setBuses_alloc (x : BusTable) : (s.setBuses x).alloc = s.alloc := rfl
@[simp] theorem State.setBuses_feeders (x : BusTable) : (s.setBuses x).feeders = s.feeders := rfl
@[simp] theorem State.setBuses_charging (x : BusTable) : (s.setBuses x).charging = s.charging := rfl
@[simp] theorem State.setBuses_runs (x : BusTable) : (s.setBuses x).runs = s.runs := rfl
@[simp] theorem State.setBuses_departures (x : BusTable) : (s.setBuses x).departures = s.departures := rfl
@[simp] theorem State.setBuses_order (x : BusTable) : (s.setBuses x).order = s.order := rfl
@[simp] theorem State.setBuses_alerts (x : BusTable) : (s.setBuses x).alerts = s.alerts := rfl
@[simp] theorem State.setBuses_pending (x : BusTable) : (s.setBuses x).pending = s.pending := rfl
@[simp] theorem State.setWash_now (x : Wash) : (s.setWash x).now = s.now := rfl
@[simp] theorem State.setWash_node (x : Wash) : (s.setWash x).node = s.node := rfl
@[simp] theorem State.setWash_clock (x : Wash) : (s.setWash x).clock = s.clock := rfl
@[simp] theorem State.setWash_inputs (x : Wash) : (s.setWash x).inputs = s.inputs := rfl
@[simp] theorem State.setWash_cfg (x : Wash) : (s.setWash x).cfg = s.cfg := rfl
@[simp] theorem State.setWash_link (x : Wash) : (s.setWash x).link = s.link := rfl
@[simp] theorem State.setWash_lanes (x : Wash) : (s.setWash x).lanes = s.lanes := rfl
@[simp] theorem State.setWash_buses (x : Wash) : (s.setWash x).buses = s.buses := rfl
@[simp] theorem State.setWash_wash (x : Wash) : (s.setWash x).wash = x := rfl
@[simp] theorem State.setWash_alloc (x : Wash) : (s.setWash x).alloc = s.alloc := rfl
@[simp] theorem State.setWash_feeders (x : Wash) : (s.setWash x).feeders = s.feeders := rfl
@[simp] theorem State.setWash_charging (x : Wash) : (s.setWash x).charging = s.charging := rfl
@[simp] theorem State.setWash_runs (x : Wash) : (s.setWash x).runs = s.runs := rfl
@[simp] theorem State.setWash_departures (x : Wash) : (s.setWash x).departures = s.departures := rfl
@[simp] theorem State.setWash_order (x : Wash) : (s.setWash x).order = s.order := rfl
@[simp] theorem State.setWash_alerts (x : Wash) : (s.setWash x).alerts = s.alerts := rfl
@[simp] theorem State.setWash_pending (x : Wash) : (s.setWash x).pending = s.pending := rfl
@[simp] theorem State.setAlloc_now (x : Allocator) : (s.setAlloc x).now = s.now := rfl
@[simp] theorem State.setAlloc_node (x : Allocator) : (s.setAlloc x).node = s.node := rfl
@[simp] theorem State.setAlloc_clock (x : Allocator) : (s.setAlloc x).clock = s.clock := rfl
@[simp] theorem State.setAlloc_inputs (x : Allocator) : (s.setAlloc x).inputs = s.inputs := rfl
@[simp] theorem State.setAlloc_cfg (x : Allocator) : (s.setAlloc x).cfg = s.cfg := rfl
@[simp] theorem State.setAlloc_link (x : Allocator) : (s.setAlloc x).link = s.link := rfl
@[simp] theorem State.setAlloc_lanes (x : Allocator) : (s.setAlloc x).lanes = s.lanes := rfl
@[simp] theorem State.setAlloc_buses (x : Allocator) : (s.setAlloc x).buses = s.buses := rfl
@[simp] theorem State.setAlloc_wash (x : Allocator) : (s.setAlloc x).wash = s.wash := rfl
@[simp] theorem State.setAlloc_alloc (x : Allocator) : (s.setAlloc x).alloc = x := rfl
@[simp] theorem State.setAlloc_feeders (x : Allocator) : (s.setAlloc x).feeders = s.feeders := rfl
@[simp] theorem State.setAlloc_charging (x : Allocator) : (s.setAlloc x).charging = s.charging := rfl
@[simp] theorem State.setAlloc_runs (x : Allocator) : (s.setAlloc x).runs = s.runs := rfl
@[simp] theorem State.setAlloc_departures (x : Allocator) : (s.setAlloc x).departures = s.departures := rfl
@[simp] theorem State.setAlloc_order (x : Allocator) : (s.setAlloc x).order = s.order := rfl
@[simp] theorem State.setAlloc_alerts (x : Allocator) : (s.setAlloc x).alerts = s.alerts := rfl
@[simp] theorem State.setAlloc_pending (x : Allocator) : (s.setAlloc x).pending = s.pending := rfl
@[simp] theorem State.setFeeders_now (x : Feeders) : (s.setFeeders x).now = s.now := rfl
@[simp] theorem State.setFeeders_node (x : Feeders) : (s.setFeeders x).node = s.node := rfl
@[simp] theorem State.setFeeders_clock (x : Feeders) : (s.setFeeders x).clock = s.clock := rfl
@[simp] theorem State.setFeeders_inputs (x : Feeders) : (s.setFeeders x).inputs = s.inputs := rfl
@[simp] theorem State.setFeeders_cfg (x : Feeders) : (s.setFeeders x).cfg = s.cfg := rfl
@[simp] theorem State.setFeeders_link (x : Feeders) : (s.setFeeders x).link = s.link := rfl
@[simp] theorem State.setFeeders_lanes (x : Feeders) : (s.setFeeders x).lanes = s.lanes := rfl
@[simp] theorem State.setFeeders_buses (x : Feeders) : (s.setFeeders x).buses = s.buses := rfl
@[simp] theorem State.setFeeders_wash (x : Feeders) : (s.setFeeders x).wash = s.wash := rfl
@[simp] theorem State.setFeeders_alloc (x : Feeders) : (s.setFeeders x).alloc = s.alloc := rfl
@[simp] theorem State.setFeeders_feeders (x : Feeders) : (s.setFeeders x).feeders = x := rfl
@[simp] theorem State.setFeeders_charging (x : Feeders) : (s.setFeeders x).charging = s.charging := rfl
@[simp] theorem State.setFeeders_runs (x : Feeders) : (s.setFeeders x).runs = s.runs := rfl
@[simp] theorem State.setFeeders_departures (x : Feeders) : (s.setFeeders x).departures = s.departures := rfl
@[simp] theorem State.setFeeders_order (x : Feeders) : (s.setFeeders x).order = s.order := rfl
@[simp] theorem State.setFeeders_alerts (x : Feeders) : (s.setFeeders x).alerts = s.alerts := rfl
@[simp] theorem State.setFeeders_pending (x : Feeders) : (s.setFeeders x).pending = s.pending := rfl
@[simp] theorem State.setCharging_now (x : Charging) : (s.setCharging x).now = s.now := rfl
@[simp] theorem State.setCharging_node (x : Charging) : (s.setCharging x).node = s.node := rfl
@[simp] theorem State.setCharging_clock (x : Charging) : (s.setCharging x).clock = s.clock := rfl
@[simp] theorem State.setCharging_inputs (x : Charging) : (s.setCharging x).inputs = s.inputs := rfl
@[simp] theorem State.setCharging_cfg (x : Charging) : (s.setCharging x).cfg = s.cfg := rfl
@[simp] theorem State.setCharging_link (x : Charging) : (s.setCharging x).link = s.link := rfl
@[simp] theorem State.setCharging_lanes (x : Charging) : (s.setCharging x).lanes = s.lanes := rfl
@[simp] theorem State.setCharging_buses (x : Charging) : (s.setCharging x).buses = s.buses := rfl
@[simp] theorem State.setCharging_wash (x : Charging) : (s.setCharging x).wash = s.wash := rfl
@[simp] theorem State.setCharging_alloc (x : Charging) : (s.setCharging x).alloc = s.alloc := rfl
@[simp] theorem State.setCharging_feeders (x : Charging) : (s.setCharging x).feeders = s.feeders := rfl
@[simp] theorem State.setCharging_charging (x : Charging) : (s.setCharging x).charging = x := rfl
@[simp] theorem State.setCharging_runs (x : Charging) : (s.setCharging x).runs = s.runs := rfl
@[simp] theorem State.setCharging_departures (x : Charging) : (s.setCharging x).departures = s.departures := rfl
@[simp] theorem State.setCharging_order (x : Charging) : (s.setCharging x).order = s.order := rfl
@[simp] theorem State.setCharging_alerts (x : Charging) : (s.setCharging x).alerts = s.alerts := rfl
@[simp] theorem State.setCharging_pending (x : Charging) : (s.setCharging x).pending = s.pending := rfl
@[simp] theorem State.setRuns_now (x : RunList) : (s.setRuns x).now = s.now := rfl
@[simp] theorem State.setRuns_node (x : RunList) : (s.setRuns x).node = s.node := rfl
@[simp] theorem State.setRuns_clock (x : RunList) : (s.setRuns x).clock = s.clock := rfl
@[simp] theorem State.setRuns_inputs (x : RunList) : (s.setRuns x).inputs = s.inputs := rfl
@[simp] theorem State.setRuns_cfg (x : RunList) : (s.setRuns x).cfg = s.cfg := rfl
@[simp] theorem State.setRuns_link (x : RunList) : (s.setRuns x).link = s.link := rfl
@[simp] theorem State.setRuns_lanes (x : RunList) : (s.setRuns x).lanes = s.lanes := rfl
@[simp] theorem State.setRuns_buses (x : RunList) : (s.setRuns x).buses = s.buses := rfl
@[simp] theorem State.setRuns_wash (x : RunList) : (s.setRuns x).wash = s.wash := rfl
@[simp] theorem State.setRuns_alloc (x : RunList) : (s.setRuns x).alloc = s.alloc := rfl
@[simp] theorem State.setRuns_feeders (x : RunList) : (s.setRuns x).feeders = s.feeders := rfl
@[simp] theorem State.setRuns_charging (x : RunList) : (s.setRuns x).charging = s.charging := rfl
@[simp] theorem State.setRuns_runs (x : RunList) : (s.setRuns x).runs = x := rfl
@[simp] theorem State.setRuns_departures (x : RunList) : (s.setRuns x).departures = s.departures := rfl
@[simp] theorem State.setRuns_order (x : RunList) : (s.setRuns x).order = s.order := rfl
@[simp] theorem State.setRuns_alerts (x : RunList) : (s.setRuns x).alerts = s.alerts := rfl
@[simp] theorem State.setRuns_pending (x : RunList) : (s.setRuns x).pending = s.pending := rfl
@[simp] theorem State.setDepartures_now (x : Departures) : (s.setDepartures x).now = s.now := rfl
@[simp] theorem State.setDepartures_node (x : Departures) : (s.setDepartures x).node = s.node := rfl
@[simp] theorem State.setDepartures_clock (x : Departures) : (s.setDepartures x).clock = s.clock := rfl
@[simp] theorem State.setDepartures_inputs (x : Departures) : (s.setDepartures x).inputs = s.inputs := rfl
@[simp] theorem State.setDepartures_cfg (x : Departures) : (s.setDepartures x).cfg = s.cfg := rfl
@[simp] theorem State.setDepartures_link (x : Departures) : (s.setDepartures x).link = s.link := rfl
@[simp] theorem State.setDepartures_lanes (x : Departures) : (s.setDepartures x).lanes = s.lanes := rfl
@[simp] theorem State.setDepartures_buses (x : Departures) : (s.setDepartures x).buses = s.buses := rfl
@[simp] theorem State.setDepartures_wash (x : Departures) : (s.setDepartures x).wash = s.wash := rfl
@[simp] theorem State.setDepartures_alloc (x : Departures) : (s.setDepartures x).alloc = s.alloc := rfl
@[simp] theorem State.setDepartures_feeders (x : Departures) : (s.setDepartures x).feeders = s.feeders := rfl
@[simp] theorem State.setDepartures_charging (x : Departures) : (s.setDepartures x).charging = s.charging := rfl
@[simp] theorem State.setDepartures_runs (x : Departures) : (s.setDepartures x).runs = s.runs := rfl
@[simp] theorem State.setDepartures_departures (x : Departures) : (s.setDepartures x).departures = x := rfl
@[simp] theorem State.setDepartures_order (x : Departures) : (s.setDepartures x).order = s.order := rfl
@[simp] theorem State.setDepartures_alerts (x : Departures) : (s.setDepartures x).alerts = s.alerts := rfl
@[simp] theorem State.setDepartures_pending (x : Departures) : (s.setDepartures x).pending = s.pending := rfl
@[simp] theorem State.setOrder_now (x : Option Order) : (s.setOrder x).now = s.now := rfl
@[simp] theorem State.setOrder_node (x : Option Order) : (s.setOrder x).node = s.node := rfl
@[simp] theorem State.setOrder_clock (x : Option Order) : (s.setOrder x).clock = s.clock := rfl
@[simp] theorem State.setOrder_inputs (x : Option Order) : (s.setOrder x).inputs = s.inputs := rfl
@[simp] theorem State.setOrder_cfg (x : Option Order) : (s.setOrder x).cfg = s.cfg := rfl
@[simp] theorem State.setOrder_link (x : Option Order) : (s.setOrder x).link = s.link := rfl
@[simp] theorem State.setOrder_lanes (x : Option Order) : (s.setOrder x).lanes = s.lanes := rfl
@[simp] theorem State.setOrder_buses (x : Option Order) : (s.setOrder x).buses = s.buses := rfl
@[simp] theorem State.setOrder_wash (x : Option Order) : (s.setOrder x).wash = s.wash := rfl
@[simp] theorem State.setOrder_alloc (x : Option Order) : (s.setOrder x).alloc = s.alloc := rfl
@[simp] theorem State.setOrder_feeders (x : Option Order) : (s.setOrder x).feeders = s.feeders := rfl
@[simp] theorem State.setOrder_charging (x : Option Order) : (s.setOrder x).charging = s.charging := rfl
@[simp] theorem State.setOrder_runs (x : Option Order) : (s.setOrder x).runs = s.runs := rfl
@[simp] theorem State.setOrder_departures (x : Option Order) : (s.setOrder x).departures = s.departures := rfl
@[simp] theorem State.setOrder_order (x : Option Order) : (s.setOrder x).order = x := rfl
@[simp] theorem State.setOrder_alerts (x : Option Order) : (s.setOrder x).alerts = s.alerts := rfl
@[simp] theorem State.setOrder_pending (x : Option Order) : (s.setOrder x).pending = s.pending := rfl
@[simp] theorem State.setAlerts_now (x : Alerts) : (s.setAlerts x).now = s.now := rfl
@[simp] theorem State.setAlerts_node (x : Alerts) : (s.setAlerts x).node = s.node := rfl
@[simp] theorem State.setAlerts_clock (x : Alerts) : (s.setAlerts x).clock = s.clock := rfl
@[simp] theorem State.setAlerts_inputs (x : Alerts) : (s.setAlerts x).inputs = s.inputs := rfl
@[simp] theorem State.setAlerts_cfg (x : Alerts) : (s.setAlerts x).cfg = s.cfg := rfl
@[simp] theorem State.setAlerts_link (x : Alerts) : (s.setAlerts x).link = s.link := rfl
@[simp] theorem State.setAlerts_lanes (x : Alerts) : (s.setAlerts x).lanes = s.lanes := rfl
@[simp] theorem State.setAlerts_buses (x : Alerts) : (s.setAlerts x).buses = s.buses := rfl
@[simp] theorem State.setAlerts_wash (x : Alerts) : (s.setAlerts x).wash = s.wash := rfl
@[simp] theorem State.setAlerts_alloc (x : Alerts) : (s.setAlerts x).alloc = s.alloc := rfl
@[simp] theorem State.setAlerts_feeders (x : Alerts) : (s.setAlerts x).feeders = s.feeders := rfl
@[simp] theorem State.setAlerts_charging (x : Alerts) : (s.setAlerts x).charging = s.charging := rfl
@[simp] theorem State.setAlerts_runs (x : Alerts) : (s.setAlerts x).runs = s.runs := rfl
@[simp] theorem State.setAlerts_departures (x : Alerts) : (s.setAlerts x).departures = s.departures := rfl
@[simp] theorem State.setAlerts_order (x : Alerts) : (s.setAlerts x).order = s.order := rfl
@[simp] theorem State.setAlerts_alerts (x : Alerts) : (s.setAlerts x).alerts = x := rfl
@[simp] theorem State.setAlerts_pending (x : Alerts) : (s.setAlerts x).pending = s.pending := rfl
@[simp] theorem State.setPending_now (x : List Instr) : (s.setPending x).now = s.now := rfl
@[simp] theorem State.setPending_node (x : List Instr) : (s.setPending x).node = s.node := rfl
@[simp] theorem State.setPending_clock (x : List Instr) : (s.setPending x).clock = s.clock := rfl
@[simp] theorem State.setPending_inputs (x : List Instr) : (s.setPending x).inputs = s.inputs := rfl
@[simp] theorem State.setPending_cfg (x : List Instr) : (s.setPending x).cfg = s.cfg := rfl
@[simp] theorem State.setPending_link (x : List Instr) : (s.setPending x).link = s.link := rfl
@[simp] theorem State.setPending_lanes (x : List Instr) : (s.setPending x).lanes = s.lanes := rfl
@[simp] theorem State.setPending_buses (x : List Instr) : (s.setPending x).buses = s.buses := rfl
@[simp] theorem State.setPending_wash (x : List Instr) : (s.setPending x).wash = s.wash := rfl
@[simp] theorem State.setPending_alloc (x : List Instr) : (s.setPending x).alloc = s.alloc := rfl
@[simp] theorem State.setPending_feeders (x : List Instr) : (s.setPending x).feeders = s.feeders := rfl
@[simp] theorem State.setPending_charging (x : List Instr) : (s.setPending x).charging = s.charging := rfl
@[simp] theorem State.setPending_runs (x : List Instr) : (s.setPending x).runs = s.runs := rfl
@[simp] theorem State.setPending_departures (x : List Instr) : (s.setPending x).departures = s.departures := rfl
@[simp] theorem State.setPending_order (x : List Instr) : (s.setPending x).order = s.order := rfl
@[simp] theorem State.setPending_alerts (x : List Instr) : (s.setPending x).alerts = s.alerts := rfl
@[simp] theorem State.setPending_pending (x : List Instr) : (s.setPending x).pending = x := rfl

end Sys2Proof.Machine
end

