-- ==== Sys2Proof/Laws/Keeps.lean ====
section
/-! SUPPORT. What every shared operation keeps, said once: the node, clock, inputs, configuration, timebase and command
queue stand; the alert list and the send queue stay within 16; nothing joins the send queue outside LISTEN and RUN; the
run numbers stand; no bus record is added or renamed. Each lemma takes the relation from an earlier state on. -/

namespace Sys2Proof.Machine

/-- The key of a bus record: its handle and its fleet. -/
def Bus.key (b : Bus) : Nat × Option Nat := (b.id, b.fleet)

/-- What every operation within a node state keeps from `s` to `t`: the node, its clock, inputs, configuration, timebase
and command queue; the bounds of the alert list and of the send queue; a silent node's send queue. -/
structure Holds (s t : State) : Prop where
  now : t.now = s.now
  node : t.node = s.node
  clock : t.clock = s.clock
  inputs : t.inputs = s.inputs
  cfg : t.cfg = s.cfg
  pending : t.pending = s.pending
  alerts : s.alerts.entries.length ≤ 16 → t.alerts.entries.length ≤ 16
  queue : s.link.size ≤ 16 → t.link.size ≤ 16
  silent : s.listenOrRun = false → t.link.size ≤ s.link.size

/-- What an operation that creates, renames or renumbers nothing keeps besides. -/
structure Keeps (s t : State) : Prop extends Holds s t where
  runs : t.runs.runs.map (·.run) = s.runs.runs.map (·.run)
  nextId : t.buses.nextId = s.buses.nextId
  keys : (t.buses.records.map Bus.key).Sublist (s.buses.records.map Bus.key)

theorem Holds.refl (s : State) : Holds s s := by constructor <;> simp

theorem Keeps.refl (s : State) : Keeps s s := { Holds.refl s with runs := rfl, nextId := rfl, keys := .refl _ }

theorem Holds.listenOrRun {s t : State} (h : Holds s t) : t.listenOrRun = s.listenOrRun := by
  simp [State.listenOrRun, h.node]

theorem Holds.trans {s t u : State} (h : Holds s t) (k : Holds t u) : Holds s u where
  now := k.now.trans h.now
  node := k.node.trans h.node
  clock := k.clock.trans h.clock
  inputs := k.inputs.trans h.inputs
  cfg := k.cfg.trans h.cfg
  pending := k.pending.trans h.pending
  alerts := fun a => k.alerts (h.alerts a)
  queue := fun a => k.queue (h.queue a)
  silent := fun a => (k.silent (h.listenOrRun.trans a)).trans (h.silent a)

theorem Keeps.trans {s t u : State} (h : Keeps s t) (k : Keeps t u) : Keeps s u :=
  { h.toHolds.trans k.toHolds with
    runs := k.runs.trans h.runs
    nextId := k.nextId.trans h.nextId
    keys := k.keys.trans h.keys }

/-- An operation that keeps, after one that holds. -/
theorem Holds.keeps {s t u : State} (h : Holds s t) (k : Keeps t u) : Holds s u := h.trans k.toHolds

theorem foldl_keeps {α : Type} (f : State → α → State) (hf : ∀ u x, Keeps u (f u x)) (l : List α) {s u : State}
    (h : Keeps s u) : Keeps s (l.foldl f u) := by
  induction l generalizing u with
  | nil => exact h
  | cons x xs ih => exact ih (h.trans (hf u x))

/-! ### Block updates -/

theorem setLanes_keeps {s u : State} (x : List Lane) (h : Keeps s u) : Keeps s (u.setLanes x) :=
  h.trans (by refine ⟨⟨?_, ?_, ?_, ?_, ?_, ?_, ?_, ?_, ?_⟩, ?_, ?_, ?_⟩ <;> simp)
theorem setWash_keeps {s u : State} (x : Wash) (h : Keeps s u) : Keeps s (u.setWash x) :=
  h.trans (by refine ⟨⟨?_, ?_, ?_, ?_, ?_, ?_, ?_, ?_, ?_⟩, ?_, ?_, ?_⟩ <;> simp)
theorem setAlloc_keeps {s u : State} (x : Allocator) (h : Keeps s u) : Keeps s (u.setAlloc x) :=
  h.trans (by refine ⟨⟨?_, ?_, ?_, ?_, ?_, ?_, ?_, ?_, ?_⟩, ?_, ?_, ?_⟩ <;> simp)
theorem setFeeders_keeps {s u : State} (x : Feeders) (h : Keeps s u) : Keeps s (u.setFeeders x) :=
  h.trans (by refine ⟨⟨?_, ?_, ?_, ?_, ?_, ?_, ?_, ?_, ?_⟩, ?_, ?_, ?_⟩ <;> simp)
theorem setCharging_keeps {s u : State} (x : Charging) (h : Keeps s u) : Keeps s (u.setCharging x) :=
  h.trans (by refine ⟨⟨?_, ?_, ?_, ?_, ?_, ?_, ?_, ?_, ?_⟩, ?_, ?_, ?_⟩ <;> simp)
theorem setDepartures_keeps {s u : State} (x : Departures) (h : Keeps s u) : Keeps s (u.setDepartures x) :=
  h.trans (by refine ⟨⟨?_, ?_, ?_, ?_, ?_, ?_, ?_, ?_, ?_⟩, ?_, ?_, ?_⟩ <;> simp)
theorem setOrder_keeps {s u : State} (x : Option Order) (h : Keeps s u) : Keeps s (u.setOrder x) :=
  h.trans (by refine ⟨⟨?_, ?_, ?_, ?_, ?_, ?_, ?_, ?_, ?_⟩, ?_, ?_, ?_⟩ <;> simp)
theorem setRuns_keeps {s u : State} (x : RunList) (hx : x.runs.map (·.run) = u.runs.runs.map (·.run)) (h : Keeps s u) :
    Keeps s (u.setRuns x) := h.trans (by refine ⟨⟨?_, ?_, ?_, ?_, ?_, ?_, ?_, ?_, ?_⟩, ?_, ?_, ?_⟩ <;> simp [hx])
theorem setBuses_keeps {s u : State} (x : BusTable) (hn : x.nextId = u.buses.nextId)
    (hk : (x.records.map Bus.key).Sublist (u.buses.records.map Bus.key)) (h : Keeps s u) : Keeps s (u.setBuses x) :=
  h.trans (by refine ⟨⟨?_, ?_, ?_, ?_, ?_, ?_, ?_, ?_, ?_⟩, ?_, ?_, ?_⟩ <;> simp [hn, hk])
theorem setLink_keeps {s u : State} (x : Link) (hx : x.size ≤ u.link.size) (h : Keeps s u) : Keeps s (u.setLink x) :=
  h.trans (by refine ⟨⟨?_, ?_, ?_, ?_, ?_, ?_, ?_, ?_, ?_⟩, ?_, ?_, ?_⟩ <;> simp <;> omega)
theorem setAlerts_keeps {s u : State} (x : Alerts) (hx : u.alerts.entries.length ≤ 16 → x.entries.length ≤ 16)
    (h : Keeps s u) : Keeps s (u.setAlerts x) := h.trans (by refine ⟨⟨?_, ?_, ?_, ?_, ?_, ?_, ?_, ?_, ?_⟩, ?_, ?_, ?_⟩ <;> simp_all)

/-! ### Records by their key -/

theorem map_run_eq (l : List Run) (f : Run → Run) (hf : ∀ r, (f r).run = r.run) :
    (l.map f).map (·.run) = l.map (·.run) := by simp [hf]

theorem map_key_eq (l : List Bus) (f : Bus → Bus) (hf : ∀ b, (f b).key = b.key) :
    (l.map f).map Bus.key = l.map Bus.key := by simp [hf]

theorem updateLane_keeps {s u : State} (n : Nat) (f : Lane → Lane) (h : Keeps s u) : Keeps s (u.updateLane n f) :=
  setLanes_keeps _ h
theorem updateCharger_keeps {s u : State} (n : Nat) (f : Charger → Charger) (h : Keeps s u) :
    Keeps s (u.updateCharger n f) := setCharging_keeps _ h
theorem setStage_keeps {s u : State} (n : Nat) (st : StageState) (t : Option Nat) (h : Keeps s u) :
    Keeps s (u.setStage n st t) := setWash_keeps _ h
theorem updateRun_keeps {s u : State} (n : Nat) (f : Run → Run) (hf : ∀ r, (f r).run = r.run) (h : Keeps s u) :
    Keeps s (u.updateRun n f) :=
  setRuns_keeps _ (map_run_eq _ _ (fun r => by split <;> simp [hf])) h
theorem mapBuses_keeps {s u : State} (f : Bus → Bus) (hf : ∀ b, (f b).key = b.key) (h : Keeps s u) :
    Keeps s (u.setBuses { u.buses with records := u.buses.records.map f }) :=
  setBuses_keeps _ rfl (by rw [map_key_eq _ _ hf]) h
theorem updateBus_keeps {s u : State} (n : Nat) (f : Bus → Bus) (hf : ∀ b, (f b).key = b.key) (h : Keeps s u) :
    Keeps s (u.updateBus n f) := mapBuses_keeps _ (fun b => by split <;> simp [hf]) h
theorem setPlace_keeps {s u : State} (n : Nat) (p : Place) (h : Keeps s u) : Keeps s (u.setPlace n p) :=
  updateBus_keeps _ _ (fun _ => rfl) h
theorem removeBus_keeps {s u : State} (n : Nat) (h : Keeps s u) : Keeps s (u.removeBus n) :=
  setBuses_keeps _ rfl (List.filter_sublist.map _) h
theorem freeBus_keeps {s u : State} (n : Nat) (h : Keeps s u) : Keeps s (u.freeBus n) :=
  updateBus_keeps _ _ (fun _ => rfl) h
theorem nameRun_keeps {s u : State} (n : Nat) (r : Run) (h : Keeps s u) : Keeps s (u.nameRun n r) :=
  updateBus_keeps _ _ (fun _ => rfl) h
theorem setNeed_keeps {s u : State} (n m : Nat) (h : Keeps s u) : Keeps s (u.setNeed n m) :=
  updateBus_keeps _ _ (fun _ => rfl) h

/-! ### Alerts and the send queue -/

theorem removeFirst_length {α : Type} (p : α → Bool) (l : List α) (h : l.any p = true) :
    (removeFirst p l).length + 1 = l.length := by
  induction l with
  | nil => simp at h
  | cons x xs ih =>
    by_cases hx : p x = true
    · simp [removeFirst, hx]
    · have hxs : xs.any p = true := by simpa [hx] using h
      simp [removeFirst, hx, ih hxs]

/-- The alert list never grows past 16 by storing an entry (R212). -/
theorem Alerts.store_le (e : AlertEntry) (a : Alerts) (h : a.entries.length ≤ 16) : (a.store e).entries.length ≤ 16 := by
  unfold Alerts.store
  split
  · simp; omega
  · split
    · rename_i hany
      have := removeFirst_length _ _ hany
      simp; omega
    · exact h

theorem storeAlert_keeps {s u : State} (c : AlertCode) (n : Nat) (h : Keeps s u) : Keeps s (u.storeAlert c n) :=
  setAlerts_keeps _ (Alerts.store_le _ _) h

@[simp] theorem Link.push_size (f : SendFrame) (l : Link) : (l.push f).size = l.size + 1 := by
  unfold Link.push Link.size
  split <;> simp <;> omega

@[simp] theorem replaceDraw_length (n : Notice) (l : List SendFrame) : (replaceDraw n l).length = l.length := by
  induction l with
  | nil => rfl
  | cons f fs ih => simp only [replaceDraw]; split <;> simp [ih]

@[simp] theorem Link.replaceWaitingDraw_size (n : Notice) (l : Link) : (l.replaceWaitingDraw n).size = l.size := by
  unfold Link.replaceWaitingDraw Link.size
  split <;> simp
  cases l.other <;> simp; omega

theorem answerLeft_keeps {s u : State} (h : Keeps s u) : Keeps s u.answerLeft := by
  unfold State.answerLeft
  split
  · split
    · exact setOrder_keeps _ h
    · exact h
  · exact h

theorem frameLost_keeps {s u : State} (f : SendFrame) (h : Keeps s u) : Keeps s (u.frameLost f) := by
  unfold State.frameLost
  split
  · exact answerLeft_keeps h
  · exact h

theorem dropOnFull_keeps {s u : State} (f : SendFrame) (h : Keeps s u) : Keeps s (u.dropOnFull f) := by
  unfold State.dropOnFull
  split
  · exact frameLost_keeps _ h
  · exact frameLost_keeps _ (storeAlert_keeps _ _ (setLink_keeps _ (Nat.le_refl _) h))

theorem offerFrame_keeps {s u : State} (f : SendFrame) (h : Keeps s u) : Keeps s (u.offerFrame f) := by
  unfold State.offerFrame
  split
  · split
    · exact setLink_keeps _ (by simp) h
    · split
      · refine h.trans ⟨⟨rfl, rfl, rfl, rfl, rfl, rfl, fun a => a, fun _ => ?_, fun a => ?_⟩, rfl, rfl, .refl _⟩
        · simp; omega
        · simp_all
      · exact dropOnFull_keeps _ h
  · exact frameLost_keeps _ h

theorem send_keeps {s u : State} (n : Notice) (h : Keeps s u) : Keeps s (u.send n) := offerFrame_keeps _ h
theorem raise_keeps {s u : State} (c : AlertCode) (n : Nat) (h : Keeps s u) : Keeps s (u.raise c n) :=
  send_keeps _ (storeAlert_keeps _ _ h)
theorem frameEnded_keeps {s u : State} (h : Keeps s u) : Keeps s u.frameEnded := setLink_keeps _ (Nat.le_refl _) h

theorem idleFor_keeps {s u : State} (n : Nat) (h : Keeps s u) : Keeps s (u.idleFor n) := by
  unfold State.idleFor
  split
  · exact setLink_keeps _ (Nat.le_refl _) h
  · exact h

theorem emptyQueue_keeps {s u : State} (h : Keeps s u) : Keeps s u.emptyQueue := by
  have key : Keeps s (u.setLink { u.link with urgent := [], other := [], sending := none, latch := false }) :=
    setLink_keeps _ (by simp [Link.size]) h
  unfold State.emptyQueue
  dsimp only
  repeat' split
  all_goals first | exact key | exact setOrder_keeps _ key

/-! ### Buses and lanes -/

theorem repeatNeed_keeps {s u : State} (l p : Nat) (h : Keeps s u) : Keeps s (u.repeatNeed l p) := by
  unfold State.repeatNeed
  repeat' split
  all_goals first | exact h | exact setNeed_keeps _ _ h
theorem markSuspect_keeps {s u : State} (l : Nat) (h : Keeps s u) : Keeps s (u.markSuspect l) := updateLane_keeps _ _ h
theorem suspectLane_keeps {s u : State} (l : Nat) (h : Keeps s u) : Keeps s (u.suspectLane l) := by
  unfold State.suspectLane
  repeat' split
  all_goals first | exact h | exact raise_keeps _ _ (markSuspect_keeps _ h)
theorem settleBerth_keeps {s u : State} (e : Bool) (l p : Nat) (h : Keeps s u) : Keeps s (u.settleBerth e l p) :=
  updateLane_keeps _ _ h
theorem addHold_keeps {s u : State} (l : Nat) (x : OfferHold) (h : Keeps s u) : Keeps s (u.addHold l x) :=
  updateLane_keeps _ _ h
theorem releaseHold_keeps {s u : State} (l : Nat) (x : OfferHold) (h : Keeps s u) : Keeps s (u.releaseHold l x) :=
  updateLane_keeps _ _ h
theorem addReservation_keeps {s u : State} (l : Nat) (x : Reservation) (h : Keeps s u) : Keeps s (u.addReservation l x) :=
  updateLane_keeps _ _ h
theorem releaseReservation_keeps {s u : State} (l : Nat) (x : Reservation) (h : Keeps s u) :
    Keeps s (u.releaseReservation l x) := updateLane_keeps _ _ h
theorem convertHold_keeps {s u : State} (l : Nat) (x : OfferHold) (f : Nat) (h : Keeps s u) :
    Keeps s (u.convertHold l x f) := addReservation_keeps _ _ (releaseHold_keeps _ _ h)
theorem dropReservations_keeps {s u : State} (f : Nat) (h : Keeps s u) : Keeps s (u.dropReservations f) :=
  setLanes_keeps _ h
theorem markLost_keeps {s u : State} (f : Nat) (h : Keeps s u) : Keeps s (u.markLost f) :=
  mapBuses_keeps _ (fun b => by repeat' split
                                all_goals rfl) h
theorem markWithdrawn_keeps {s u : State} (x : OfferHold) (h : Keeps s u) : Keeps s (u.markWithdrawn x) :=
  setAlloc_keeps _ h
theorem markUnreserved_keeps {s u : State} (f : Nat) (h : Keeps s u) : Keeps s (u.markUnreserved f) :=
  setDepartures_keeps _ h
theorem cancelOne_keeps {s u : State} (l : Lane) (h : Keeps s u) : Keeps s (u.cancelOne l) := by
  unfold State.cancelOne
  split
  · exact markLost_keeps _ (releaseReservation_keeps _ _ h)
  · exact markWithdrawn_keeps _ (releaseHold_keeps _ _ h)
  · exact markUnreserved_keeps _ (releaseReservation_keeps _ _ h)
  · exact h
theorem roomTest_keeps {s u : State} (l : Nat) (h : Keeps s u) : Keeps s (u.roomTest l) := by
  unfold State.roomTest
  repeat' split
  all_goals first | exact h | exact cancelOne_keeps _ h
theorem roomTests_keeps {s : State} (l n : Nat) : ∀ {u : State}, Keeps s u → Keeps s (State.roomTests l n u) := by
  induction n with
  | zero => exact fun h => h
  | succ n ih => exact fun h => ih (roomTest_keeps l h)
theorem parkAt_keeps {s u : State} (i l p : Nat) (h : Keeps s u) : Keeps s (u.parkAt i l p) :=
  settleBerth_keeps _ _ _ (repeatNeed_keeps _ _ (setPlace_keeps _ _ h))

/-! ### Wash lane -/

theorem joinApron_keeps {s u : State} (i f : Nat) (h : Keeps s u) : Keeps s (u.joinApron i f) :=
  setWash_keeps _ (setPlace_keeps _ _ h)
theorem joinUnwashed_keeps {s u : State} (i f : Nat) (h : Keeps s u) : Keeps s (u.joinUnwashed i f) :=
  setWash_keeps _ (updateBus_keeps _ _ (fun _ => rfl) h)
theorem leaveApron_keeps {s u : State} (f : Nat) (h : Keeps s u) : Keeps s (u.leaveApron f) := setWash_keeps _ h
theorem signalOn_keeps {s u : State} (n : Nat) (h : Keeps s u) : Keeps s (u.signalOn n) := by
  unfold State.signalOn
  dsimp only
  split
  · exact setWash_keeps _ (setStage_keeps _ _ _ h)
  · exact setStage_keeps _ _ _ h
theorem testOnward_keeps {s u : State} (n : Nat) (h : Keeps s u) : Keeps s (u.testOnward n) := by
  unfold State.testOnward
  split
  · exact signalOn_keeps _ h
  · exact h
theorem testStages_keeps {s : State} (n : Nat) : ∀ {u : State}, Keeps s u → Keeps s (State.testStages n u) := by
  induction n with
  | zero => exact fun h => h
  | succ n ih => exact fun h => ih (testOnward_keeps _ h)
theorem spill_keeps {s : State} (n : Nat) : ∀ {u : State}, Keeps s u → Keeps s (State.spill n u) := by
  induction n with
  | zero => exact fun h => h
  | succ n ih =>
    intro u h
    unfold State.spill
    repeat' split
    all_goals first | exact h | exact ih (joinUnwashed_keeps _ _ h)
theorem testEntryCall_keeps {s u : State} (h : Keeps s u) : Keeps s u.testEntryCall := by
  unfold State.testEntryCall
  repeat' split
  all_goals first | exact h | exact setWash_keeps _ h
theorem washTests_keeps {s u : State} (h : Keeps s u) : Keeps s u.washTests := by
  unfold State.washTests
  split
  · exact testEntryCall_keeps (spill_keeps 4 (testStages_keeps _ h))
  · exact h
theorem vacate_keeps {s u : State} (n : Nat) (h : Keeps s u) : Keeps s (u.vacate n) := by
  unfold State.vacate
  repeat' split
  all_goals exact setStage_keeps _ _ _ h
theorem enterDwell_keeps {s u : State} (n : Nat) (h : Keeps s u) : Keeps s (u.enterDwell n) := setStage_keeps _ _ _ h
theorem enterSpinup_keeps {s u : State} (n : Nat) (h : Keeps s u) : Keeps s (u.enterSpinup n) := by
  unfold State.enterSpinup
  split
  · exact enterDwell_keeps _ h
  · exact setStage_keeps _ _ _ h
theorem receiveInto_keeps {s u : State} (i n : Nat) (h : Keeps s u) : Keeps s (u.receiveInto i n) := by
  have k : Keeps s (u.setPlace i (.washing n)) := setPlace_keeps _ _ h
  unfold State.receiveInto
  dsimp only
  repeat' split
  · exact setStage_keeps _ _ _ k
  · exact enterDwell_keeps _ k
  · exact enterSpinup_keeps _ k
theorem enterStopped_keeps {s u : State} (h : Keeps s u) : Keeps s u.enterStopped := by
  unfold State.enterStopped
  split
  · exact h
  · exact setWash_keeps _ h
theorem enterFrostHold_keeps {s u : State} (h : Keeps s u) : Keeps s u.enterFrostHold := by
  unfold State.enterFrostHold
  split
  · exact raise_keeps _ _ (setWash_keeps _ h)
  · exact h
theorem leaveWash_keeps {s u : State} (b : Bus) (h : Keeps s u) : Keeps s (u.leaveWash b) := by
  unfold State.leaveWash
  dsimp only
  repeat' split
  all_goals first
    | exact h
    | exact setWash_keeps _ h
    | exact vacate_keeps _ (setWash_keeps _ h)

/-! ### Runs -/

theorem raiseFront_keeps {s u : State} (b : State) (h : Keeps s u) : Keeps s (u.raiseFront b) := by
  unfold State.raiseFront
  repeat' split
  all_goals first | exact h | exact setRuns_keeps _ rfl h
theorem sendClaim_keeps {s u : State} (a b c : Nat) (h : Keeps s u) : Keeps s (u.sendClaim a b c) := by
  unfold State.sendClaim
  split
  · exact send_keeps _ h
  · exact h
theorem claimRun_keeps {s u : State} (r : Run) (a b : Nat) (h : Keeps s u) : Keeps s (u.claimRun r a b) :=
  send_keeps _ (updateRun_keeps _ _ (fun _ => rfl) h)
theorem claimTest_keeps {s u : State} (n : Nat) (h : Keeps s u) : Keeps s (u.claimTest n) := by
  unfold State.claimTest
  repeat' split
  all_goals first | exact h | exact claimRun_keeps _ _ _ h
theorem claimTests_keeps {s u : State} (b : State) (e : List Nat) (h : Keeps s u) : Keeps s (State.claimTests b e u) :=
  foldl_keeps _ (fun _ _ => claimTest_keeps _ (Keeps.refl _)) _ h
theorem keepRefresh_keeps {s u : State} (b : State) (h : Keeps s u) : Keeps s (u.keepRefresh b) :=
  setRuns_keeps _ (map_run_eq _ _ (fun _ => rfl)) h
theorem startRefresh_keeps {s u : State} (n : Nat) (h : Keeps s u) : Keeps s (u.startRefresh n) := by
  unfold State.startRefresh
  repeat' split
  all_goals first | exact h | exact updateRun_keeps _ _ (fun _ => rfl) h
theorem withdrawClaim_keeps {s u : State} (n : Nat) (h : Keeps s u) : Keeps s (u.withdrawClaim n) := by
  unfold State.withdrawClaim
  repeat' split
  all_goals first | exact h | exact sendClaim_keeps _ _ _ (updateRun_keeps _ _ (fun _ => rfl) h)
theorem withdrawClaims_keeps {s u : State} (h : Keeps s u) : Keeps s u.withdrawClaims :=
  foldl_keeps _ (fun _ _ => withdrawClaim_keeps _ (Keeps.refl _)) _ h
theorem giveUpRun_keeps {s u : State} (n f : Nat) (h : Keeps s u) : Keeps s (u.giveUpRun n f) := by
  unfold State.giveUpRun
  dsimp only
  repeat' split
  all_goals first
    | exact h
    | exact sendClaim_keeps _ _ _ (updateRun_keeps _ _ (fun _ => rfl) h)
    | exact updateRun_keeps _ _ (fun _ => rfl) h
theorem bindBus_keeps {s u : State} (i : Nat) (h : Keeps s u) : Keeps s (u.bindBus i) := by
  unfold State.bindBus
  dsimp only
  repeat' split
  all_goals first
    | exact h
    | exact nameRun_keeps _ _ (updateRun_keeps _ _ (fun _ => rfl) (giveUpRun_keeps _ _ h))
    | exact nameRun_keeps _ _ (updateRun_keeps _ _ (fun _ => rfl) h)
theorem bindAll_keeps {s u : State} (h : Keeps s u) : Keeps s u.bindAll :=
  foldl_keeps _ (fun _ _ => bindBus_keeps _ (Keeps.refl _)) _ h
theorem freeBound_keeps {s u : State} (n : Nat) (h : Keeps s u) : Keeps s (u.freeBound n) := by
  unfold State.freeBound
  split
  · exact freeBus_keeps _ h
  · exact h
theorem runLosesRecord_keeps {s u : State} (n f : Nat) (h : Keeps s u) : Keeps s (u.runLosesRecord n f) := by
  unfold State.runLosesRecord
  repeat' split
  all_goals first
    | exact h
    | exact giveUpRun_keeps _ _ h
    | exact updateRun_keeps _ _ (fun _ => rfl) h

/-! ### Calls -/

theorem removeOffer_keeps {s u : State} (c : Nat) (h : Keeps s u) : Keeps s (u.removeOffer c) := setAlloc_keeps _ h
theorem dropOffer_keeps {s u : State} (c : Nat) (h : Keeps s u) : Keeps s (u.dropOffer c) := by
  unfold State.dropOffer
  split
  · exact removeOffer_keeps _ (releaseHold_keeps _ _ h)
  · exact h
theorem evaluateCall_keeps {s u : State} (n : Nat) (c : Call) (h : Keeps s u) : Keeps s (u.evaluateCall n c) := by
  have k : Keeps s (u.dropOffer n) := dropOffer_keeps _ h
  unfold State.evaluateCall
  dsimp only
  repeat' split
  all_goals first | exact k | exact send_keeps _ (setAlloc_keeps _ (addHold_keeps _ _ k))
theorem makeCall_keeps {s u : State} (b : Bus) (f n : Nat) (h : Keeps s u) : Keeps s (u.makeCall b f n) :=
  evaluateCall_keeps _ _ (send_keeps _ (setAlloc_keeps _ h))
theorem callTest_keeps {s u : State} (h : Keeps s u) : Keeps s u.callTest := by
  unfold State.callTest
  repeat' split
  all_goals first | exact h | exact makeCall_keeps _ _ _ h
theorem callerIdle_keeps {s u : State} (h : Keeps s u) : Keeps s u.callerIdle := setAlloc_keeps _ h
theorem endCall_keeps {s u : State} (h : Keeps s u) : Keeps s u.endCall := dropOffer_keeps _ (callerIdle_keeps h)

/-! ### Power -/

theorem lapsePlace_keeps {s u : State} (b : Nat) (h : Keeps s u) : Keeps s (u.lapsePlace b) := setCharging_keeps _ h
theorem cutOver_keeps {s : State} (v : Charger → Nat) (a : Nat → Charger → Charger) (g : Group) (l : List Nat) :
    ∀ (x : Nat) {u : State}, Keeps s u → Keeps s (State.cutOver v a g l x u) := by
  induction l with
  | nil => exact fun _ _ h => h
  | cons b bs ih =>
    intro x u h
    unfold State.cutOver
    dsimp only
    repeat' split
    all_goals first | exact h | exact ih _ h | exact ih _ (updateCharger_keeps _ _ h)
theorem setGrant_keeps {s u : State} (g : Group) (n : Nat) (h : Keeps s u) : Keeps s (u.setGrant g n) :=
  setFeeders_keeps _ h
theorem cutGroup_keeps {s u : State} (g : Group) (h : Keeps s u) : Keeps s (u.cutGroup g) := by
  unfold State.cutGroup
  split
  · exact setCharging_keeps _ (cutOver_keeps _ _ _ _ _ h)
  · exact h
theorem followGrant_keeps {s u : State} (g : Group) (h : Keeps s u) : Keeps s (u.followGrant g) :=
  cutGroup_keeps _ (setGrant_keeps _ _ h)
theorem followGrants_keeps {s u : State} (h : Keeps s u) : Keeps s u.followGrants :=
  followGrant_keeps _ (followGrant_keeps _ (followGrant_keeps _ h))
theorem reviseChargers_keeps {s u : State} (b : Group → FeederState) (p : Charger → Bool) (h : Keeps s u) :
    Keeps s (u.reviseChargers b p) := setCharging_keeps _ h
theorem applyFeeder_keeps {s u : State} (g : Group) (st : FeederState) (hot : Bool) (h : Keeps s u) :
    Keeps s (u.applyFeeder g st hot) := by
  unfold State.applyFeeder
  dsimp only
  split
  · exact h
  · exact followGrants_keeps (reviseChargers_keeps _ _ (setFeeders_keeps _ h))
theorem sendDraw_keeps {s u : State} (h : Keeps s u) : Keeps s u.sendDraw := send_keeps _ h
theorem sendRoll_keeps {s u : State} (a : Bool) (h : Keeps s u) : Keeps s (u.sendRoll a) := send_keeps _ h
theorem takeBoundary_keeps {s u : State} (h : Keeps s u) : Keeps s u.takeBoundary :=
  setFeeders_keeps _ (sendDraw_keeps (setCharging_keeps _ (setGrant_keeps _ _ (setGrant_keeps _ _ (setGrant_keeps _ _ h)))))
theorem cutPlan_keeps {s u : State} (g : Group) (h : Keeps s u) : Keeps s (u.cutPlan g) := cutOver_keeps _ _ _ _ _ h
theorem endPlanHold_keeps {s u : State} (h : Keeps s u) : Keeps s u.endPlanHold :=
  setCharging_keeps _ (cutPlan_keeps _ (cutPlan_keeps _ (cutPlan_keeps _ (setGrant_keeps _ _ (setGrant_keeps _ _
    (setGrant_keeps _ _ (setFeeders_keeps _ h)))))))
theorem zeroChargers_keeps {s u : State} (h : Keeps s u) : Keeps s u.zeroChargers := setCharging_keeps _ h
theorem zeroAt_keeps {s u : State} (l p : Nat) (h : Keeps s u) : Keeps s (u.zeroAt l p) := setCharging_keeps _ h

/-! ### Departure -/

theorem makeLate_keeps {s u : State} (n : Nat) (a : AlertCode) (h : Keeps s u) : Keeps s (u.makeLate n a) :=
  raise_keeps _ _ (send_keeps _ (updateRun_keeps _ _ (fun _ => rfl) h))
theorem endRelease_keeps {s u : State} (h : Keeps s u) : Keeps s u.endRelease := by
  unfold State.endRelease
  dsimp only
  repeat' split
  all_goals first
    | exact h
    | exact repeatNeed_keeps _ _ (setPlace_keeps _ _ (setDepartures_keeps _ h))
    | exact setDepartures_keeps _ h
theorem freeReleased_keeps {s u : State} (r : Release) (h : Keeps s u) : Keeps s (u.freeReleased r) := by
  unfold State.freeReleased
  repeat' split
  all_goals first | exact h | exact freeBus_keeps _ h
theorem freeAfterChange_keeps {s u : State} (r : Release) (h : Keeps s u) : Keeps s (u.freeAfterChange r) := by
  unfold State.freeAfterChange
  repeat' split
  · exact h
  · exact updateRun_keeps _ _ (fun r => by unfold Run.changedAway Run.toPending; split <;> rfl) (freeReleased_keeps _ h)
  · exact h
theorem lateAfter_keeps {s u : State} (a : AlertCode) (b : Bool) (n : Nat) (h : Keeps s u) : Keeps s (u.lateAfter a b n) := by
  unfold State.lateAfter
  repeat' split
  all_goals first | exact h | exact makeLate_keeps _ _ h | exact raise_keeps _ _ h
theorem failRelease_keeps {s u : State} (a : AlertCode) (b : Bool) (h : Keeps s u) : Keeps s (u.failRelease a b) := by
  unfold State.failRelease
  split
  · exact h
  · exact freeAfterChange_keeps _ (lateAfter_keeps _ _ _ (endRelease_keeps h))
theorem removeShunt_keeps {s u : State} (f : Nat) (h : Keeps s u) : Keeps s (u.removeShunt f) := setDepartures_keeps _ h
theorem dropShunt_keeps {s u : State} (f : Nat) (h : Keeps s u) : Keeps s (u.dropShunt f) := by
  unfold State.dropShunt
  split
  · exact removeShunt_keeps _ (releaseReservation_keeps _ _ h)
  · exact h
/-- The deletion of a record is its removal and operations that keep the rest (R34). -/
theorem deleteBus_from {u : State} (i : Nat) (hf : u.buses.records.any (fun b => b.id == i) = true) :
    Keeps (u.removeBus i) (u.deleteBus i) := by
  have k : Keeps (u.removeBus i) (u.removeBus i) := Keeps.refl _
  unfold State.deleteBus
  dsimp only
  split
  · rename_i hn
    rw [List.find?_eq_none] at hn
    simp only [List.any_eq_true] at hf
    obtain ⟨b, hb, hi⟩ := hf
    exact absurd hi (hn b hb)
  · rename_i b _
    split <;> (try apply runLosesRecord_keeps)
    all_goals
      repeat' split
      all_goals first
        | exact k
        | exact leaveWash_keeps _ k
        | exact releaseReservation_keeps _ _ k
        | exact dropShunt_keeps _ k
        | exact failRelease_keeps _ _ k
theorem deleteBus_missing {u : State} (i : Nat) (hf : u.buses.records.any (fun b => b.id == i) = false) :
    u.deleteBus i = u := by
  unfold State.deleteBus
  have : u.buses.records.find? (fun b => b.id == i) = none := by
    rw [List.find?_eq_none]
    intro b hb hi
    rw [List.any_eq_false] at hf
    exact hf b hb hi
  rw [this]
theorem deleteBus_keeps {s u : State} (i : Nat) (h : Keeps s u) : Keeps s (u.deleteBus i) := by
  cases hf : u.buses.records.any (fun b => b.id == i) with
  | true => exact (removeBus_keeps i h).trans (deleteBus_from i hf)
  | false => rw [deleteBus_missing i hf]; exact h
/-- No record of a deleted handle is left (R34). -/
theorem deleteBus_gone (u : State) (i : Nat) : ∀ k ∈ (u.deleteBus i).buses.records.map Bus.key, k.1 ≠ i := by
  intro k hk
  cases hf : u.buses.records.any (fun b => b.id == i) with
  | true =>
    have hk' := (deleteBus_from i hf).keys.subset hk
    obtain ⟨b, hb, rfl⟩ := List.mem_map.mp hk'
    have : (b.id != i) = true := (List.mem_filter.mp hb).2
    simpa [Bus.key] using this
  | false =>
    rw [deleteBus_missing i hf] at hk
    obtain ⟨b, hb, rfl⟩ := List.mem_map.mp hk
    rw [List.any_eq_false] at hf
    simpa [Bus.key] using hf b hb
theorem beginRelease_keeps {s u : State} (r : Run) (b : Bus) (h : Keeps s u) : Keeps s (u.beginRelease r b) := by
  unfold State.beginRelease
  split
  · exact zeroAt_keeps _ _ (setDepartures_keeps _ (setPlace_keeps _ _ h))
  · exact h
theorem releaseTest_keeps {s u : State} (h : Keeps s u) : Keeps s u.releaseTest := by
  unfold State.releaseTest
  repeat' split
  all_goals first | exact h | exact beginRelease_keeps _ _ h
theorem latenessTests_keeps {s : State} (n : Nat) :
    ∀ {u : State}, Keeps s u → Keeps s (State.latenessTests n u) := by
  induction n with
  | zero => exact fun h => h
  | succ n ih =>
    intro u h
    unfold State.latenessTests
    split
    · exact ih (raiseFront_keeps _ (makeLate_keeps _ _ h))
    · exact h
theorem lapseRun_keeps {s u : State} (n : Nat) (h : Keeps s u) : Keeps s (u.lapseRun n) := by
  unfold State.lapseRun
  repeat' split
  all_goals first | exact h | exact raiseFront_keeps _ (updateRun_keeps _ _ (fun _ => rfl) h)
theorem lapseRuns_keeps {s u : State} (h : Keeps s u) : Keeps s u.lapseRuns :=
  foldl_keeps _ (fun _ _ => lapseRun_keeps _ (Keeps.refl _)) _ h
theorem clearFailed_keeps {s u : State} (h : Keeps s u) : Keeps s u.clearFailed := setDepartures_keeps _ h
theorem markFailed_keeps {s u : State} (l i : Nat) (h : Keeps s u) : Keeps s (u.markFailed l i) := setDepartures_keeps _ h
theorem issueShunt_keeps {s u : State} (n : Nat) (x : Bus) (f l p : Nat) (a : Lane) (h : Keeps s u) :
    Keeps s (u.issueShunt n x f l p a) := by
  unfold State.issueShunt
  split
  · exact raise_keeps _ _ (markFailed_keeps _ _ h)
  · exact setDepartures_keeps _ (setPlace_keeps _ _ (addReservation_keeps _ _ h))
theorem shuntTest_keeps {s u : State} (n : Nat) (h : Keeps s u) : Keeps s (u.shuntTest n) := by
  unfold State.shuntTest
  repeat' split
  all_goals first | exact h | exact issueShunt_keeps _ _ _ _ _ _ h | exact raise_keeps _ _ (markFailed_keeps _ _ h)
theorem shuntTests_keeps {s u : State} (h : Keeps s u) : Keeps s u.shuntTests :=
  foldl_keeps _ (fun _ _ => shuntTest_keeps _ (Keeps.refl _)) _ h
theorem exitTests_keeps {s u : State} (h : Keeps s u) : Keeps s u.exitTests :=
  releaseTest_keeps (latenessTests_keeps _ h)
theorem departureTests_keeps {s u : State} (h : Keeps s u) : Keeps s u.departureTests :=
  exitTests_keeps (shuntTests_keeps (clearFailed_keeps (exitTests_keeps (lapseRuns_keeps h))))

/-! ### The tests that follow a command -/

theorem settle_keeps {s u : State} (b : State) (e : List Nat) (h : Keeps s u) : Keeps s (u.settle b e) := by
  unfold State.settle
  split
  · exact callTest_keeps (washTests_keeps (keepRefresh_keeps _ (claimTests_keeps _ _ (withdrawClaims_keeps
      (departureTests_keeps (withdrawClaims_keeps (bindAll_keeps (raiseFront_keeps b h))))))))
  · exact h
theorem settleWash_keeps {s u : State} (h : Keeps s u) : Keeps s u.settleWash := callTest_keeps (washTests_keeps h)

end Sys2Proof.Machine
end

