-- ==== Sys2Proof/Laws/Commands.lean ====
section
/-! SUPPORT. What the operations of the commands keep: those that create or rename a record hold the rest, the others keep
everything of `Keeps`. -/

namespace Sys2Proof.Machine

theorem ite_keeps {s a b : State} {p : Prop} [Decidable p] (ha : Keeps s a) (hb : Keeps s b) :
    Keeps s (if p then a else b) := by split <;> assumption
theorem ite_holds {s a b : State} {p : Prop} [Decidable p] (ha : Holds s a) (hb : Holds s b) :
    Holds s (if p then a else b) := by split <;> assumption

/-! ### Frames heard and orders -/

theorem hear_keeps {s u : State} (a : Bool) (f : State → State) (hf : ∀ v, Keeps v (f v)) (h : Keeps s u) :
    Keeps s (u.hear a f) := by
  unfold State.hear
  repeat' split
  all_goals first | exact h | exact (frameEnded_keeps h).trans (hf _) | exact frameEnded_keeps h
theorem hear_holds {s u : State} (a : Bool) (f : State → State) (hf : ∀ v, Holds v (f v)) (h : Holds s u) :
    Holds s (u.hear a f) := by
  have k : Holds s u.frameEnded := h.keeps (frameEnded_keeps (Keeps.refl _))
  unfold State.hear
  repeat' split
  all_goals first | exact h | exact k.trans (hf _) | exact k
theorem answer_keeps {s u : State} (a b : Nat) (c : AnswerCode) (n : Nat) (p : List Byte) (h : Keeps s u) :
    Keeps s (u.answer a b c n p) := send_keeps _ h
theorem answerCode_keeps {s u : State} (a b : Nat) (c : AnswerCode) (h : Keeps s u) : Keeps s (u.answerCode a b c) :=
  answer_keeps _ _ _ _ _ h

/-- The verdict of an order holds the rest of the node. -/
def Verdict.sound (s : State) : Verdict → Prop
  | .no _ => True
  | .done t _ _ => Holds s t
  | .later t => Holds s t

theorem takeOrder_holds {α : Type} {s u : State} (a b : Nat) (l : List Byte) (p : Option α)
    (judge : α → State → Verdict) (hj : ∀ x v, (judge x v).sound v) (h : Holds s u) :
    Holds s (u.takeOrder a b l p judge) := by
  refine hear_holds _ _ (fun v => ?_) h
  split
  · exact (answerCode_keeps _ _ _ (Keeps.refl _)).toHolds
  · exact (answerCode_keeps _ _ _ (Keeps.refl _)).toHolds
  · have := hj ‹_› v
    split
    · exact (answerCode_keeps _ _ _ (Keeps.refl _)).toHolds
    · rename_i heq
      rw [heq] at this
      exact Holds.keeps this (answer_keeps _ _ _ _ _ (Keeps.refl _))
    · rename_i heq
      rw [heq] at this
      exact this
theorem reportOutcome_keeps {s u : State} (x : SurveyOutcome) (h : Keeps s u) : Keeps s (u.reportOutcome x) := by
  unfold State.reportOutcome
  dsimp only
  repeat' split
  all_goals first | exact h | exact answer_keeps _ _ _ _ _ (setOrder_keeps _ h) | exact setOrder_keeps _ h

/-! ### Creation -/

theorem addBus_holds {s u : State} (f : Option Nat) (k : PlaceholderKind) (c : BusClass) (p : Place) (w : Bool)
    (h : Holds s u) : Holds s (u.addBus f k c p w) :=
  h.trans ⟨rfl, rfl, rfl, rfl, rfl, rfl, fun a => a, fun a => a, fun _ => Nat.le_refl _⟩
theorem addNamed_holds {s u : State} (f : Nat) (p : Place) (h : Holds s u) : Holds s (u.addNamed f p) :=
  addBus_holds _ _ _ _ _ h
theorem addPlaceholder_holds {s u : State} (l p : Nat) (h : Holds s u) : Holds s (u.addPlaceholder l p) :=
  (addBus_holds _ _ _ _ _ h).keeps (repeatNeed_keeps _ _ (Keeps.refl _))

/-! ### Lanes -/

theorem keepTake_keeps {s u : State} (b : Bus) (f : Nat) (h : Keeps s u) : Keeps s (u.keepTake b f) := by
  unfold State.keepTake
  repeat' split
  all_goals first | exact h | exact setAlloc_keeps _ h
theorem arrive_keeps {s u : State} (l : Lane) (p f : Nat) (b : Bus) (k : ReservationKind) (h : Keeps s u) :
    Keeps s (u.arrive l p f b k) := by
  have h' : Keeps s (((u.parkAt b.id l.number p).keepTake b f).removeShunt f) :=
    removeShunt_keeps _ (keepTake_keeps _ _ (parkAt_keeps _ _ _ h))
  exact ite_keeps (releaseReservation_keeps _ _ h') (roomTest_keeps _ h')
theorem moveIn_keeps {s u : State} (l : Lane) (p f : Nat) (b : Bus) (h : Keeps s u) : Keeps s (u.moveIn l p f b) := by
  have h' := roomTest_keeps l.number (keepTake_keeps b f (parkAt_keeps b.id l.number p (removeShunt_keeps f
    (dropReservations_keeps f (leaveWash_keeps b h)))))
  exact ite_keeps (send_keeps _ (endCall_keeps h')) h'
theorem endStanding_keeps {s u : State} (f : Nat) (b : Bus) (h : Keeps s u) : Keeps s (u.endStanding f b) := by
  have h' := removeShunt_keeps f (dropReservations_keeps f h)
  exact ite_keeps (failRelease_keeps _ _ h') h'
theorem moveFromLeaving_keeps {s u : State} (l : Lane) (p f a c : Nat) (b : Bus) (h : Keeps s u) :
    Keeps s (u.moveFromLeaving l p f a c b) :=
  roomTest_keeps _ (endStanding_keeps _ _ (suspectLane_keeps _ (settleBerth_keeps _ _ _ (parkAt_keeps _ _ _ h))))
theorem moveFromInside_holds {s u : State} (l : Lane) (p f a c : Nat) (b : Bus) (h : Holds s u) :
    Holds s (u.moveFromInside l p f a c b) :=
  ite_holds
    ((addPlaceholder_holds a c (h.keeps (parkAt_keeps b.id l.number p (Keeps.refl _)))).keeps
      (roomTest_keeps _ (endStanding_keeps _ _ (suspectLane_keeps _ (Keeps.refl _)))))
    (h.keeps (suspectLane_keeps _ (raise_keeps _ _ (Keeps.refl _))))
theorem strayEntry_holds {s u : State} (l : Lane) (p f : Nat) (h : Holds s u) : Holds s (u.strayEntry l p f) := by
  refine Holds.keeps (t := if u.tableRoom then _ else _) ?_ (raise_keeps _ _ (send_keeps _ (Keeps.refl _)))
  exact ite_holds
    ((addNamed_holds _ _ h).keeps (roomTest_keeps _ (settleBerth_keeps _ _ _ (repeatNeed_keeps _ _ (Keeps.refl _)))))
    (h.keeps (suspectLane_keeps _ (raise_keeps _ _ (Keeps.refl _))))
theorem knownEntry_holds {s u : State} (l : Lane) (p f : Nat) (b : Bus) (h : Holds s u) :
    Holds s (u.knownEntry l p f b) := by
  unfold State.knownEntry
  repeat' split
  all_goals first
    | exact h.keeps (arrive_keeps _ _ _ _ _ (Keeps.refl _))
    | exact h.keeps (moveIn_keeps _ _ _ _ (Keeps.refl _))
    | exact h.keeps (moveFromLeaving_keeps _ _ _ _ _ _ (Keeps.refl _))
    | exact moveFromInside_holds _ _ _ _ _ _ h
theorem laneEntry_holds {s u : State} (l : Lane) (f : Nat) (h : Holds s u) : Holds s (u.laneEntry l f) := by
  unfold State.laneEntry
  repeat' split
  all_goals first
    | exact h
    | exact h.keeps (raise_keeps _ _ (markSuspect_keeps _ (Keeps.refl _)))
    | exact strayEntry_holds _ _ _ h
    | exact knownEntry_holds _ _ _ _ h
theorem departRelease_keeps {s u : State} (r : Release) (i : Nat) (h : Keeps s u) : Keeps s (u.departRelease r i) :=
  deleteBus_keeps _ (send_keeps _ (updateRun_keeps _ _ (fun _ => rfl) (setDepartures_keeps _ h)))
theorem leaveLane_keeps {s u : State} (l : Lane) (p : Nat) (b : Bus) (h : Keeps s u) : Keeps s (u.leaveLane l p b) := by
  unfold State.leaveLane
  dsimp only
  repeat' split
  all_goals first
    | exact h
    | exact settleBerth_keeps _ _ _ (departRelease_keeps _ _ h)
    | exact settleBerth_keeps _ _ _ (setPlace_keeps _ _ (setDepartures_keeps _ h))
theorem laneExit_keeps {s u : State} (l : Lane) (f : Nat) (h : Keeps s u) : Keeps s (u.laneExit l f) := by
  unfold State.laneExit
  repeat' split
  all_goals first | exact leaveLane_keeps _ _ _ h | exact suspectLane_keeps _ h
theorem surveySettle_keeps {s u : State} (l : Lane) (h : Keeps s u) : Keeps s (u.surveySettle l) := updateLane_keeps _ _ h
theorem foldl_holds {α : Type} (f : State → α → State) (hf : ∀ u x, Holds u (f u x)) (l : List α) {s u : State}
    (h : Holds s u) : Holds s (l.foldl f u) := by
  induction l generalizing u with
  | nil => exact h
  | cons x xs ih => exact ih (h.trans (hf u x))
theorem surveyLane_holds {s u : State} (l : Lane) (h : Holds s u) : Holds s (u.surveyLane l).1 := by
  unfold State.surveyLane
  dsimp only
  split
  · refine Holds.keeps (foldl_holds _ (fun _ _ => addPlaceholder_holds _ _ (Holds.refl _)) _ ?_)
      (surveySettle_keeps _ (roomTests_keeps _ _ (Keeps.refl _)))
    exact foldl_holds _ (fun _ _ => (deleteBus_keeps _ (Keeps.refl _)).toHolds) _ h
  · exact h.keeps (raise_keeps _ _ (updateLane_keeps _ _ (Keeps.refl _)))
theorem tellSuspect_keeps {s u : State} (x : SurveyOutcome) (h : Keeps s u) : Keeps s (u.tellSuspect x) := by
  unfold State.tellSuspect
  repeat' split
  all_goals first | exact h | exact raise_keeps _ _ h

/-! ### Wash lane -/

theorem createQueued_holds {s u : State} (f : Nat) (h : Holds s u) : Holds s (u.createQueued f) :=
  ite_holds (addNamed_holds _ _ h) (h.keeps (raise_keeps _ _ (Keeps.refl _)))
theorem createApron_holds {s u : State} (f : Nat) (h : Holds s u) : Holds s (u.createApron f) :=
  ite_holds ((addNamed_holds _ _ h).keeps (setWash_keeps _ (Keeps.refl _))) (h.keeps (raise_keeps _ _ (Keeps.refl _)))
theorem takeEntry_holds {s u : State} (f : Nat) (h : Holds s u) : Holds s (u.takeEntry f) :=
  ite_holds (createQueued_holds _ h) (ite_holds (createApron_holds _ h) (h.keeps (raise_keeps _ _ (Keeps.refl _))))
theorem takeBypass_holds {s u : State} (f : Nat) (h : Holds s u) : Holds s (u.takeBypass f) :=
  ite_holds (createApron_holds _ h) (h.keeps (raise_keeps _ _ (Keeps.refl _)))
theorem confirmInto_keeps {s u : State} (b : Bus) (f n : Nat) (h : Keeps s u) : Keeps s (u.confirmInto b f n) :=
  ite_keeps (setWash_keeps _ (receiveInto_keeps _ _ h)) (vacate_keeps _ (receiveInto_keeps _ _ h))
theorem stageShown_keeps {s u : State} (n : Nat) (h : Keeps s u) : Keeps s (u.stageShown n) := by
  unfold State.stageShown
  split
  · exact confirmInto_keeps _ _ _ h
  · exact enterStopped_keeps (setStage_keeps _ _ _ h)
theorem confirmApron_keeps {s u : State} (b : Bus) (f n : Nat) (h : Keeps s u) : Keeps s (u.confirmApron b f n) :=
  vacate_keeps _ (setWash_keeps _ (joinApron_keeps _ _ (updateBus_keeps _ _ (fun _ => rfl) h)))
theorem stageCleared_keeps {s u : State} (n : Nat) (h : Keeps s u) : Keeps s (u.stageCleared n) := by
  unfold State.stageCleared
  repeat' split
  all_goals first | exact h | exact confirmApron_keeps _ _ _ h | exact setStage_keeps _ _ _ h
theorem stageChanged_keeps {s u : State} (n : Nat) (o : Bool) (h : Keeps s u) : Keeps s (u.stageChanged n o) := by
  unfold State.stageChanged
  repeat' split
  all_goals first | exact h | exact stageShown_keeps _ h | exact stageCleared_keeps _ h
theorem resumeStage_keeps {s u : State} (n : Nat) (h : Keeps s u) : Keeps s (u.resumeStage n) := by
  unfold State.resumeStage
  split
  all_goals first | exact h | exact enterSpinup_keeps _ h | exact setStage_keeps _ _ _ h
theorem resumeWash_keeps {s u : State} (h : Keeps s u) : Keeps s u.resumeWash :=
  settleWash_keeps (enterFrostHold_keeps (setWash_keeps _
    (foldl_keeps _ (fun _ _ => resumeStage_keeps _ (Keeps.refl _)) _ h)))

/-! ### Berth allocation -/

theorem endSeries_keeps {s u : State} (f : Nat) (h : Keeps s u) : Keeps s (u.endSeries f) := by
  have k := callerIdle_keeps (raise_keeps .noBerth f h)
  unfold State.endSeries
  dsimp only
  split
  · exact setPlace_keeps _ _ k
  · exact k
theorem takeForCall_keeps {s u : State} (a b c d : Nat) (h : Keeps s u) : Keeps s (u.takeForCall a b c d) := by
  unfold State.takeForCall
  repeat' split
  all_goals first | exact h | exact setAlloc_keeps _ h
theorem finishTake_keeps {s u : State} (o : OfferRecord) (h : Keeps s u) : Keeps s (u.finishTake o) :=
  ite_keeps (takeForCall_keeps _ _ _ _ (send_keeps _ (convertHold_keeps _ _ _ h)))
    (send_keeps _ (convertHold_keeps _ _ _ h))
theorem winCall_holds {s u : State} (o : OfferRecord) (h : Holds s u) : Holds s (u.winCall o) := by
  have h' : Holds s (u.removeOffer o.caller) := h.keeps (removeOffer_keeps _ (Keeps.refl _))
  unfold State.winCall
  dsimp only
  repeat' split
  all_goals first
    | exact h'.keeps (finishTake_keeps _ (setPlace_keeps _ _ (leaveApron_keeps _ (Keeps.refl _))))
    | exact h'.keeps (releaseHold_keeps _ _ (raise_keeps _ _ (Keeps.refl _)))
    | exact h'.keeps (releaseHold_keeps _ _ (Keeps.refl _))
    | exact (addBus_holds _ _ _ _ _ h').keeps (finishTake_keeps _ (Keeps.refl _))
theorem collectOffer_keeps {s u : State} (a b c d : Nat) (h : Keeps s u) : Keeps s (u.collectOffer a b c d) :=
  setAlloc_keeps _ h
theorem foundArrived_keeps {s u : State} (a : ArrivedTake) (h : Keeps s u) : Keeps s (u.foundArrived a) := by
  unfold State.foundArrived
  split
  · exact send_keeps _ h
  · exact h
theorem compareTakes_keeps {s u : State} (a b c d : Nat) (h : Keeps s u) : Keeps s (u.compareTakes a b c d) :=
  foldl_keeps _ (fun _ _ => foundArrived_keeps _ (Keeps.refl _)) _
    (foldl_keeps _ (fun _ _ => deleteBus_keeps _ (Keeps.refl _)) _ h)
theorem callerTake_keeps {s u : State} (a b c d e : Nat) (h : Keeps s u) : Keeps s (u.callerTake a b c d e) := by
  unfold State.callerTake
  dsimp only
  repeat' split
  all_goals first
    | exact h
    | exact deleteBus_keeps _ (takeForCall_keeps _ _ _ _ h)
    | exact takeForCall_keeps _ _ _ _ h
theorem foundElsewhere_keeps {s u : State} (f : Nat) (h : Keeps s u) : Keeps s (u.foundElsewhere f) := by
  unfold State.foundElsewhere
  repeat' split
  all_goals first | exact h | exact deleteBus_keeps _ (endCall_keeps h) | exact deleteBus_keeps _ h

/-! ### Chargers and feeders -/

theorem reported_keeps {s u : State} (b : Nat) (h : Keeps s u) : Keeps s (u.reported b) := updateCharger_keeps _ _ h
theorem needAt_keeps {s u : State} (c : Charger) (f : Option Nat → Option Nat) (h : Keeps s u) :
    Keeps s (u.needAt c f) := by
  unfold State.needAt
  split
  · exact updateBus_keeps _ _ (fun _ => rfl) h
  · exact h
theorem fillAt_keeps {s u : State} (c : Charger) (h : Keeps s u) : Keeps s (u.fillAt c) :=
  ite_keeps (updateCharger_keeps _ _ h) h
theorem updateEntry_keeps {s u : State} (n : Nat) (f : StationEntry → StationEntry) (h : Keeps s u) :
    Keeps s (u.updateEntry n f) := setFeeders_keeps _ h
theorem addEntry_keeps {s u : State} (e : StationEntry) (h : Keeps s u) : Keeps s (u.addEntry e) := setFeeders_keeps _ h
theorem announce_keeps {s u : State} (g : Group) (h : Keeps s u) : Keeps s (u.announce g) :=
  applyFeeder_keeps _ _ _ (setFeeders_keeps _ (send_keeps _ h))
theorem takeRoll_keeps {s u : State} (n : Nat) (d : Description) (m : PerGroup Nat) (h : Keeps s u) :
    Keeps s (u.takeRoll n d m) := by
  unfold State.takeRoll
  split
  · exact followGrants_keeps (updateEntry_keeps _ _ h)
  · exact followGrants_keeps (addEntry_keeps _ h)
theorem answerAsk_keeps {s u : State} (a : Bool) (h : Keeps s u) : Keeps s (u.answerAsk a) :=
  ite_keeps (sendRoll_keeps _ h) h
theorem takeDraw_keeps {s u : State} (n : Nat) (c p : PerGroup Nat) (h : Keeps s u) : Keeps s (u.takeDraw n c p) := by
  unfold State.takeDraw
  dsimp only
  split
  · exact followGrants_keeps (updateEntry_keeps _ _ h)
  · exact followGrants_keeps (sendRoll_keeps _ (addEntry_keeps _ h))
theorem setMask_keeps {s u : State} (c : Charger) (m : Mask) (h : Keeps s u) : Keeps s (u.setMask c m) :=
  ite_keeps (lapsePlace_keeps _ (updateCharger_keeps _ _ h)) (updateCharger_keeps _ _ h)
theorem feed_keeps {s u : State} (c : Charger) (m : Mask) (h : Keeps s u) : Keeps s (u.feed c m) :=
  ite_keeps (sendRoll_keeps _ (setMask_keeps _ _ h)) (setMask_keeps _ _ h)

/-! ### Runs -/

theorem setRuns_holds {s u : State} (x : RunList) (h : Holds s u) : Holds s (u.setRuns x) :=
  h.trans ⟨rfl, rfl, rfl, rfl, rfl, rfl, fun a => a, fun a => a, fun _ => Nat.le_refl _⟩
theorem createRun_holds {s u : State} (f : RunFields) (h : Holds s u) : Holds s (u.createRun f) :=
  ite_holds (setRuns_holds _ h) (h.keeps (raise_keeps _ _ (Keeps.refl _)))
theorem copyFields_keeps {s u : State} (n : Nat) (h : Keeps s u) : Keeps s (u.copyFields n) := by
  unfold State.copyFields
  split
  · exact nameRun_keeps _ _ h
  · exact h
theorem replaceRun_keeps {s u : State} (f : RunFields) (r : Run) (h : Keeps s u) : Keeps s (u.replaceRun f r) := by
  have k : Keeps s (u.updateRun f.run (Run.takes f)) := updateRun_keeps _ _ (fun _ => rfl) h
  unfold State.replaceRun
  dsimp only
  repeat' split
  all_goals first
    | exact h
    | exact k
    | exact copyFields_keeps _ k
    | exact updateRun_keeps _ _ (fun _ => rfl) h
    | exact updateRun_keeps _ _ (fun _ => rfl) (freeBound_keeps _ h)
theorem takeRun_holds {s u : State} (f : RunFields) (h : Holds s u) : Holds s (u.takeRun f) := by
  unfold State.takeRun
  split
  · exact h.keeps (replaceRun_keeps _ _ (Keeps.refl _))
  · exact createRun_holds _ h
theorem cancelRun_keeps {s u : State} (n : Nat) (h : Keeps s u) : Keeps s (u.cancelRun n) :=
  updateRun_keeps _ _ (fun _ => rfl) (freeBound_keeps _ (ite_keeps (endRelease_keeps h) h))
theorem takeCancel_keeps {s u : State} (n : Nat) (h : Keeps s u) : Keeps s (u.takeCancel n) := by
  unfold State.takeCancel
  repeat' split
  all_goals first | exact h | exact cancelRun_keeps _ h
theorem clearRuns_holds {s u : State} (h : Holds s u) : Holds s u.clearRuns :=
  setRuns_holds _ (h.keeps (mapBuses_keeps _ (fun _ => rfl) (endRelease_keeps (Keeps.refl _))))
theorem hearBid_run (b : HeardClaim) (r : Run) : (r.hearBid b).run = r.run := by
  unfold Run.hearBid
  repeat' split
  all_goals rfl
theorem bidForMine_keeps {s u : State} (r : Run) (c : OwnClaim) (b : HeardClaim) (h : Keeps s u) :
    Keeps s (u.bidForMine r c b) :=
  ite_keeps (updateRun_keeps _ _ (fun _ => rfl) (freeBound_keeps _ h)) (sendClaim_keeps _ _ _ h)
theorem takeBid_keeps {s u : State} (r : Run) (b : HeardClaim) (h : Keeps s u) : Keeps s (u.takeBid r b) := by
  unfold State.takeBid
  split
  all_goals first
    | exact h
    | exact bidForMine_keeps _ _ _ h
    | exact updateRun_keeps _ _ (fun _ => hearBid_run _ _) h
    | exact updateRun_keeps _ _ (fun _ => rfl) h
theorem takeWithdrawal_keeps {s u : State} (r : Run) (n : Nat) (h : Keeps s u) : Keeps s (u.takeWithdrawal r n) := by
  unfold State.takeWithdrawal
  repeat' split
  all_goals first | exact h | exact updateRun_keeps _ _ (fun _ => rfl) h
theorem takeClaim_keeps {s u : State} (a b c d : Nat) (h : Keeps s u) : Keeps s (u.takeClaim a b c d) := by
  unfold State.takeClaim
  repeat' split
  all_goals first | exact h | exact takeWithdrawal_keeps _ _ h | exact takeBid_keeps _ _ h
theorem winRun_keeps {s u : State} (r : Run) (c : OwnClaim) (h : Keeps s u) : Keeps s (u.winRun r c) := by
  have k : Keeps s (u.updateRun r.run (fun x => { x with state := .mine, best := none, window := none })) :=
    updateRun_keeps _ _ (fun _ => rfl) h
  unfold State.winRun
  dsimp only
  repeat' split
  all_goals first
    | exact sendClaim_keeps _ _ _ (nameRun_keeps _ _ k)
    | exact sendClaim_keeps _ _ _ k
    | exact nameRun_keeps _ _ k
    | exact k

/-! ### Departure -/

theorem releaseShunt_keeps {s u : State} (o : ShuntOrder) (h : Keeps s u) : Keeps s (u.releaseShunt o) :=
  ite_keeps (releaseReservation_keeps _ _ h) h
theorem reissue_keeps {s u : State} (o : ShuntOrder) (h : Keeps s u) : Keeps s (u.reissue o) :=
  setDepartures_keeps _ (removeShunt_keeps _ h)
theorem giveUpAt_keeps {s u : State} (o : ShuntOrder) (x : Bus) (h : Keeps s u) : Keeps s (u.giveUpAt o x) :=
  raise_keeps _ _ (markFailed_keeps _ _ (setPlace_keeps _ _ (removeShunt_keeps _ (releaseShunt_keeps _ h))))
theorem giveUpBetween_keeps {s u : State} (o : ShuntOrder) (x : Bus) (h : Keeps s u) : Keeps s (u.giveUpBetween o x) :=
  raise_keeps _ _ (setPlace_keeps _ _ (removeShunt_keeps _ (releaseShunt_keeps _ h)))
theorem reissueAt_keeps {s u : State} (o : ShuntOrder) (x : Bus) (h : Keeps s u) : Keeps s (u.reissueAt o x) := by
  unfold State.reissueAt
  dsimp only
  split
  · exact reissue_keeps _ (addReservation_keeps _ _ (releaseShunt_keeps _ h))
  · exact giveUpAt_keeps _ _ h
theorem shuntExpired_keeps {s u : State} (o : ShuntOrder) (x : Bus) (h : Keeps s u) : Keeps s (u.shuntExpired o x) := by
  unfold State.shuntExpired
  dsimp only
  split
  · exact ite_keeps (reissueAt_keeps _ _ h) (giveUpAt_keeps _ _ h)
  · exact ite_keeps (reissue_keeps _ h) (giveUpBetween_keeps _ _ h)
theorem offerExit_keeps {s u : State} (n : Nat) (h : Keeps s u) : Keeps s (u.offerExit n) := setDepartures_keeps _ h
theorem departedElsewhere_keeps {s u : State} (n : Nat) (h : Keeps s u) : Keeps s (u.departedElsewhere n) :=
  updateRun_keeps _ _ (fun _ => rfl) (freeBound_keeps _ h)
theorem departHeard_keeps {s u : State} (r : Run) (h : Keeps s u) : Keeps s (u.departHeard r) := by
  unfold State.departHeard
  repeat' split
  all_goals first
    | exact h
    | exact raise_keeps _ _ h
    | exact raise_keeps _ _ (departedElsewhere_keeps _ (endRelease_keeps h))
    | exact departedElsewhere_keeps _ h
theorem lateHeard_keeps {s u : State} (r : Run) (h : Keeps s u) : Keeps s (u.lateHeard r) := by
  unfold State.lateHeard
  split
  all_goals first | exact h | exact updateRun_keeps _ _ (fun _ => rfl) h

/-! ### Link -/

theorem Link.drop_size (c : FrameClass) (l : Link) : (l.drop c).size ≤ l.size := by
  unfold Link.drop Link.size
  cases c <;> simp
theorem Link.keep_size (c : FrameClass) (l : Link) : (l.keep c).size = l.size := by
  unfold Link.keep Link.size
  cases c <;> simp
theorem receives_keeps {s u : State} (h : Keeps s u) : Keeps s u.receives := setLink_keeps _ (Nat.le_refl _) h
theorem withdrawFrame_keeps {s u : State} (c : FrameClass) (f : SendFrame) (h : Keeps s u) :
    Keeps s (u.withdrawFrame c f) := by
  have d : Keeps s (u.setLink (u.link.drop c)).receives := receives_keeps (setLink_keeps _ (Link.drop_size _ _) h)
  unfold State.withdrawFrame
  dsimp only
  repeat' split
  all_goals first
    | exact d
    | exact frameLost_keeps _ d
    | exact raise_keeps _ _ (frameLost_keeps _ d)
    | exact receives_keeps (setLink_keeps _ (Nat.le_of_eq (Link.keep_size _ _)) h)

/-! ### Orders -/

theorem beginSurvey_keeps {s u : State} (a b : Nat) (l : List Nat) (h : Keeps s u) : Keeps s (u.beginSurvey a b l) :=
  setOrder_keeps _ (setLanes_keeps _ h)
theorem mergeAway_keeps {s u : State} (l f : Nat) (o : Bus) (h : Keeps s u) : Keeps s (u.mergeAway l f o) := by
  have k := keepTake_keeps o f (deleteBus_keeps o.id (freeBus_keeps o.id h))
  exact ite_keeps (send_keeps _ (endCall_keeps k)) k
theorem clearSuspect_keeps {s u : State} (l : Nat) (h : Keeps s u) : Keeps s (u.clearSuspect l) := updateLane_keeps _ _ h
theorem updateBus_holds {s u : State} (n : Nat) (f : Bus → Bus) (h : Holds s u) : Holds s (u.updateBus n f) :=
  h.trans ⟨rfl, rfl, rfl, rfl, rfl, rfl, fun a => a, fun a => a, fun _ => Nat.le_refl _⟩
theorem identify_holds {s u : State} (l f : Nat) (b : Bus) (o : Option Bus) (h : Holds s u) :
    Holds s (u.identify l f b o) := by
  unfold State.identify
  dsimp only
  refine Holds.keeps (updateBus_holds _ _ ?_) (clearSuspect_keeps _ (Keeps.refl _))
  split
  · exact h.keeps (mergeAway_keeps _ _ _ (Keeps.refl _))
  · exact h
theorem holdBus_keeps {s u : State} (f : Nat) (b : Bus) (h : Keeps s u) : Keeps s (u.holdBus f b) :=
  ite_keeps (failRelease_keeps _ _ (updateBus_keeps _ _ (fun _ => rfl) h)) (updateBus_keeps _ _ (fun _ => rfl) h)

end Sys2Proof.Machine
end

