-- ==== Sys2Proof/Laws/Sound.lean ====
section
/-! SUPPORT. What every command keeps. `Calm`: the node, its configuration, its timebase and its command queue stand, a set
clock stays set, and nothing joins a silent node's send queue. `Bounds`: the invariants of Safety are kept. -/

namespace Sys2Proof.Machine

/-- What a command that is no start keeps of the node. -/
structure Calm (s t : State) : Prop where
  now : t.now = s.now
  node : t.node = s.node
  cfg : t.cfg = s.cfg
  pending : t.pending = s.pending
  isSet : s.clock.isSet = true → t.clock.isSet = true
  silent : s.listenOrRun = false → t.link.size ≤ s.link.size

/-- The invariants that every command keeps; that of the empty queue in LOADING goes with `Calm`. -/
structure Bounds (s t : State) : Prop where
  alerts : alertsBounded s → alertsBounded t
  queue : s.link.size ≤ 16 → t.link.size ≤ 16
  day : clockInDay s → clockInDay t
  runs : runsOrdered s → runsOrdered t
  fleets : fleetsUnique s → fleetsUnique t
  table : fleetsUnique s → tableBounded s → tableBounded t

theorem Calm.refl (s : State) : Calm s s := ⟨rfl, rfl, rfl, rfl, id, fun _ => Nat.le_refl _⟩
theorem Bounds.refl (s : State) : Bounds s s := ⟨id, id, id, id, id, fun _ => id⟩
theorem Calm.trans {s t u : State} (h : Calm s t) (k : Calm t u) : Calm s u :=
  ⟨k.now.trans h.now, k.node.trans h.node, k.cfg.trans h.cfg, k.pending.trans h.pending, fun a => k.isSet (h.isSet a),
    fun a => (k.silent (by simpa [State.listenOrRun, h.node] using a)).trans (h.silent a)⟩
theorem Bounds.trans {s t u : State} (h : Bounds s t) (k : Bounds t u) : Bounds s u :=
  ⟨fun a => k.alerts (h.alerts a), fun a => k.queue (h.queue a), fun a => k.day (h.day a), fun a => k.runs (h.runs a),
    fun a => k.fleets (h.fleets a), fun a b => k.table (h.fleets a) (h.table a b)⟩

theorem Holds.calm {s t : State} (h : Holds s t) : Calm s t :=
  ⟨h.now, h.node, h.cfg, h.pending, fun a => by rw [h.clock]; exact a, h.silent⟩
theorem Keeps.calm {s t : State} (h : Keeps s t) : Calm s t := h.toHolds.calm

theorem runsOrdered_of_map {s t : State} (h : t.runs.runs.map (·.run) = s.runs.runs.map (·.run)) (k : runsOrdered s) :
    runsOrdered t := by
  have hl : t.runs.runs.length = s.runs.runs.length := by simpa using congrArg List.length h
  exact ⟨hl ▸ k.1, h ▸ k.2⟩

theorem keys_fleets (l : List Bus) : l.filterMap (·.fleet) = (l.map Bus.key).filterMap (·.2) := by
  rw [List.filterMap_map]; rfl
theorem keys_ids (l : List Bus) : l.map (·.id) = (l.map Bus.key).map (·.1) := by
  rw [List.map_map]; rfl

theorem fleetsUnique_of_keys {s t : State} (hn : t.buses.nextId = s.buses.nextId)
    (h : (t.buses.records.map Bus.key).Sublist (s.buses.records.map Bus.key)) (k : fleetsUnique s) : fleetsUnique t := by
  obtain ⟨k1, k2, k3⟩ := k
  refine ⟨?_, ?_, ?_⟩
  · rw [keys_fleets] at k1 ⊢
    exact k1.sublist (h.filterMap _)
  · rw [keys_ids] at k2 ⊢
    exact k2.sublist (h.map _)
  · intro b hb
    have hm : b.key ∈ s.buses.records.map Bus.key := h.subset (List.mem_map_of_mem hb)
    obtain ⟨b', hb', he⟩ := List.mem_map.mp hm
    have hid : b'.id = b.id := congrArg Prod.fst he
    rw [hn, ← hid]
    exact k3 b' hb'

theorem Keeps.bounds {s t : State} (h : Keeps s t) : Bounds s t where
  alerts := h.alerts
  queue := h.queue
  day := fun a => by unfold clockInDay at *; rw [h.clock]; exact a
  runs := runsOrdered_of_map h.runs
  fleets := fleetsUnique_of_keys h.nextId h.keys
  table := fun _ a => Nat.le_trans (by simpa using h.keys.length_le) a

theorem Calm.keeps {s t u : State} (h : Calm s t) (k : Keeps t u) : Calm s u := h.trans k.calm
theorem Bounds.keeps {s t u : State} (h : Bounds s t) (k : Keeps t u) : Bounds s u := h.trans k.bounds

theorem ite_calm {s a b : State} {p : Prop} [Decidable p] (ha : Calm s a) (hb : Calm s b) :
    Calm s (if p then a else b) := by split <;> assumption
theorem ite_bounds {s a b : State} {p : Prop} [Decidable p] (ha : Bounds s a) (hb : Bounds s b) :
    Bounds s (if p then a else b) := by split <;> assumption

/-- Both relations. -/
structure Sound (s t : State) : Prop extends Calm s t, Bounds s t

theorem Sound.refl (s : State) : Sound s s := { Calm.refl s, Bounds.refl s with }
theorem Sound.trans {s t u : State} (h : Sound s t) (k : Sound t u) : Sound s u :=
  { h.toCalm.trans k.toCalm, h.toBounds.trans k.toBounds with }
theorem Keeps.sound {s t : State} (h : Keeps s t) : Sound s t := { h.calm, h.bounds with }
theorem Holds.sound {s t : State} (h : Holds s t) (k : Bounds s t) : Sound s t := { h.calm, k with }
theorem Sound.keeps {s t u : State} (h : Sound s t) (k : Keeps t u) : Sound s u := h.trans k.sound
theorem ite_sound {s a b : State} {p : Prop} [Decidable p] (ha : Sound s a) (hb : Sound s b) :
    Sound s (if p then a else b) := by split <;> assumption

theorem setClock_sound {s u : State} (x : Clock) (hx : x.time < 86400) (hs : x.isSet = true) (h : Sound s u) :
    Sound s (u.setClock x) := h.trans
  { now := rfl, node := rfl, cfg := rfl, pending := rfl, isSet := fun _ => hs, silent := fun _ => Nat.le_refl _
    alerts := id, queue := id, day := fun _ => hx, runs := id, fleets := id, table := fun _ => id }
theorem setInputs_sound {s u : State} (x : Inputs) (h : Sound s u) : Sound s (u.setInputs x) := h.trans
  { now := rfl, node := rfl, cfg := rfl, pending := rfl, isSet := id, silent := fun _ => Nat.le_refl _
    alerts := id, queue := id, day := id, runs := id, fleets := id, table := fun _ => id }
theorem setAlerts_sound {s u : State} (x : Alerts) (hx : x.entries.length = u.alerts.entries.length) (h : Sound s u) :
    Sound s (u.setAlerts x) := h.trans
  { now := rfl, node := rfl, cfg := rfl, pending := rfl, isSet := id, silent := fun _ => Nat.le_refl _
    alerts := fun a => by unfold alertsBounded at *; simpa [hx] using a
    queue := id, day := id, runs := id, fleets := id, table := fun _ => id }
theorem hear_sound {s u : State} (a : Bool) (f : State → State) (hf : a = true → ∀ v, Sound v (f v)) (h : Sound s u) :
    Sound s (u.hear a f) := by
  have k : Sound s u.frameEnded := h.keeps (frameEnded_keeps (Keeps.refl _))
  unfold State.hear
  split
  · split
    · rename_i hc
      exact k.trans (hf (by simpa using (Bool.and_eq_true _ _ ▸ hc).2) _)
    · exact k
  · exact h

/-! ### Creation of records -/

theorem renumber_keys (l : List Bus) : (renumber l).map Bus.key = l.map Bus.key := by
  simp [renumber, Bus.key]

theorem addBus_length (u : State) (f : Option Nat) (k : PlaceholderKind) (c : BusClass) (p : Place) (w : Bool) :
    (u.addBus f k c p w).buses.records.length = u.buses.records.length + 1 := by
  simp only [State.addBus, State.setBuses_buses, List.length_append, List.length_cons, List.length_nil]
  split <;> simp [renumber]

/-- A record created where the table has room, for no fleet or for a fleet that no record names, keeps the bounds (R28, R30,
R32). -/
theorem addBus_bounds {s u : State} (f : Option Nat) (k : PlaceholderKind) (c : BusClass) (p : Place) (w : Bool)
    (hf : ∀ x, f = some x → u.busOf x = none)
    (hr : fleetsUnique s → tableBounded s → u.buses.records.length < 64) (h : Bounds s u) :
    Bounds s (u.addBus f k c p w) := by
  refine ⟨h.alerts, h.queue, h.day, h.runs, fun a => ?_, fun a b => ?_⟩
  case refine_2 =>
    have := addBus_length u f k c p w
    have := hr a b
    unfold tableBounded
    omega
  obtain ⟨h1, h2, h3⟩ := h.fleets a
  have key : ∃ b olds, (u.addBus f k c p w).buses.records = olds ++ [b] ∧ olds.map Bus.key = u.buses.records.map Bus.key
      ∧ b.fleet = f ∧ b.id = u.buses.nextId := by
    unfold State.addBus
    dsimp only
    refine ⟨_, _, rfl, ?_, rfl, rfl⟩
    split
    · exact renumber_keys _
    · rfl
  have hnext : (u.addBus f k c p w).buses.nextId = u.buses.nextId + 1 := rfl
  obtain ⟨b, olds, hr, ho, hb, hi⟩ := key
  have hfl : olds.filterMap (·.fleet) = u.buses.records.filterMap (·.fleet) := by
    rw [keys_fleets, ho, ← keys_fleets]
  have hid : olds.map (·.id) = u.buses.records.map (·.id) := by rw [keys_ids, ho, ← keys_ids]
  refine ⟨?_, ?_, ?_⟩
  · rw [hr, List.filterMap_append, hfl]
    cases hc : f with
    | none => simpa [hb, hc] using h1
    | some x =>
      have hx := hf x hc
      rw [List.nodup_append]
      refine ⟨h1, by simp [hb, hc], ?_⟩
      intro y hy z hz
      simp [hb, hc] at hz
      subst hz
      rintro rfl
      obtain ⟨o, ho', hof⟩ := List.mem_filterMap.mp hy
      unfold State.busOf at hx
      have := List.find?_eq_none.mp hx o ho'
      simp [hof] at this
  · rw [hr, List.map_append, hid, List.nodup_append]
    refine ⟨h2, by simp, ?_⟩
    intro y hy z hz
    simp [hi] at hz
    subst hz
    rintro rfl
    obtain ⟨o, ho', hoi⟩ := List.mem_map.mp hy
    have := h3 o ho'
    omega
  · rw [hr, hnext]
    intro o ho'
    rcases List.mem_append.mp ho' with ho' | ho'
    · have : o.id ∈ u.buses.records.map (·.id) := hid ▸ List.mem_map_of_mem ho'
      obtain ⟨o', ho'', he⟩ := List.mem_map.mp this
      have := h3 o' ho''
      omega
    · simp at ho'
      subst ho'
      omega

theorem addPlaceholder_bounds {s u : State} (l p : Nat)
    (hr : fleetsUnique s → tableBounded s → u.buses.records.length < 64) (h : Bounds s u) :
    Bounds s (u.addPlaceholder l p) :=
  (addBus_bounds none _ _ _ _ (by simp) hr h).keeps (repeatNeed_keeps _ _ (Keeps.refl _))
theorem addNamed_bounds {s u : State} (f : Nat) (p : Place) (hf : u.busOf f = none) (hr : u.tableRoom = true)
    (h : Bounds s u) : Bounds s (u.addNamed f p) :=
  addBus_bounds _ _ _ _ _ (by rintro x hx; cases hx; exact hf) (fun _ _ => by simpa [State.tableRoom] using hr) h

/-- A record that takes a fleet which no record names keeps the bounds (R30). -/
theorem renameBus_bounds {s u : State} (i f : Nat) (g : Bus → Bus) (hg : ∀ b, (g b).fleet = some f)
    (hi : ∀ b, (g b).id = b.id) (hf : u.busOf f = none) (h : Bounds s u) : Bounds s (u.updateBus i g) := by
  refine h.trans ⟨id, id, id, id, ?_, fun _ => by simp [tableBounded, State.updateBus]⟩
  rintro ⟨h1, h2, h3⟩
  have hno : ∀ o ∈ u.buses.records, o.fleet ≠ some f := by
    intro o ho he
    have := List.find?_eq_none.mp hf o ho
    simp [he] at this
  have hids : (u.updateBus i g).buses.records.map (·.id) = u.buses.records.map (·.id) := by
    simp only [State.updateBus, State.setBuses_buses, List.map_map]
    apply List.map_congr_left
    intro b _
    dsimp only [Function.comp]
    split
    · exact hi b
    · rfl
  refine ⟨?_, hids ▸ h2, ?_⟩
  · simp only [State.updateBus, State.setBuses_buses]
    generalize u.buses.records = l at h1 h2 hno
    clear hids h3
    induction l with
    | nil => simp
    | cons b bs ih =>
      have hnb : b.id ∉ bs.map (·.id) := (List.nodup_cons.mp h2).1
      have h2' := (List.nodup_cons.mp h2).2
      have hsame : ∀ o ∈ bs, o.fleet ≠ some f := fun o ho => hno o (List.mem_cons_of_mem _ ho)
      have h1' : (bs.filterMap (·.fleet)).Nodup := by
        cases hb : b.fleet with
        | none => simpa [hb] using h1
        | some x => simp [hb] at h1; exact h1.2
      simp only [List.map_cons]
      by_cases hbi : (b.id == i) = true
      · have hbi' : b.id = i := by simpa using hbi
        have hmap : bs.map (fun b => if (b.id == i) = true then g b else b) = bs := by
          conv_rhs => rw [← List.map_id bs]
          apply List.map_congr_left
          intro o ho
          have : ¬ (o.id == i) = true := by
            intro hoi
            exact hnb (by rw [hbi', ← (by simpa using hoi : o.id = i)]; exact List.mem_map_of_mem ho)
          simp [this]
        rw [hmap]
        simp only [hbi, if_true, List.filterMap_cons, hg]
        rw [List.nodup_cons]
        refine ⟨?_, h1'⟩
        intro hm
        obtain ⟨o, ho, hof⟩ := List.mem_filterMap.mp hm
        exact hsame o ho hof
      · have ih' := ih h1' h2' hsame
        simp only [hbi, Bool.false_eq_true, if_false]
        cases hb : b.fleet with
        | none => simpa [hb] using ih'
        | some x =>
          simp only [List.filterMap_cons, hb]
          rw [List.nodup_cons]
          refine ⟨?_, ih'⟩
          intro hm
          obtain ⟨o, ho, hof⟩ := List.mem_filterMap.mp hm
          obtain ⟨o', ho', he⟩ := List.mem_map.mp ho
          subst he
          split at hof
          · rw [hg] at hof
            cases hof
            exact hno b (List.mem_cons_self ..) hb
          · simp only [List.filterMap_cons, hb, List.nodup_cons] at h1
            exact h1.1 (List.mem_filterMap.mpr ⟨o', ho', hof⟩)
  · intro b hb
    have : b.id ∈ u.buses.records.map (·.id) := hids ▸ List.mem_map_of_mem hb
    obtain ⟨o, ho, he⟩ := List.mem_map.mp this
    have := h3 o ho
    have hn : (u.updateBus i g).buses.nextId = u.buses.nextId := rfl
    omega

/-! ### The operations that create, rename or renumber -/

theorem moveFromInside_bounds {s u : State} (l : Lane) (p f a c : Nat) (b : Bus) (h : Bounds s u) :
    Bounds s (u.moveFromInside l p f a c b) := by
  unfold State.moveFromInside
  split
  · rename_i hr
    have hk := parkAt_keeps b.id l.number p (Keeps.refl u)
    refine (addPlaceholder_bounds a c (fun _ _ => ?_) (h.keeps hk)).keeps
      (roomTest_keeps _ (endStanding_keeps _ _ (suspectLane_keeps _ (Keeps.refl _))))
    have : u.buses.records.length < 64 := by simpa [State.tableRoom] using hr
    exact Nat.lt_of_le_of_lt (by simpa using hk.keys.length_le) this
  · exact h.keeps (suspectLane_keeps _ (raise_keeps _ _ (Keeps.refl _)))
theorem strayEntry_bounds {s u : State} (l : Lane) (p f : Nat) (hf : u.busOf f = none) (h : Bounds s u) :
    Bounds s (u.strayEntry l p f) := by
  refine Bounds.keeps (t := if u.tableRoom then _ else _) ?_ (raise_keeps _ _ (send_keeps _ (Keeps.refl _)))
  split
  · exact (addNamed_bounds _ _ hf ‹_› h).keeps
      (roomTest_keeps _ (settleBerth_keeps _ _ _ (repeatNeed_keeps _ _ (Keeps.refl _))))
  · exact h.keeps (suspectLane_keeps _ (raise_keeps _ _ (Keeps.refl _)))
theorem knownEntry_bounds {s u : State} (l : Lane) (p f : Nat) (b : Bus) (h : Bounds s u) :
    Bounds s (u.knownEntry l p f b) := by
  unfold State.knownEntry
  repeat' split
  all_goals first
    | exact h.keeps (arrive_keeps _ _ _ _ _ (Keeps.refl _))
    | exact h.keeps (moveIn_keeps _ _ _ _ (Keeps.refl _))
    | exact h.keeps (moveFromLeaving_keeps _ _ _ _ _ _ (Keeps.refl _))
    | exact moveFromInside_bounds _ _ _ _ _ _ h
theorem laneEntry_bounds {s u : State} (l : Lane) (f : Nat) (h : Bounds s u) : Bounds s (u.laneEntry l f) := by
  unfold State.laneEntry
  split
  · exact h
  · split
    · exact h.keeps (raise_keeps _ _ (markSuspect_keeps _ (Keeps.refl _)))
    · split
      · exact strayEntry_bounds _ _ _ ‹_› h
      · exact knownEntry_bounds _ _ _ _ h
/-- Placeholders created one after another keep the bounds where the table has room for all of them (R22, R28). -/
theorem addPlaceholders_bounds {s : State} (n : Nat) (ps : List Nat) : ∀ {u : State},
    (fleetsUnique s → tableBounded s → u.buses.records.length + ps.length ≤ 64) → Bounds s u →
    Bounds s (ps.foldl (fun u p => u.addPlaceholder n p) u) := by
  induction ps with
  | nil => exact fun _ h => h
  | cons p ps ih =>
    intro u hr h
    refine ih (fun a b => ?_) (addPlaceholder_bounds n p (fun a b => ?_) h)
    · have h1 := hr a b
      have h2 := addBus_length u none (if u.detector n p then .occupied else .gap) (u.placeholderClassOf n) (.parked n p) false
      have h3 := (repeatNeed_keeps n p (Keeps.refl (u.addBus none (if u.detector n p then .occupied else .gap)
        (u.placeholderClassOf n) (.parked n p) false))).keys.length_le
      simp only [List.length_map] at h3
      simp only [List.length_cons] at h1
      unfold State.addPlaceholder
      dsimp only
      omega
    · have h1 := hr a b
      simp only [List.length_cons] at h1
      omega
theorem foldl_delete_keeps (is : List Nat) (u : State) : Keeps u (is.foldl (fun u i => u.deleteBus i) u) :=
  foldl_keeps _ (fun _ _ => deleteBus_keeps _ (Keeps.refl _)) is (Keeps.refl u)
theorem foldl_delete_gone (is : List Nat) : ∀ u : State,
    ∀ k ∈ (is.foldl (fun u i => u.deleteBus i) u).buses.records.map Bus.key, k.1 ∉ is := by
  induction is with
  | nil => intro _ _ _; simp
  | cons i is ih =>
    intro u k hk
    rw [List.mem_cons, not_or]
    exact ⟨deleteBus_gone _ _ k ((foldl_delete_keeps is (u.deleteBus i)).keys.subset hk), ih (u.deleteBus i) k hk⟩
/-- The deletion of distinct records of the table leaves so many fewer (R21, R22). -/
theorem foldl_delete_length (is : List Nat) (u : State) (hu : (u.buses.records.map (·.id)).Nodup) (hi : is.Nodup)
    (hm : ∀ i ∈ is, i ∈ u.buses.records.map (·.id)) :
    (is.foldl (fun u i => u.deleteBus i) u).buses.records.length + is.length ≤ u.buses.records.length := by
  have hk := (foldl_delete_keeps is u).keys
  have hg := foldl_delete_gone is u
  generalize is.foldl (fun u i => u.deleteBus i) u = v at hk hg
  have h1 : (v.buses.records.map (·.id)).Sublist (u.buses.records.map (·.id)) := by
    rw [keys_ids, keys_ids]
    exact hk.map _
  have h2 : (is ++ v.buses.records.map (·.id)).Nodup := by
    refine List.nodup_append.mpr ⟨hi, hu.sublist h1, ?_⟩
    rintro a ha b hb rfl
    obtain ⟨x, hx, rfl⟩ := List.mem_map.mp hb
    exact hg x.key (List.mem_map_of_mem hx) ha
  have h3 : is ++ v.buses.records.map (·.id) ⊆ u.buses.records.map (·.id) := by
    intro a ha
    rcases List.mem_append.mp ha with ha | ha
    · exact hm a ha
    · exact h1.subset ha
  have := (List.subperm_of_subset h2 h3).length_le
  simp only [List.length_append, List.length_map] at this
  omega
theorem occupant_spec {s : State} {l p : Nat} {b : Bus} (h : s.occupant l p = some b) :
    b ∈ s.buses.records ∧ b.berth? = some (l, p) :=
  ⟨List.mem_of_find?_eq_some h, by simpa using List.find?_some h⟩
theorem id_unique {s : State} (d : (s.buses.records.map (·.id)).Nodup) {x y : Bus} (hx : x ∈ s.buses.records)
    (hy : y ∈ s.buses.records) (h : x.id = y.id) : x = y := List.inj_on_of_nodup_map d hx hy h
/-- The records that a survey deletes are distinct records of the table (R21, R30). -/
theorem goneRecords_ids (s : State) (l : Lane) (d : (s.buses.records.map (·.id)).Nodup) :
    ((s.goneRecords l).map (·.id)).Nodup ∧ ∀ i ∈ (s.goneRecords l).map (·.id), i ∈ s.buses.records.map (·.id) := by
  have hg : ∀ p b, (if s.detector l.number p then none else s.occupant l.number p) = some b →
      b ∈ s.buses.records ∧ b.berth? = some (l.number, p) := by
    intro p b h
    split at h
    · simp at h
    · exact occupant_spec h
  constructor
  · unfold State.goneRecords
    rw [List.map_filterMap]
    refine List.Nodup.filterMap ?_ ((List.nodup_range).map (fun _ _ h => Nat.succ.inj h))
    intro a a' i hi hi'
    obtain ⟨x, hx, rfl⟩ := Option.map_eq_some_iff.mp hi
    obtain ⟨y, hy, he⟩ := Option.map_eq_some_iff.mp hi'
    obtain ⟨hx1, hx2⟩ := hg a x hx
    obtain ⟨hy1, hy2⟩ := hg a' y hy
    have := id_unique d hy1 hx1 he
    subst this
    rw [hx2] at hy2
    simpa using hy2
  · intro i hi
    obtain ⟨b, hb, rfl⟩ := List.mem_map.mp hi
    obtain ⟨p, _, h⟩ := List.mem_filterMap.mp hb
    exact List.mem_map_of_mem (hg p b h).1
theorem surveyLane_bounds {s u : State} (l : Lane) (h : Bounds s u) : Bounds s (u.surveyLane l).1 := by
  refine h.trans ?_
  unfold State.surveyLane
  dsimp only
  split
  · rename_i hr
    refine Bounds.keeps (addPlaceholders_bounds _ _ (fun a _ => ?_) (foldl_delete_keeps _ u).bounds)
      (surveySettle_keeps _ (roomTests_keeps _ _ (Keeps.refl _)))
    obtain ⟨h1, h2⟩ := goneRecords_ids u l a.2.1
    have := foldl_delete_length _ u a.2.1 h1 h2
    unfold State.surveyRoom at hr
    simp only [List.length_map, decide_eq_true_eq] at this hr
    omega
  · exact (raise_keeps _ _ (updateLane_keeps _ _ (Keeps.refl _))).bounds
theorem createQueued_bounds {s u : State} (f : Nat) (hf : u.busOf f = none) (h : Bounds s u) :
    Bounds s (u.createQueued f) := by
  unfold State.createQueued
  split
  · exact addNamed_bounds _ _ hf ‹_› h
  · exact h.keeps (raise_keeps _ _ (Keeps.refl _))
theorem createApron_bounds {s u : State} (f : Nat) (hf : u.busOf f = none) (h : Bounds s u) :
    Bounds s (u.createApron f) := by
  unfold State.createApron
  split
  · exact (addNamed_bounds _ _ hf ‹_› h).keeps (setWash_keeps _ (Keeps.refl _))
  · exact h.keeps (raise_keeps _ _ (Keeps.refl _))
theorem takeEntry_bounds {s u : State} (f : Nat) (hf : u.busOf f = none) (h : Bounds s u) : Bounds s (u.takeEntry f) :=
  ite_bounds (createQueued_bounds _ hf h)
    (ite_bounds (createApron_bounds _ hf h) (h.keeps (raise_keeps _ _ (Keeps.refl _))))
theorem takeBypass_bounds {s u : State} (f : Nat) (hf : u.busOf f = none) (h : Bounds s u) :
    Bounds s (u.takeBypass f) :=
  ite_bounds (createApron_bounds _ hf h) (h.keeps (raise_keeps _ _ (Keeps.refl _)))
theorem winCall_bounds {s u : State} (o : OfferRecord) (h : Bounds s u) : Bounds s (u.winCall o) := by
  have h' : Bounds s (u.removeOffer o.caller) := h.keeps (removeOffer_keeps _ (Keeps.refl _))
  unfold State.winCall
  dsimp only
  split
  · split
    · exact h'.keeps (finishTake_keeps _ (setPlace_keeps _ _ (leaveApron_keeps _ (Keeps.refl _))))
    · exact h'.keeps (releaseHold_keeps _ _ (Keeps.refl _))
  · rename_i hf
    split
    · rename_i hr
      exact (addBus_bounds _ _ _ _ _ (by rintro x hx; cases hx; exact hf)
        (fun _ _ => by simpa [State.tableRoom] using hr) h').keeps (finishTake_keeps _ (Keeps.refl _))
    · exact h'.keeps (releaseHold_keeps _ _ (raise_keeps _ _ (Keeps.refl _)))

/-- A run put in its place keeps the order of the list (R133, R136). -/
theorem insertBy_ordered (r : Run) (l : List Run) (h : (l.map (·.run)).Pairwise (· < ·))
    (hn : ∀ x ∈ l, x.run ≠ r.run) : ((insertBy (fun x y => decide (x.run < y.run)) r l).map (·.run)).Pairwise (· < ·) := by
  induction l with
  | nil => simp [insertBy]
  | cons y ys ih =>
    have h1 := List.pairwise_cons.mp (by simpa using h : ((y.run :: ys.map (·.run)).Pairwise (· < ·)))
    have ih' := ih h1.2 (fun x hx => hn x (List.mem_cons_of_mem _ hx))
    simp only [insertBy]
    split
    · rename_i hlt
      have hlt' : y.run < r.run := by simpa using hlt
      rw [List.map_cons, List.pairwise_cons]
      refine ⟨?_, ih'⟩
      intro z hz
      obtain ⟨x, hx, rfl⟩ := List.mem_map.mp hz
      have : ∀ l : List Run, x ∈ insertBy (fun x y => decide (x.run < y.run)) r l → x = r ∨ x ∈ l := by
        intro l
        induction l with
        | nil => simp [insertBy]
        | cons a as iha =>
          simp only [insertBy]
          split
          · intro hx
            rcases List.mem_cons.mp hx with rfl | hx
            · simp
            · rcases iha hx with rfl | hx
              · simp
              · exact Or.inr (List.mem_cons_of_mem _ hx)
          · intro hx
            rcases List.mem_cons.mp hx with rfl | hx
            · simp
            · exact Or.inr hx
      rcases this ys hx with rfl | hx'
      · exact hlt'
      · exact h1.1 _ (List.mem_map_of_mem hx')
    · rename_i hge
      have hge' : r.run < y.run := by
        have : ¬ y.run < r.run := by simpa using hge
        have := hn y (List.mem_cons_self ..)
        omega
      rw [List.map_cons, List.pairwise_cons]
      refine ⟨?_, by simpa using h⟩
      intro z hz
      rcases List.mem_cons.mp (by simpa using hz : z ∈ y.run :: ys.map (·.run)) with rfl | hz
      · exact hge'
      · exact Nat.lt_trans hge' (h1.1 z hz)
theorem insertBy_length {α : Type} (f : α → α → Bool) (x : α) (l : List α) : (insertBy f x l).length = l.length + 1 := by
  induction l with
  | nil => rfl
  | cons y ys ih => simp only [insertBy]; split <;> simp [ih]

theorem takeRun_bounds {s u : State} (f : RunFields) (h : Bounds s u) : Bounds s (u.takeRun f) := by
  unfold State.takeRun
  split
  · exact h.keeps (replaceRun_keeps _ _ (Keeps.refl _))
  · rename_i hn
    unfold State.createRun
    split
    · rename_i hl
      refine h.trans ⟨id, id, id, ?_, id, fun _ => id⟩
      rintro ⟨_, k2⟩
      refine ⟨?_, ?_⟩
      · simp only [State.setRuns_runs, insertBy_length]; omega
      · refine insertBy_ordered _ _ k2 ?_
        intro x hx he
        have := List.find?_eq_none.mp hn x hx
        simp [newRun] at he
        simp [he] at this
    · exact h.keeps (raise_keeps _ _ (Keeps.refl _))
theorem emptyRuns_bounds {s u : State} (n : Nat) (h : Bounds s u) : Bounds s (u.setRuns ⟨[], n⟩) :=
  h.trans ⟨id, id, id, fun _ => ⟨by simp, by simp⟩, id, fun _ => id⟩
theorem clearRuns_bounds {s u : State} (h : Bounds s u) : Bounds s u.clearRuns :=
  emptyRuns_bounds _ (h.keeps (mapBuses_keeps _ (fun _ => rfl) (endRelease_keeps (Keeps.refl _))))

theorem mergeAway_unnamed {u : State} (l f : Nat) (o : Bus) (ho : u.busOf f = some o) (hu : fleetsUnique u) :
    (u.mergeAway l f o).busOf f = none := by
  have hk : Keeps ((u.freeBus o.id).deleteBus o.id) (u.mergeAway l f o) := by
    have k := keepTake_keeps o f (Keeps.refl ((u.freeBus o.id).deleteBus o.id))
    exact ite_keeps (send_keeps _ (endCall_keeps k)) k
  have hd : Keeps u ((u.freeBus o.id).deleteBus o.id) := deleteBus_keeps _ (freeBus_keeps _ (Keeps.refl _))
  unfold State.busOf
  rw [List.find?_eq_none]
  intro b hb he
  have hb1 := hk.keys.subset (List.mem_map_of_mem hb)
  have hne := deleteBus_gone _ _ _ hb1
  obtain ⟨b', hb', hbe⟩ := List.mem_map.mp (hd.keys.subset hb1)
  have hef : b.fleet = some f := by simpa using he
  have hbf : b'.fleet = some f := (congrArg Prod.snd hbe).trans hef
  have hmo : o ∈ u.buses.records := List.mem_of_find?_eq_some ho
  have hof : o.fleet = some f := by simpa using List.find?_some ho
  have hid : b'.id = o.id := by
    have h1 := hu.1
    generalize u.buses.records = r at h1 hb' hmo
    induction r with
    | nil => simp at hb'
    | cons y ys ih =>
      cases hy : y.fleet with
      | none =>
        have e1 : b' ∈ ys := (List.mem_cons.mp hb').resolve_left (by rintro rfl; simp [hy] at hbf)
        have e2 : o ∈ ys := (List.mem_cons.mp hmo).resolve_left (by rintro rfl; simp [hy] at hof)
        exact ih (by simpa [hy] using h1) e1 e2
      | some x =>
        simp only [List.filterMap_cons, hy, List.nodup_cons] at h1
        rcases List.mem_cons.mp hb' with rfl | e1 <;> rcases List.mem_cons.mp hmo with rfl | e2
        · rfl
        · exact absurd (List.mem_filterMap.mpr ⟨o, e2, hof.trans (hbf.symm.trans hy)⟩) h1.1
        · exact absurd (List.mem_filterMap.mpr ⟨b', e1, hbf.trans (hof.symm.trans hy)⟩) h1.1
        · exact ih h1.2 e1 e2
  exact hne ((congrArg Prod.fst hbe).symm.trans hid)

theorem identify_bounds {s u : State} (l f : Nat) (b : Bus) (o : Option Bus) (ho : u.busOf f = o) (h : Bounds s u) :
    Bounds s (u.identify l f b o) := by
  refine h.trans ?_
  have hg : ∀ x : Bus, (Bus.identified f o x).fleet = some f := fun x => by cases o <;> rfl
  have hi : ∀ x : Bus, (Bus.identified f o x).id = x.id := fun x => by cases o <;> rfl
  cases o with
  | none => exact (renameBus_bounds _ f _ hg hi ho (Bounds.refl _)).keeps (clearSuspect_keeps _ (Keeps.refl _))
  | some o =>
    have hk : Keeps u (u.mergeAway l f o) := mergeAway_keeps _ _ _ (Keeps.refl _)
    have hh := identify_holds l f b (some o) (Holds.refl u)
    refine ⟨hh.alerts, hh.queue, fun a => ?_, fun a => ?_, fun a => ?_, fun a b => ?_⟩
    · unfold clockInDay at *
      rw [hh.clock]
      exact a
    · exact runsOrdered_of_map hk.runs a
    · exact ((renameBus_bounds _ f _ hg hi (mergeAway_unnamed l f o ho a) hk.bounds).keeps
        (clearSuspect_keeps l (Keeps.refl _))).fleets a
    · exact ((renameBus_bounds _ f _ hg hi (mergeAway_unnamed l f o ho a) hk.bounds).keeps
        (clearSuspect_keeps l (Keeps.refl _))).table a b

end Sys2Proof.Machine
end

