-- ==== Sys2Proof/Laws/Starts.lean ====
section
/-! SUPPORT. What the starts and the entry to RUN and MUTE keep of the bounds (R191, R203 to R205). -/

namespace Sys2Proof.Machine

theorem setNode_bounds {s u : State} (x : Node) (h : Bounds s u) : Bounds s (u.setNode x) := h.trans ⟨id, id, id, id, id, fun _ => id⟩
theorem setCfg_bounds {s u : State} (x : NodeConfig) (h : Bounds s u) : Bounds s (u.setCfg x) :=
  h.trans ⟨id, id, id, id, id, fun _ => id⟩
theorem setLink_bounds {s u : State} (x : Link) (hx : x.size ≤ 16) (h : Bounds s u) : Bounds s (u.setLink x) :=
  h.trans ⟨id, fun _ => hx, id, id, id, fun _ => id⟩
theorem emptyBuses_bounds {s u : State} (n m : Nat) (h : Bounds s u) : Bounds s (u.setBuses ⟨[], n, m⟩) :=
  h.trans ⟨id, id, id, id, fun _ => by simp [fleetsUnique], fun _ _ => by simp [tableBounded]⟩
theorem setPending_bounds {s u : State} (x : List Instr) (h : Bounds s u) : Bounds s (u.setPending x) :=
  h.trans ⟨id, id, id, id, id, fun _ => id⟩
theorem coldStart_bounds (s u : State) : Bounds s u.coldStart where
  alerts := fun _ => by simp [alertsBounded, State.coldStart, State.reset]
  queue := fun _ => by simp [State.coldStart, State.reset, Link.reset, Link.size]
  day := fun _ => by simp [clockInDay, State.coldStart, State.reset]
  runs := fun _ => by simp [runsOrdered, State.coldStart, State.reset]
  fleets := fun _ => by simp [fleetsUnique, State.coldStart, State.reset]
  table := fun _ _ => by simp [tableBounded, State.coldStart, State.reset]
theorem announceAll_keeps {s u : State} (h : Keeps s u) : Keeps s u.announceAll :=
  ite_keeps (announce_keeps _ (announce_keeps _ (announce_keeps _ h))) h
theorem beginListen_keeps {s u : State} (h : Keeps s u) : Keeps s u.beginListen :=
  announceAll_keeps (setFeeders_keeps _ (sendDraw_keeps (sendRoll_keeps _ (setCharging_keeps _ h))))
theorem freshWash_keeps {s u : State} (b : Bool) (h : Keeps s u) : Keeps s (u.freshWash b) :=
  enterFrostHold_keeps (setWash_keeps _ h)
theorem toListen_bounds {s u : State} (h : Bounds s u) : Bounds s u.toListen := setNode_bounds _ h

/-- A start from a good image: after the configuration and the node state, the rest keeps. -/
theorem startFrom_keeps (im : List Byte) (s : State) : Keeps (s.setCfg (configOf im)).toListen (s.startFrom im) := by
  unfold State.startFrom
  dsimp only
  have k : Keeps (s.setCfg (configOf im)).toListen (s.setCfg (configOf im)).toListen := Keeps.refl _
  split
  · exact raise_keeps _ _ (beginListen_keeps (freshWash_keeps _ (setCharging_keeps _ (setLanes_keeps _ k))))
  · exact beginListen_keeps (freshWash_keeps _ (setCharging_keeps _ (setLanes_keeps _ k)))
theorem startFrom_bounds (im : List Byte) (s : State) : Bounds s (s.startFrom im) :=
  (toListen_bounds (setCfg_bounds _ (Bounds.refl _))).keeps (startFrom_keeps im s)
theorem keepYard_bounds {s u : State} (h : Bounds s u) : Bounds s u.keepYard := by
  have k : Keeps u ((u.setLanes (u.lanes.map (Lane.kept (u.now + u.cfg.laneSettle)))).keptWash) :=
    setWash_keeps _ (setLanes_keeps _ (Keeps.refl _))
  refine (h.keeps k).keeps (setRuns_keeps _ (map_run_eq _ _ (fun r => ?_)) (mapBuses_keeps _ (fun b => rfl) (Keeps.refl _)))
  unfold Run.kept
  dsimp only
  split <;> rfl
theorem renewYard_bounds {s u : State} (h : Bounds s u) : Bounds s u.renewYard := by
  refine emptyRuns_bounds _ (Bounds.keeps (emptyBuses_bounds _ _ ?_) (freshWash_keeps _ (Keeps.refl _)))
  exact h.keeps (setLanes_keeps _ (Keeps.refl _))
theorem dropRelease_keeps {s u : State} (h : Keeps s u) : Keeps s u.dropRelease := by
  unfold State.dropRelease
  split
  · exact bindAll_keeps (freeAfterChange_keeps _ h)
  · exact h
theorem warmRestart_bounds {s u : State} (h : Bounds s u) : Bounds s u.warmRestart := by
  have k : Bounds s ((u.setOrder none).setLink Link.reset) :=
    setLink_bounds _ (by simp [Link.reset, Link.size]) (h.keeps (setOrder_keeps _ (Keeps.refl _)))
  unfold State.warmRestart
  dsimp only
  refine Bounds.keeps ?_ (beginListen_keeps (foldl_keeps _ (fun _ _ => repeatNeed_keeps _ _ (Keeps.refl _)) _
    (setDepartures_keeps _ (setCharging_keeps _ (setFeeders_keeps _ (setAlloc_keeps _ (Keeps.refl _)))))))
  refine Bounds.keeps (toListen_bounds ?_) (dropRelease_keeps (Keeps.refl _))
  split
  · exact keepYard_bounds k
  · exact renewYard_bounds k
theorem enterRun_keeps (s : State) : Keeps (s.setNode { s.node with state := .run, listenTimer := none }) s.enterRun :=
  takeBoundary_keeps (setCharging_keeps _ (Keeps.refl _))
theorem enterRun_bounds (s : State) : Bounds s s.enterRun := (setNode_bounds _ (Bounds.refl _)).keeps (enterRun_keeps s)

theorem emptyQueue_size (s : State) : s.emptyQueue.link.size = 0 := by
  unfold State.emptyQueue
  dsimp only
  repeat' split
  all_goals simp [Link.size]

/-- The entry to MUTE up to its one ALERT keeps, from the node in MUTE on (R191). -/
theorem enterMute_from (s : State) :
    ∃ u f, Keeps (s.setNode { s.node with state := .mute, listenTimer := none }) u ∧ u.link.size = 0
      ∧ s.enterMute = u.setLink (u.link.push f) := by
  unfold State.enterMute
  dsimp only
  refine ⟨State.emptyQueue _, _, emptyQueue_keeps (storeAlert_keeps _ _ ?_), emptyQueue_size _, rfl⟩
  refine setRuns_keeps _ (map_run_eq _ _ (fun r => by split <;> rfl)) (setAlloc_keeps _ (mapBuses_keeps _ (fun b => by split <;> rfl) ?_))
  exact foldl_keeps _ (fun _ _ => dropOffer_keeps _ (Keeps.refl _)) _
    (setCharging_keeps _ (zeroChargers_keeps (setFeeders_keeps _ (Keeps.refl _))))
theorem enterMute_bounds (s : State) : Bounds s s.enterMute := by
  obtain ⟨u, f, k, hz, he⟩ := enterMute_from s
  rw [he]
  refine ((setNode_bounds _ (Bounds.refl _)).keeps k).trans ⟨id, fun _ => ?_, id, id, id, fun _ => id⟩
  simp [hz]
theorem hear_bounds {s u : State} (a : Bool) (f : State → State) (hf : ∀ v, Bounds v (f v)) (h : Bounds s u) :
    Bounds s (u.hear a f) := by
  have k : Bounds s u.frameEnded := h.keeps (frameEnded_keeps (Keeps.refl _))
  unfold State.hear
  repeat' split
  all_goals first | exact h | exact k.trans (hf _) | exact k
theorem clash_bounds (s : State) : Bounds s s.clash := by
  unfold State.clash
  split
  · exact (enterMute_bounds s).keeps (settle_keeps _ _ (Keeps.refl _))
  · exact Bounds.refl _
theorem configBad_bounds (im : List Byte) (n : Nat) (s : State) (hq : s.link.size = 0) : Bounds s (s.configBad im n) := by
  have k : Bounds s (s.setNode { s.node with state := .configFault, listenTimer := none }) :=
    setNode_bounds _ (Bounds.refl _)
  unfold State.configBad
  dsimp only
  split
  · refine setLink_bounds _ ?_ (setCfg_bounds _ (k.keeps (setAlerts_keeps _ (Alerts.store_le _ _) (Keeps.refl _))))
    simp [hq]
  · exact setCfg_bounds _ (k.keeps (setAlerts_keeps _ (Alerts.store_le _ _) (Keeps.refl _)))

end Sys2Proof.Machine
end

