-- ==== Sys2Proof/Laws/Every.lean ====
section
/-! SUPPORT. For every command that is no start, and no ROLL or DRAW (which may bring a station clash): it answers a next
state, and that state is `Sound` (Laws/Sound.lean). For ROLL, DRAW and the starts: the bounds are kept. -/

namespace Sys2Proof.Machine

set_option Elab.async false

/-- The command answers a next state that keeps the node and the invariants. -/
def answers (c : Instr) (s : State) : Prop := ∃ t, exec c s = .next t ∧ Sound s t

theorem laneEntry_sound (l : Lane) (f : Nat) (s : State) : Sound s (s.laneEntry l f) :=
  Holds.sound (laneEntry_holds _ _ (Holds.refl _)) (laneEntry_bounds _ _ (Bounds.refl _))
theorem surveyLane_sound (l : Lane) (s : State) : Sound s (s.surveyLane l).1 :=
  Holds.sound (surveyLane_holds _ (Holds.refl _)) (surveyLane_bounds _ (Bounds.refl _))

theorem laneReaderReading_sound (l i f d s) : answers (.laneReaderReading l i f d) s := by
  unfold answers
  simp only [exec]
  unfold execLaneReaderReading
  repeat' split
  all_goals refine ⟨_, rfl, ?_⟩
  all_goals first
   | exact Sound.refl _
   | exact Keeps.sound (suspectLane_keeps _ (Keeps.refl _))
   | exact (laneEntry_sound _ _ _).keeps (settle_keeps _ _ (Keeps.refl _))
   | exact Keeps.sound (settle_keeps _ _ (laneExit_keeps _ _ (Keeps.refl _)))
theorem berthDetectorChange_sound (l p o s) : answers (.berthDetectorChange l p o) s := by
  unfold answers
  simp only [exec]
  unfold execBerthDetectorChange
  dsimp only
  repeat' split
  · exact ⟨_, rfl, Sound.refl _⟩
  · exact ⟨_, rfl, (setInputs_sound _ (Sound.refl _)).keeps (settleBerth_keeps _ _ _ (Keeps.refl _))⟩
  · exact ⟨_, rfl, setInputs_sound _ (Sound.refl _)⟩
theorem berthSettleExpiry_sound (l p s) : answers (.berthSettleExpiry l p) s := by
  unfold answers
  simp only [exec]
  unfold execBerthSettleExpiry
  split
  all_goals refine ⟨_, rfl, ?_⟩
  · exact Keeps.sound (suspectLane_keeps _ (updateLane_keeps _ _ (Keeps.refl _)))
  · exact Sound.refl _
theorem surveyPeriodEnd_sound (l s) : answers (.surveyPeriodEnd l) s := by
  unfold answers
  simp only [exec]
  unfold execSurveyPeriodEnd
  dsimp only
  split
  · rename_i x _ _
    cases expired s.now x.survey with
    | true =>
      refine ⟨_, rfl, (surveyLane_sound x s).keeps (reportOutcome_keeps _ (settle_keeps _ _ ?_))⟩
      exact ite_keeps (Keeps.refl _) (tellSuspect_keeps _ (Keeps.refl _))
    | false => exact ⟨_, rfl, Sound.refl _⟩
  · exact ⟨_, rfl, Sound.refl _⟩
theorem entryReaderReading_sound (f s) : answers (.entryReaderReading f) s := by
  unfold answers
  simp only [exec]
  unfold execEntryReaderReading
  split
  · rename_i hc
    have hf : s.busOf f = none := by simp_all
    have h : Sound s (s.takeEntry f) :=
      Holds.sound (takeEntry_holds _ (Holds.refl _)) (takeEntry_bounds _ hf (Bounds.refl _))
    exact ⟨_, rfl, h.keeps (settle_keeps _ _ (Keeps.refl _))⟩
  · exact ⟨_, rfl, Sound.refl _⟩
theorem bypassReaderReading_sound (f s) : answers (.bypassReaderReading f) s := by
  unfold answers
  simp only [exec]
  unfold execBypassReaderReading
  split
  · rename_i hc
    have hf : s.busOf f = none := by simp_all
    have h : Sound s (s.takeBypass f) :=
      Holds.sound (takeBypass_holds _ (Holds.refl _)) (takeBypass_bounds _ hf (Bounds.refl _))
    exact ⟨_, rfl, h.keeps (settle_keeps _ _ (Keeps.refl _))⟩
  · exact ⟨_, rfl, Sound.refl _⟩
theorem stageDetectorChange_sound (n o s) : answers (.stageDetectorChange n o) s := by
  unfold answers
  simp only [exec]
  unfold execStageDetectorChange
  dsimp only
  repeat' split
  all_goals refine ⟨_, rfl, ?_⟩
  all_goals first
   | exact Sound.refl _
   | exact setInputs_sound _ (Sound.refl _)
   | exact (setInputs_sound _ (Sound.refl _)).keeps (settleWash_keeps (stageChanged_keeps _ _ (Keeps.refl _)))
theorem entryCallTimeout_sound (s) : answers (.entryCallTimeout) s := by
  unfold answers
  simp only [exec]
  unfold execEntryCallTimeout
  split
  all_goals refine ⟨_, rfl, ?_⟩
  · exact Keeps.sound (settleWash_keeps (enterStopped_keeps (raise_keeps _ _ (setWash_keeps _ (Keeps.refl _)))))
  · exact Sound.refl _
theorem spinupExpiry_sound (n s) : answers (.spinupExpiry n) s := by
  unfold answers
  simp only [exec]
  unfold execSpinupExpiry
  split
  all_goals refine ⟨_, rfl, ?_⟩
  · exact Keeps.sound (enterDwell_keeps _ (Keeps.refl _))
  · exact Sound.refl _
theorem dwellExpiry_sound (n s) : answers (.dwellExpiry n) s := by
  unfold answers
  simp only [exec]
  unfold execDwellExpiry
  split
  all_goals refine ⟨_, rfl, ?_⟩
  · exact Keeps.sound (settleWash_keeps (setStage_keeps _ _ _ (Keeps.refl _)))
  · exact Sound.refl _
theorem runonExpiry_sound (n s) : answers (.runonExpiry n) s := by
  unfold answers
  simp only [exec]
  unfold execRunonExpiry
  split
  all_goals refine ⟨_, rfl, ?_⟩
  · exact Keeps.sound (settleWash_keeps (setStage_keeps _ _ _ (Keeps.refl _)))
  · exact Sound.refl _
theorem advanceTimeout_sound (n s) : answers (.advanceTimeout n) s := by
  unfold answers
  simp only [exec]
  unfold execAdvanceTimeout
  split
  all_goals refine ⟨_, rfl, ?_⟩
  · exact Keeps.sound (enterStopped_keeps (raise_keeps _ _ (setStage_keeps _ _ _ (Keeps.refl _))))
  · exact Sound.refl _
theorem stopInputAsserted_sound (s) : answers (.stopInputAsserted) s := by
  unfold answers
  simp only [exec]
  unfold execStopInputAsserted
  refine ⟨_, rfl, ?_⟩
  exact ite_sound ((setInputs_sound _ (Sound.refl _)).keeps (enterStopped_keeps (Keeps.refl _))) (setInputs_sound _ (Sound.refl _))
theorem stopInputCleared_sound (s) : answers (.stopInputCleared) s := ⟨_, rfl, setInputs_sound _ (Sound.refl _)⟩
theorem temperatureReading_sound (d s) : answers (.temperatureReading d) s := by
  unfold answers
  simp only [exec]
  unfold execTemperatureReading
  dsimp only
  split
  all_goals refine ⟨_, rfl, ?_⟩
  · exact (setInputs_sound _ (Sound.refl _)).keeps (settleWash_keeps (enterFrostHold_keeps (setWash_keeps _ (Keeps.refl _))))
  · exact setInputs_sound _ (Sound.refl _)
theorem frostClearExpiry_sound (s) : answers (.frostClearExpiry) s := by
  unfold answers
  simp only [exec]
  unfold execFrostClearExpiry
  dsimp only
  split
  all_goals refine ⟨_, rfl, ?_⟩
  · exact Keeps.sound (settleWash_keeps (setWash_keeps _ (Keeps.refl _)))
  · exact Sound.refl _
theorem callTimerExpiry_sound (s) : answers (.callTimerExpiry) s := by
  unfold answers
  simp only [exec]
  unfold execCallTimerExpiry
  repeat' split
  all_goals refine ⟨_, rfl, ?_⟩
  all_goals first
   | exact Sound.refl _
   | exact Keeps.sound (makeCall_keeps _ _ _ (Keeps.refl _))
   | exact Keeps.sound (settleWash_keeps (callerIdle_keeps (Keeps.refl _)))
   | exact Keeps.sound (settleWash_keeps (endSeries_keeps _ (Keeps.refl _)))
theorem unplacedRetryExpiry_sound (f s) : answers (.unplacedRetryExpiry f) s := by
  unfold answers
  simp only [exec]
  unfold execUnplacedRetryExpiry
  repeat' split
  all_goals refine ⟨_, rfl, ?_⟩
  all_goals first
   | exact Sound.refl _
   | exact Keeps.sound (settleWash_keeps (setPlace_keeps _ _ (Keeps.refl _)))
theorem offerWindowExpiry_sound (c s) : answers (.offerWindowExpiry c) s := by
  unfold answers
  simp only [exec]
  unfold execOfferWindowExpiry
  repeat' split
  all_goals refine ⟨_, rfl, ?_⟩
  · exact Sound.refl _
  · exact Keeps.sound (settle_keeps _ _ (dropOffer_keeps _ (Keeps.refl _)))
  · exact (Holds.sound (winCall_holds _ (Holds.refl _)) (winCall_bounds _ (Bounds.refl _))).keeps (settle_keeps _ _ (Keeps.refl _))
  · exact Sound.refl _
theorem takeWaitExpiry_sound (s) : answers (.takeWaitExpiry) s := by
  unfold answers
  simp only [exec]
  unfold execTakeWaitExpiry
  repeat' split
  all_goals refine ⟨_, rfl, ?_⟩
  all_goals first
   | exact Sound.refl _
   | exact Keeps.sound (settleWash_keeps (callerIdle_keeps (Keeps.refl _)))
theorem takeWatchExpiry_sound (f s) : answers (.takeWatchExpiry f) s := by
  unfold answers
  simp only [exec]
  unfold execTakeWatchExpiry
  dsimp only
  repeat' split
  all_goals refine ⟨_, rfl, ?_⟩
  all_goals first
   | exact Keeps.sound (setPlace_keeps _ _ (setAlloc_keeps _ (Keeps.refl _)))
   | exact Keeps.sound (setAlloc_keeps _ (Keeps.refl _))
theorem transitTimeout_sound (f s) : answers (.transitTimeout f) s := by
  unfold answers
  simp only [exec]
  unfold execTransitTimeout
  repeat' split
  all_goals refine ⟨_, rfl, ?_⟩
  all_goals first
   | exact Sound.refl _
   | exact Keeps.sound (settle_keeps _ _ (raise_keeps _ _ (deleteBus_keeps _ (Keeps.refl _))))
theorem connectionReport_sound (b e s) : answers (.connectionReport b e) s := by
  unfold answers
  simp only [exec]
  unfold execConnectionReport
  dsimp only
  repeat' split
  all_goals refine ⟨_, rfl, ?_⟩
  all_goals first
   | exact Sound.refl _
   | exact Keeps.sound (reported_keeps _ (Keeps.refl _))
   | exact Keeps.sound (settle_keeps _ _ (needAt_keeps _ _ (updateCharger_keeps _ _ (reported_keeps _ (Keeps.refl _)))))
theorem disconnectReport_sound (b s) : answers (.disconnectReport b) s := by
  unfold answers
  simp only [exec]
  unfold execDisconnectReport
  dsimp only
  repeat' split
  all_goals refine ⟨_, rfl, ?_⟩
  all_goals first
   | exact Sound.refl _
   | exact Keeps.sound (reported_keeps _ (Keeps.refl _))
   | exact Keeps.sound (lapsePlace_keeps _ (updateCharger_keeps _ _ (reported_keeps _ (Keeps.refl _))))
theorem faultReport_sound (b s) : answers (.faultReport b) s := by
  unfold answers
  simp only [exec]
  unfold execFaultReport
  dsimp only
  repeat' split
  all_goals refine ⟨_, rfl, ?_⟩
  all_goals first
   | exact Sound.refl _
   | exact Keeps.sound (reported_keeps _ (Keeps.refl _))
   | exact Keeps.sound (raise_keeps _ _ (lapsePlace_keeps _ (updateCharger_keeps _ _ (reported_keeps _ (Keeps.refl _)))))
theorem meterPulse_sound (b s) : answers (.meterPulse b) s := by
  unfold answers
  simp only [exec]
  unfold execMeterPulse
  dsimp only
  repeat' split
  all_goals refine ⟨_, rfl, ?_⟩
  all_goals first
   | exact Sound.refl _
   | exact Keeps.sound (settle_keeps _ _ (fillAt_keeps _ (needAt_keeps _ _ (updateCharger_keeps _ _ (Keeps.refl _)))))
theorem chargerSettleExpiry_sound (b s) : answers (.chargerSettleExpiry b) s := by
  unfold answers
  simp only [exec]
  unfold execChargerSettleExpiry
  repeat' split
  all_goals refine ⟨_, rfl, ?_⟩
  all_goals first
   | exact Sound.refl _
   | exact Keeps.sound (updateCharger_keeps _ _ (Keeps.refl _))
theorem rampTimerExpiry_sound (b s) : answers (.rampTimerExpiry b) s := by
  unfold answers
  simp only [exec]
  unfold execRampTimerExpiry
  repeat' split
  all_goals refine ⟨_, rfl, ?_⟩
  all_goals first
   | exact Sound.refl _
   | exact Keeps.sound (updateCharger_keeps _ _ (Keeps.refl _))
theorem turnBoundary_sound (s) : answers (.turnBoundary) s := by
  unfold answers
  simp only [exec]
  unfold execTurnBoundary
  split
  all_goals refine ⟨_, rfl, ?_⟩
  · exact Keeps.sound (takeBoundary_keeps (Keeps.refl _))
  · exact Sound.refl _
theorem planHoldExpiry_sound (s) : answers (.planHoldExpiry) s := by
  unfold answers
  simp only [exec]
  unfold execPlanHoldExpiry
  split
  all_goals refine ⟨_, rfl, ?_⟩
  · exact Keeps.sound (endPlanHold_keeps (Keeps.refl _))
  · exact Sound.refl _
theorem drawTimerExpiry_sound (s) : answers (.drawTimerExpiry) s := by
  unfold answers
  simp only [exec]
  unfold execDrawTimerExpiry
  split
  all_goals refine ⟨_, rfl, ?_⟩
  · exact Keeps.sound (sendDraw_keeps (setFeeders_keeps _ (Keeps.refl _)))
  · exact Sound.refl _
theorem freshnessTimerExpiry_sound (n s) : answers (.freshnessTimerExpiry n) s := by
  unfold answers
  simp only [exec]
  unfold execFreshnessTimerExpiry
  split
  · rename_i e _ _
    cases expired s.now e.fresh with
    | true => exact ⟨_, rfl, Keeps.sound (followGrants_keeps (updateEntry_keeps _ _ (Keeps.refl _)))⟩
    | false => exact ⟨_, rfl, Sound.refl _⟩
  · exact ⟨_, rfl, Sound.refl _⟩
theorem feederInputChange_sound (g st h s) : answers (.feederInputChange g st h) s := by
  unfold answers
  simp only [exec]
  unfold execFeederInputChange
  dsimp only
  repeat' split
  all_goals refine ⟨_, rfl, ?_⟩
  all_goals first
   | exact Sound.refl _
   | exact setInputs_sound _ (Sound.refl _)
   | exact (setInputs_sound _ (Sound.refl _)).keeps (announce_keeps _ (Keeps.refl _))
   | exact (setInputs_sound _ (Sound.refl _)).keeps (applyFeeder_keeps _ _ _ (Keeps.refl _))
theorem feederRefreshExpiry_sound (g s) : answers (.feederRefreshExpiry g) s := by
  unfold answers
  simp only [exec]
  unfold execFeederRefreshExpiry
  split
  all_goals refine ⟨_, rfl, ?_⟩
  · exact Keeps.sound (announce_keeps _ (Keeps.refl _))
  · exact Sound.refl _
theorem claimWindowExpiry_sound (n s) : answers (.claimWindowExpiry n) s := by
  unfold answers
  simp only [exec]
  unfold execClaimWindowExpiry
  cases s.runOf n with
  | none => exact ⟨_, rfl, Sound.refl _⟩
  | some r =>
    dsimp only
    split
    · rename_i c _ _ _
      cases s.winsClaim r c with
      | true => exact ⟨_, rfl, Keeps.sound (settle_keeps _ _ (winRun_keeps _ _ (Keeps.refl _)))⟩
      | false => exact ⟨_, rfl, Keeps.sound (settle_keeps _ _ (updateRun_keeps _ _ (fun _ => rfl) (Keeps.refl _)))⟩
    · exact ⟨_, rfl, Sound.refl _⟩
theorem claimRefreshExpiry_sound (n s) : answers (.claimRefreshExpiry n) s := by
  unfold answers
  simp only [exec]
  unfold execClaimRefreshExpiry
  cases s.runOf n with
  | none => exact ⟨_, rfl, Sound.refl _⟩
  | some r =>
    dsimp only
    cases expired s.now r.refresh with
    | true => exact ⟨_, rfl, Keeps.sound (settle_keeps _ _ (updateRun_keeps _ _ (fun _ => rfl) (Keeps.refl _)))⟩
    | false => exact ⟨_, rfl, Sound.refl _⟩
theorem claimPeriodEntry_sound (n s) : answers (.claimPeriodEntry n) s :=
  ⟨_, rfl, Keeps.sound (settle_keeps _ _ (startRefresh_keeps _ (Keeps.refl _)))⟩
theorem shuntLeadReached_sound (n s) : answers (.shuntLeadReached n) s :=
  ⟨_, rfl, Keeps.sound (settle_keeps _ _ (Keeps.refl _))⟩
theorem releaseLeadReached_sound (n s) : answers (.releaseLeadReached n) s :=
  ⟨_, rfl, Keeps.sound (settle_keeps _ _ (Keeps.refl _))⟩
theorem gracePassed_sound (n s) : answers (.gracePassed n) s := ⟨_, rfl, Keeps.sound (settle_keeps _ _ (Keeps.refl _))⟩
theorem exitGapHolds_sound (s) : answers (.exitGapHolds) s := ⟨_, rfl, Keeps.sound (settle_keeps _ _ (Keeps.refl _))⟩
theorem shuntTimerExpiry_sound (f s) : answers (.shuntTimerExpiry f) s := by
  unfold answers
  simp only [exec]
  unfold execShuntTimerExpiry
  repeat' split
  all_goals refine ⟨_, rfl, ?_⟩
  all_goals first
   | exact Sound.refl _
   | exact Keeps.sound (settle_keeps _ _ (shuntExpired_keeps _ _ (Keeps.refl _)))
theorem releaseTimerExpiry_sound (s) : answers (.releaseTimerExpiry) s := by
  unfold answers
  simp only [exec]
  unfold execReleaseTimerExpiry
  split
  all_goals refine ⟨_, rfl, ?_⟩
  · exact Keeps.sound (settle_keeps _ _ (failRelease_keeps _ _ (Keeps.refl _)))
  · exact Sound.refl _
theorem feeder_sound (n g st h s) : answers (.feeder n g st h) s :=
  ⟨_, rfl, Keeps.sound (hear_keeps _ _ (fun _ => applyFeeder_keeps _ _ _ (Keeps.refl _)) (Keeps.refl _))⟩
theorem clock_sound (n x s) : answers (.clock n x) s := by
  refine ⟨_, rfl, hear_sound _ _ (fun ha v => ?_) (Sound.refl _)⟩
  have hx : x < 86400 := by
    simp only [okSecond, Bool.and_eq_true, decide_eq_true_eq] at ha
    omega
  exact (setClock_sound _ hx rfl (Sound.refl _)).keeps (settle_keeps _ _ (Keeps.refl _))
theorem run_sound (a b c d e f s) : answers (.run a b c d e f) s :=
  ⟨_, rfl, hear_sound _ _ (fun _ _ => (Holds.sound (takeRun_holds _ (Holds.refl _)) (takeRun_bounds _ (Bounds.refl _))).keeps
    (settle_keeps _ _ (Keeps.refl _))) (Sound.refl _)⟩
theorem runCancel_sound (a b s) : answers (.runCancel a b) s :=
  ⟨_, rfl, Keeps.sound (hear_keeps _ _ (fun _ => settle_keeps _ _ (takeCancel_keeps _ (Keeps.refl _))) (Keeps.refl _))⟩
theorem clearRuns_sound (a s) : answers (.clearRuns a) s :=
  ⟨_, rfl, hear_sound _ _ (fun _ _ => (Holds.sound (clearRuns_holds (Holds.refl _)) (clearRuns_bounds (Bounds.refl _))).keeps
    (settle_keeps _ _ (Keeps.refl _))) (Sound.refl _)⟩
theorem parkCall_sound (a b c d e f g s) : answers (.parkCall a b c d e f g) s :=
  ⟨_, rfl, Keeps.sound (hear_keeps _ _ (fun _ => ite_keeps (evaluateCall_keeps _ _ (Keeps.refl _)) (Keeps.refl _)) (Keeps.refl _))⟩
theorem offer_sound (a b c d s) : answers (.offer a b c d) s :=
  ⟨_, rfl, Keeps.sound (hear_keeps _ _ (fun _ => ite_keeps (collectOffer_keeps _ _ _ _ (Keeps.refl _)) (Keeps.refl _)) (Keeps.refl _))⟩
theorem take_sound (a b c d e s) : answers (.take a b c d e) s :=
  ⟨_, rfl, Keeps.sound (hear_keeps _ _ (fun _ => ite_keeps (settle_keeps _ _ (callerTake_keeps _ _ _ _ _ (compareTakes_keeps _ _ _ _ (collectOffer_keeps _ _ _ _ (Keeps.refl _))))) (Keeps.refl _)) (Keeps.refl _))⟩
theorem found_sound (a b c s) : answers (.found a b c) s :=
  ⟨_, rfl, Keeps.sound (hear_keeps _ _ (fun _ => settle_keeps _ _ (foundElsewhere_keeps _ (Keeps.refl _))) (Keeps.refl _))⟩
theorem claim_sound (a b c d s) : answers (.claim a b c d) s :=
  ⟨_, rfl, Keeps.sound (hear_keeps _ _ (fun _ => settle_keeps _ _ (takeClaim_keeps _ _ _ _ (Keeps.refl _))) (Keeps.refl _))⟩
theorem depart_sound (a b c d s) : answers (.depart a b c d) s := by
  refine ⟨_, rfl, Keeps.sound (hear_keeps _ _ (fun _ => settle_keeps _ _ ?_) (Keeps.refl _))⟩
  split
  · exact departHeard_keeps _ (offerExit_keeps _ (Keeps.refl _))
  · exact offerExit_keeps _ (Keeps.refl _)
theorem late_sound (a b s) : answers (.late a b) s := by
  refine ⟨_, rfl, Keeps.sound (hear_keeps _ _ (fun _ => settle_keeps _ _ ?_) (Keeps.refl _))⟩
  split
  · exact lateHeard_keeps _ (Keeps.refl _)
  · exact Keeps.refl _
theorem answerOrAlertHeard_sound (a b c s) : answers (.answerOrAlertHeard a b c) s :=
  ⟨_, rfl, Keeps.sound (hear_keeps _ _ (fun _ => Keeps.refl _) (Keeps.refl _))⟩
theorem orderForAnotherStation_sound (a b c d e s) : answers (.orderForAnotherStation a b c d e) s :=
  ⟨_, rfl, Keeps.sound (hear_keeps _ _ (fun _ => Keeps.refl _) (Keeps.refl _))⟩
theorem frameAbandoned_sound (a s) : answers (.frameAbandoned a) s := by
  unfold answers
  simp only [exec]
  unfold execFrameAbandoned
  repeat' split
  all_goals refine ⟨_, rfl, ?_⟩
  all_goals first
   | exact Sound.refl _
   | exact Keeps.sound (setLink_keeps _ (by exact Nat.le_refl _) (Keeps.refl _))
theorem idleOf10BitTimes_sound (s) : answers (.idleOf10BitTimes) s :=
  ⟨_, rfl, Keeps.sound (idleFor_keeps _ (Keeps.refl _))⟩
theorem frameSendStart_sound (s) : answers (.frameSendStart) s := by
  unfold answers
  simp only [exec]
  unfold execFrameSendStart
  repeat' split
  all_goals refine ⟨_, rfl, ?_⟩
  all_goals first
   | exact Sound.refl _
   | exact Keeps.sound (setLink_keeps _ (by exact Nat.le_refl _) (Keeps.refl _))
theorem frameWithdrawn_sound (s) : answers (.frameWithdrawn) s := by
  unfold answers
  simp only [exec]
  unfold execFrameWithdrawn
  repeat' split
  all_goals refine ⟨_, rfl, ?_⟩
  all_goals first
   | exact Sound.refl _
   | exact Keeps.sound (withdrawFrame_keeps _ _ (Keeps.refl _))
theorem frameSent_sound (s) : answers (.frameSent) s := by
  unfold answers
  simp only [exec]
  unfold execFrameSent
  repeat' split
  all_goals refine ⟨_, rfl, ?_⟩
  all_goals first
   | exact Sound.refl _
   | exact Keeps.sound (frameEnded_keeps (frameLost_keeps _ (setLink_keeps _ (Link.drop_size _ _) (Keeps.refl _))))
theorem ackFirst_length (l : List AlertEntry) : (ackFirst l).length = l.length := by
  induction l with
  | nil => rfl
  | cons x xs ih => simp only [ackFirst]; split <;> simp [ih]
theorem ackButtonPress_sound (s) : answers (.ackButtonPress) s := by
  unfold answers
  simp only [exec]
  unfold execAckButtonPress
  split
  all_goals refine ⟨_, rfl, ?_⟩
  · exact setAlerts_sound _ (ackFirst_length _) (Sound.refl _)
  · exact Sound.refl _

/-- The verdict of an order keeps the invariants. -/
def Verdict.good (s : State) : Verdict → Prop
  | .no _ => True
  | .done t _ _ => Sound s t
  | .later t => Sound s t

theorem takeOrder_sound {α : Type} (a b : Nat) (l : List Byte) (p : Option α) (judge : α → State → Verdict) (s : State)
    (hj : ∀ x v, (judge x v).good v) : Sound s (s.takeOrder a b l p judge) := by
  refine hear_sound _ _ (fun _ v => ?_) (Sound.refl _)
  split
  · exact Keeps.sound (answerCode_keeps _ _ _ (Keeps.refl _))
  · exact Keeps.sound (answerCode_keeps _ _ _ (Keeps.refl _))
  · have := hj ‹_› v
    split
    · exact Keeps.sound (answerCode_keeps _ _ _ (Keeps.refl _))
    · rename_i heq
      rw [heq] at this
      exact Sound.keeps this (answer_keeps _ _ _ _ _ (Keeps.refl _))
    · rename_i heq
      rw [heq] at this
      exact this
theorem survey_sound (a b l s) : answers (.survey a b l) s := by
  refine ⟨_, rfl, takeOrder_sound _ _ _ _ _ _ ?_⟩
  intro x v
  split
  · trivial
  · exact Keeps.sound (beginSurvey_keeps _ _ _ (Keeps.refl _))
theorem identify_sound (a b l s) : answers (.identify a b l) s := by
  refine ⟨_, rfl, takeOrder_sound _ _ _ _ _ _ ?_⟩
  rintro ⟨x, y, z⟩ v
  have h : ∀ o c, v.busOf z = o → Sound v ((v.identify x z c o).settle v []) := fun o c ho =>
    (Holds.sound (identify_holds _ _ _ _ (Holds.refl _)) (identify_bounds _ _ _ _ ho (Bounds.refl _))).keeps
      (settle_keeps _ _ (Keeps.refl _))
  dsimp only
  split
  · split
    · split
      · exact h _ _ ‹_›
      · trivial
    · split
      · exact h _ _ ‹_›
      · trivial
  · trivial
theorem laneOpen_sound (a b l s) : answers (.laneOpen a b l) s := by
  refine ⟨_, rfl, takeOrder_sound _ _ _ _ _ _ ?_⟩
  intro x v; split
  · exact Keeps.sound (updateLane_keeps _ _ (Keeps.refl _))
  · trivial
theorem laneClose_sound (a b l s) : answers (.laneClose a b l) s := by
  refine ⟨_, rfl, takeOrder_sound _ _ _ _ _ _ ?_⟩
  intro x v; split
  · exact Keeps.sound (updateLane_keeps _ _ (Keeps.refl _))
  · trivial
theorem laneKind_sound (a b l s) : answers (.laneKind a b l) s := by
  refine ⟨_, rfl, takeOrder_sound _ _ _ _ _ _ ?_⟩
  rintro ⟨x, y⟩ v
  dsimp only
  repeat' split
  all_goals first | trivial | exact Keeps.sound (updateLane_keeps _ _ (Keeps.refl _))
theorem washSkip_sound (a b l s) : answers (.washSkip a b l) s := by
  refine ⟨_, rfl, takeOrder_sound _ _ _ _ _ _ ?_⟩
  intro x v
  repeat' split
  all_goals first | trivial | exact Keeps.sound (settle_keeps _ _ (joinUnwashed_keeps _ _ (Keeps.refl _)))
theorem washResume_sound (a b l s) : answers (.washResume a b l) s := by
  refine ⟨_, rfl, takeOrder_sound _ _ _ _ _ _ ?_⟩
  intro x v
  repeat' split
  all_goals first | trivial | exact Sound.refl _ | exact Keeps.sound (resumeWash_keeps (Keeps.refl _))
theorem hold_sound (a b l s) : answers (.hold a b l) s := by
  refine ⟨_, rfl, takeOrder_sound _ _ _ _ _ _ ?_⟩
  intro x v
  split
  · exact Keeps.sound (settle_keeps _ _ (holdBus_keeps _ _ (Keeps.refl _)))
  · trivial
theorem unhold_sound (a b l s) : answers (.unhold a b l) s := by
  refine ⟨_, rfl, takeOrder_sound _ _ _ _ _ _ ?_⟩
  intro x v
  split
  · exact Keeps.sound (settle_keeps _ _ (updateBus_keeps _ _ (fun _ => rfl) (Keeps.refl _)))
  · trivial
theorem feed_sound (a b l s) : answers (.feed a b l) s := by
  refine ⟨_, rfl, takeOrder_sound _ _ _ _ _ _ ?_⟩
  rintro ⟨x, m⟩ v
  dsimp only
  repeat' split
  all_goals first | trivial | exact Keeps.sound (feed_keeps _ _ (Keeps.refl _))
theorem forget_sound (a b l s) : answers (.forget a b l) s := by
  refine ⟨_, rfl, takeOrder_sound _ _ _ _ _ _ ?_⟩
  intro x v
  dsimp only
  repeat' split
  all_goals first | trivial | exact Keeps.sound (followGrants_keeps (setFeeders_keeps _ (Keeps.refl _)))
theorem ack_sound (a b l s) : answers (.ack a b l) s := by
  refine ⟨_, rfl, takeOrder_sound _ _ _ _ _ _ ?_⟩
  rintro ⟨x, m⟩ v
  dsimp only
  split
  · trivial
  · exact setAlerts_sound _ (by simp [Alerts.acknowledge]) (Sound.refl _)
theorem report_sound (a b l s) : answers (.report a b l) s := by
  refine ⟨_, rfl, takeOrder_sound _ _ _ _ _ _ ?_⟩
  rintro ⟨x, m⟩ v
  exact Sound.refl _
theorem restart_sound (a b l s) : answers (.restart a b l) s := by
  refine ⟨_, rfl, takeOrder_sound _ _ _ _ _ _ ?_⟩
  intro x v
  exact Keeps.sound (offerFrame_keeps _ (setOrder_keeps _ (Keeps.refl _)))
theorem orderUnknownKind_sound (a b c l s) : answers (.orderUnknownKind a b c l) s := by
  unfold answers
  simp only [exec]
  unfold execOrderUnknownKind
  split
  · exact ⟨_, rfl, Keeps.sound (hear_keeps _ _ (fun _ => Keeps.refl _) (Keeps.refl _))⟩
  · refine ⟨_, rfl, takeOrder_sound _ _ _ _ _ _ ?_⟩
    intro x v; trivial

/-! ### Starts, and the notices that may bring a station clash -/

/-- The command answers a next state that keeps the invariants. -/
def bounded (c : Instr) (s : State) : Prop := ∃ t, exec c s = .next t ∧ Bounds s t

theorem roll_bounds (a b c d e f g h i j s) : bounded (.roll a b c d e f g h i j) s := by
  refine ⟨_, rfl, hear_bounds _ _ (fun v => ?_) (Bounds.refl _)⟩
  repeat' split
  · exact clash_bounds _
  · exact Keeps.bounds (answerAsk_keeps _ (Keeps.refl _))
  · exact Keeps.bounds (answerAsk_keeps _ (takeRoll_keeps _ _ _ (Keeps.refl _)))
theorem draw_bounds (a b c d e f g s) : bounded (.draw a b c d e f g) s := by
  refine ⟨_, rfl, hear_bounds _ _ (fun v => ?_) (Bounds.refl _)⟩
  repeat' split
  · exact clash_bounds _
  · exact Bounds.refl _
  · exact Keeps.bounds (takeDraw_keeps _ _ _ (Keeps.refl _))

/-! ### A frame given as its bytes -/

/-- The command that an accepted frame spells is carried out. -/
theorem deliver_read (own sender kind : Nat) (body : List Byte) (s : State) :
    deliver (readBody own sender kind body) s = exec (readBody own sender kind body) s := by
  unfold readBody readOrder orderOfKind
  dsimp only
  repeat' split
  all_goals rfl
/-- A command read from a frame is read from its kind and body, and the frame is accepted. -/
theorem readFrame_some {own : Nat} {bytes : List Byte} {c : Instr} (h : readFrame own bytes = some c) :
    frameAccepted own bytes = true ∧ ∃ sender kind body, c = readBody own sender kind body := by
  unfold readFrame at h
  split at h
  · split at h
    · exact ⟨‹_›, _, _, _, (Option.some.inj h).symm⟩
    · cases h
  · cases h
/-- A frame that passes every test of R184 is carried out as the command it spells. -/
theorem frameRejected_reads {a : List Byte} {s : State} {c : Instr} (h : readFrame s.cfg.station a = some c) :
    exec (.frameRejected a) s = exec c s := by
  obtain ⟨-, sender, kind, body, rfl⟩ := readFrame_some h
  show execFrameRejected a s = _
  unfold execFrameRejected
  rw [h]
  exact deliver_read _ _ _ _ _
/-- Any other frame is discarded. -/
theorem frameRejected_discards {a : List Byte} {s : State} (h : readFrame s.cfg.station a = none) :
    exec (.frameRejected a) s = .next (s.hear false (fun s => s)) := by
  show execFrameRejected a s = _
  unfold execFrameRejected
  rw [h]
theorem answers.bounded {c : Instr} {s : State} (h : answers c s) : bounded c s := by
  obtain ⟨t, e, k⟩ := h
  exact ⟨t, e, k.toBounds⟩
theorem orderOfKind_bounds (kind sender tag : Nat) (args : List Byte) (s : State) :
    bounded (orderOfKind kind sender tag args) s := by
  unfold orderOfKind
  split
  · exact (survey_sound _ _ _ _).bounded
  · exact (identify_sound _ _ _ _).bounded
  · exact (laneOpen_sound _ _ _ _).bounded
  · exact (laneClose_sound _ _ _ _).bounded
  · exact (laneKind_sound _ _ _ _).bounded
  · exact (washSkip_sound _ _ _ _).bounded
  · exact (washResume_sound _ _ _ _).bounded
  · exact (hold_sound _ _ _ _).bounded
  · exact (unhold_sound _ _ _ _).bounded
  · exact (feed_sound _ _ _ _).bounded
  · exact (forget_sound _ _ _ _).bounded
  · exact (ack_sound _ _ _ _).bounded
  · exact (report_sound _ _ _ _).bounded
  · exact (restart_sound _ _ _ _).bounded
  · exact (orderUnknownKind_sound _ _ _ _ _).bounded
theorem readOrder_bounds (own sender : Nat) (body : List Byte) (s : State) : bounded (readOrder own sender body) s := by
  unfold readOrder
  dsimp only
  split
  · exact orderOfKind_bounds _ _ _ _ _
  · exact (orderForAnotherStation_sound _ _ _ _ _ _).bounded
theorem readBody_bounds (own sender kind : Nat) (body : List Byte) (s : State) :
    bounded (readBody own sender kind body) s := by
  unfold readBody
  split
  · exact roll_bounds _ _ _ _ _ _ _ _ _ _ _
  · exact draw_bounds _ _ _ _ _ _ _ _
  · exact (feeder_sound _ _ _ _ _).bounded
  · exact (clock_sound _ _ _).bounded
  · exact (run_sound _ _ _ _ _ _ _).bounded
  · exact (runCancel_sound _ _ _).bounded
  · exact (clearRuns_sound _ _).bounded
  · exact (parkCall_sound _ _ _ _ _ _ _ _).bounded
  · exact (offer_sound _ _ _ _ _).bounded
  · exact (take_sound _ _ _ _ _ _).bounded
  · exact (found_sound _ _ _ _).bounded
  · exact (claim_sound _ _ _ _ _).bounded
  · exact (depart_sound _ _ _ _ _).bounded
  · exact (late_sound _ _ _).bounded
  · exact readOrder_bounds _ _ _ _
  · exact (answerOrAlertHeard_sound _ _ _ _).bounded
theorem frameRejected_bounds (a s) : bounded (.frameRejected a) s := by
  unfold bounded
  cases h : readFrame s.cfg.station a with
  | none => rw [frameRejected_discards h]; exact ⟨_, rfl, Keeps.bounds (hear_keeps _ _ (fun _ => Keeps.refl _) (Keeps.refl _))⟩
  | some c =>
    obtain ⟨-, sender, kind, body, rfl⟩ := readFrame_some h
    rw [frameRejected_reads h]
    exact readBody_bounds _ _ _ _ _

/-! ### Starts -/

theorem powerOn_bounds (s) : bounded .powerOn s := ⟨_, rfl, coldStart_bounds _ _⟩
theorem resetLineAsserted_bounds (s) : bounded .resetLineAsserted s := by
  unfold bounded
  simp only [exec]
  unfold execResetLineAsserted
  split
  · exact ⟨_, rfl, setNode_bounds _ (Bounds.keeps (Bounds.refl _) (setLink_keeps _ (by exact Nat.le_refl _) (Keeps.refl _)))⟩
  · exact ⟨_, rfl, Bounds.refl _⟩
  · exact ⟨_, rfl, Bounds.refl _⟩
theorem resetHoldExpiry_bounds (s) : bounded .resetHoldExpiry s := by
  unfold bounded
  simp only [exec]
  unfold execResetHoldExpiry
  split
  · exact ⟨_, rfl, Bounds.refl _⟩
  · split
    · exact ⟨_, rfl, coldStart_bounds _ _⟩
    · exact ⟨_, rfl, Bounds.refl _⟩
  · exact ⟨_, rfl, Bounds.refl _⟩
theorem resetLineReleased_bounds (s) : bounded .resetLineReleased s := by
  unfold bounded
  simp only [exec]
  unfold execResetLineReleased
  dsimp only
  split
  · exact ⟨_, rfl, Bounds.refl _⟩
  · refine ⟨_, rfl, ?_⟩
    split
    · exact warmRestart_bounds (setNode_bounds _ (Bounds.refl _))
    · exact coldStart_bounds _ _
  · exact ⟨_, rfl, coldStart_bounds _ _⟩
theorem listenTimerExpiry_bounds (s) : bounded .listenTimerExpiry s := by
  unfold bounded
  simp only [exec]
  unfold execListenTimerExpiry
  split
  · exact ⟨_, rfl, (enterRun_bounds _).keeps (settle_keeps _ _ (Keeps.refl _))⟩
  · exact ⟨_, rfl, Bounds.refl _⟩
theorem restartAnswerLeft_bounds (s) : bounded .restartAnswerLeft s := by
  unfold bounded
  simp only [exec]
  unfold execRestartAnswerLeft
  repeat' split
  all_goals refine ⟨_, rfl, ?_⟩
  · exact warmRestart_bounds (Bounds.refl _)
  · exact Bounds.refl _
  · exact Bounds.refl _
  · exact Bounds.refl _

theorem configReadComplete_bounds (im s) (hq : s.node.state = .loading → s.link.size = 0) :
    bounded (.configReadComplete im) s := by
  unfold bounded
  simp only [exec]
  unfold execConfigReadComplete
  split
  · rename_i hc
    have hl : s.node.state = .loading := by simp_all
    split
    · exact ⟨_, rfl, configBad_bounds _ _ _ (hq hl)⟩
    · exact ⟨_, rfl, startFrom_bounds _ _⟩
  · exact ⟨_, rfl, Bounds.refl _⟩

end Sys2Proof.Machine
end

