-- ==== Sys2Proof/Laws/Frames.lean ====
section
/-! SUPPORT. What queueing a frame and raising an alert can change: the send queue, the alert list, and the order in
execution when a RESTART's answer is lost. -/

namespace Sys2Proof.Machine

/-- Queueing a frame changes the link, the alert list and the order alone. -/
theorem offerFrame_only (s : State) (f : SendFrame) :
    ∃ l a o, s.offerFrame f = ((s.setLink l).setAlerts a).setOrder o := by
  have lost : ∀ t : State, ∃ o, t.frameLost f = t.setOrder o := by
    intro t
    unfold State.frameLost State.answerLeft
    split
    · split
      · split
        · exact ⟨_, rfl⟩
        · exact ⟨t.order, rfl⟩
      · exact ⟨t.order, rfl⟩
    · exact ⟨t.order, rfl⟩
  unfold State.offerFrame State.dropOnFull
  split
  · split
    · exact ⟨s.link.replaceWaitingDraw f.notice, s.alerts, s.order, rfl⟩
    · split
      · exact ⟨s.link.push f, s.alerts, s.order, rfl⟩
      · split
        · obtain ⟨o, e⟩ := lost s
          exact ⟨s.link, s.alerts, o, e⟩
        · obtain ⟨o, e⟩ := lost ((s.setLink { s.link with latch := true }).storeAlert .linkCongested f.notice.kind)
          exact ⟨{ s.link with latch := true }, _, o, e⟩
  · obtain ⟨o, e⟩ := lost s
    exact ⟨s.link, s.alerts, o, e⟩

/-- Queueing a notice changes the link and the alert list alone. -/
theorem send_only (s : State) (n : Notice) : ∃ l a, s.send n = (s.setLink l).setAlerts a := by
  unfold State.send State.offerFrame State.dropOnFull State.frameLost
  split
  · split
    · exact ⟨s.link.replaceWaitingDraw n, s.alerts, rfl⟩
    · split
      · exact ⟨s.link.push ⟨n, 0, false⟩, s.alerts, rfl⟩
      · split
        · exact ⟨s.link, s.alerts, rfl⟩
        · exact ⟨{ s.link with latch := true }, _, rfl⟩
  · exact ⟨s.link, s.alerts, rfl⟩

/-- Raising an alert changes the link and the alert list alone. -/
theorem raise_only (s : State) (c : AlertCode) (n : Nat) : ∃ l a, s.raise c n = (s.setLink l).setAlerts a := by
  obtain ⟨l, a, e⟩ := send_only (s.storeAlert c n) (.alert c n s.stamp)
  exact ⟨l, a, e⟩

end Sys2Proof.Machine
end

