-- ==== Sys2Proof/Laws/Ground.lean ====
section
/-! SUPPORT. Each operation of the tests that follow a command leaves the ground of the state as it stands. -/

namespace Sys2Proof.Machine

/-- The handles of the bus records are distinct (log 5). -/
def State.distinct (s : State) : Prop := (s.buses.records.map (·.id)).Nodup

/-- The ground of `t` is that of `s`, while handles are distinct. -/
def Grounds (s t : State) : Prop := s.distinct → t.ground = s.ground

theorem ground_ids (s : State) : s.ground.buses.records.map (·.id) = s.buses.records.map (·.id) := by
  simp [State.ground, Bus.ground]
theorem distinct_of_ground {s t : State} (h : t.ground = s.ground) (d : s.distinct) : t.distinct := by
  unfold State.distinct at *
  rw [← ground_ids t, h, ground_ids]
  exact d
theorem Grounds.refl (s : State) : Grounds s s := fun _ => rfl
theorem Grounds.trans {s t u : State} (h : Grounds s t) (k : Grounds t u) : Grounds s u := fun d =>
  (k (distinct_of_ground (h d) d)).trans (h d)
theorem Grounds.step {s t u : State} (h : Grounds s t) (k : u.ground = t.ground) : Grounds s u :=
  h.trans fun _ => k

theorem foldl_grounds {α : Type} (f : State → α → State) (hf : ∀ u x, Grounds u (f u x)) (l : List α) {s u : State}
    (h : Grounds s u) : Grounds s (l.foldl f u) := by
  induction l generalizing u with
  | nil => exact h
  | cons x xs ih => exact ih (h.trans (hf u x))

/-! ### Block updates -/

theorem setLink_grounds {s u : State} (x : Link) (h : Grounds s u) : Grounds s (u.setLink x) := h.step rfl
theorem setAlerts_grounds {s u : State} (x : Alerts) (h : Grounds s u) : Grounds s (u.setAlerts x) := h.step rfl
theorem setLanes_grounds {s u : State} (x : List Lane) (hx : x.map Lane.ground = u.lanes.map Lane.ground)
    (h : Grounds s u) : Grounds s (u.setLanes x) := h.step (by simp [State.ground, State.setLanes, hx])
theorem setBuses_grounds {s u : State} (x : List Bus) (hx : x.map Bus.ground = u.buses.records.map Bus.ground)
    (h : Grounds s u) : Grounds s (u.setBuses { u.buses with records := x }) :=
  h.step (by simp [State.ground, State.setBuses, hx])
theorem setRuns_grounds {s u : State} (x : RunList) (hx : x.runs.map Run.ground = u.runs.runs.map Run.ground)
    (h : Grounds s u) : Grounds s (u.setRuns x) := h.step (by simp [State.ground, State.setRuns, hx])
theorem setWash_grounds {s u : State} (x : Wash) (h1 : x.mode = u.wash.mode) (h2 : x.frost = u.wash.frost)
    (h3 : x.clearing = u.wash.clearing) (h : Grounds s u) : Grounds s (u.setWash x) :=
  h.step (by simp [State.ground, State.setWash, h1, h2, h3])
theorem setAlloc_grounds {s u : State} (x : Allocator) (h1 : x.arrived = u.alloc.arrived)
    (h2 : x.display = u.alloc.display) (h : Grounds s u) : Grounds s (u.setAlloc x) :=
  h.step (by simp [State.ground, State.setAlloc, h1, h2])
theorem setDepartures_grounds {s u : State} (x : Departures) (h1 : x.lastExit = u.departures.lastExit)
    (h : Grounds s u) : Grounds s (u.setDepartures x) :=
  h.step (by simp [State.ground, State.setDepartures, h1])

theorem map_ground_eq {α : Type} (g f : α → α) (l : List α) (hf : ∀ x ∈ l, g (f x) = g x) :
    (l.map f).map g = l.map g := by
  rw [List.map_map]
  exact List.map_congr_left hf

theorem updateLane_grounds {s u : State} (n : Nat) (f : Lane → Lane) (hf : ∀ l, (f l).ground = l.ground)
    (h : Grounds s u) : Grounds s (u.updateLane n f) :=
  setLanes_grounds _ (map_ground_eq _ _ _ (fun l _ => by split <;> simp [hf])) h
theorem updateRun_grounds {s u : State} (n : Nat) (f : Run → Run) (hf : ∀ r, (f r).ground = r.ground)
    (h : Grounds s u) : Grounds s (u.updateRun n f) :=
  setRuns_grounds _ (map_ground_eq _ _ _ (fun r _ => by split <;> simp [hf])) h
theorem nameRun_grounds {s u : State} (n : Nat) (r : Run) (h : Grounds s u) : Grounds s (u.nameRun n r) :=
  setBuses_grounds _ (map_ground_eq _ _ _ (fun b _ => by split <;> rfl)) h
theorem setStage_grounds {s u : State} (n : Nat) (st : StageState) (t : Option Nat) (h : Grounds s u) :
    Grounds s (u.setStage n st t) := setWash_grounds _ rfl rfl rfl h

/-! ### Frames -/

theorem send_grounds {s u : State} (n : Notice) (h : Grounds s u) : Grounds s (u.send n) := by
  unfold State.send State.offerFrame State.dropOnFull State.frameLost
  repeat' split
  all_goals first
    | exact setLink_grounds _ h
    | exact h
    | exact setAlerts_grounds _ (setLink_grounds _ h)
    | contradiction
theorem raise_grounds {s u : State} (c : AlertCode) (n : Nat) (h : Grounds s u) : Grounds s (u.raise c n) :=
  send_grounds _ (setAlerts_grounds _ h)
theorem sendClaim_grounds {s u : State} (a b c : Nat) (h : Grounds s u) : Grounds s (u.sendClaim a b c) := by
  unfold State.sendClaim
  split
  · exact send_grounds _ h
  · exact h

/-! ### Binding and claims -/

theorem giveUpRun_grounds {s u : State} (n f : Nat) (h : Grounds s u) : Grounds s (u.giveUpRun n f) := by
  unfold State.giveUpRun
  dsimp only
  repeat' split
  all_goals first
    | exact h
    | exact sendClaim_grounds _ _ _ (updateRun_grounds _ _ (fun _ => rfl) h)
    | exact updateRun_grounds _ _ (fun _ => rfl) h
theorem bindBus_grounds {s u : State} (i : Nat) (h : Grounds s u) : Grounds s (u.bindBus i) := by
  unfold State.bindBus
  dsimp only
  repeat' split
  all_goals first
    | exact h
    | exact nameRun_grounds _ _ (updateRun_grounds _ _ (fun _ => rfl) (giveUpRun_grounds _ _ h))
    | exact nameRun_grounds _ _ (updateRun_grounds _ _ (fun _ => rfl) h)
theorem bindAll_grounds {s u : State} (h : Grounds s u) : Grounds s u.bindAll :=
  foldl_grounds _ (fun _ _ => bindBus_grounds _ (Grounds.refl _)) _ h
theorem withdrawClaim_grounds {s u : State} (n : Nat) (h : Grounds s u) : Grounds s (u.withdrawClaim n) := by
  unfold State.withdrawClaim
  repeat' split
  all_goals first | exact h | exact sendClaim_grounds _ _ _ (updateRun_grounds _ _ (fun _ => rfl) h)
theorem withdrawClaims_grounds {s u : State} (h : Grounds s u) : Grounds s u.withdrawClaims :=
  foldl_grounds _ (fun _ _ => withdrawClaim_grounds _ (Grounds.refl _)) _ h
theorem claimRun_grounds {s u : State} (r : Run) (a b : Nat) (h : Grounds s u) : Grounds s (u.claimRun r a b) :=
  send_grounds _ (updateRun_grounds _ _ (fun _ => rfl) h)
theorem claimTest_grounds {s u : State} (n : Nat) (h : Grounds s u) : Grounds s (u.claimTest n) := by
  unfold State.claimTest
  repeat' split
  all_goals first | exact h | exact claimRun_grounds _ _ _ h
theorem claimTests_grounds {s u : State} (b : State) (e : List Nat) (h : Grounds s u) :
    Grounds s (State.claimTests b e u) := foldl_grounds _ (fun _ _ => claimTest_grounds _ (Grounds.refl _)) _ h
theorem keepRefresh_grounds {s u : State} (b : State) (h : Grounds s u) : Grounds s (u.keepRefresh b) :=
  setRuns_grounds _ (map_ground_eq _ _ _ (fun _ _ => rfl)) h
theorem raiseFront_grounds {s u : State} (b : State) (h : Grounds s u) : Grounds s (u.raiseFront b) := by
  unfold State.raiseFront
  repeat' split
  all_goals exact h.step rfl

/-! ### Departure -/

theorem makeLate_grounds {s u : State} (n : Nat) (a : AlertCode) (h : Grounds s u) : Grounds s (u.makeLate n a) :=
  raise_grounds _ _ (send_grounds _ (updateRun_grounds _ _ (fun _ => rfl) h))
theorem lapseRun_grounds {s u : State} (n : Nat) (h : Grounds s u) : Grounds s (u.lapseRun n) := by
  unfold State.lapseRun
  repeat' split
  all_goals first | exact h | exact raiseFront_grounds _ (updateRun_grounds _ _ (fun _ => rfl) h)
theorem lapseRuns_grounds {s u : State} (h : Grounds s u) : Grounds s u.lapseRuns :=
  foldl_grounds _ (fun _ _ => lapseRun_grounds _ (Grounds.refl _)) _ h
theorem latenessTests_grounds {s : State} (n : Nat) :
    ∀ {u : State}, Grounds s u → Grounds s (State.latenessTests n u) := by
  induction n with
  | zero => exact fun h => h
  | succ n ih =>
    intro u h
    unfold State.latenessTests
    split
    · exact ih (raiseFront_grounds _ (makeLate_grounds _ _ h))
    · exact h
theorem zeroAt_grounds {s u : State} (l p : Nat) (h : Grounds s u) : Grounds s (u.zeroAt l p) :=
  h.step (by
    simp only [State.ground, State.zeroAt, State.setCharging]
    rw [map_ground_eq]
    intro c _
    split <;> rfl)

/-- The record of a handle changed within its ground. -/
theorem updateOne_grounds {s u : State} (b : Bus) (f : Bus → Bus) (hb : b ∈ u.buses.records)
    (hp : (f b).ground = b.ground) (h : Grounds s u) : Grounds s (u.updateBus b.id f) := by
  refine h.trans fun d => ?_
  have hx : ∀ x ∈ u.buses.records, x.id = b.id → x = b := by
    unfold State.distinct at d
    generalize u.buses.records = l at hb d
    clear h hp
    induction l with
    | nil => simp at hb
    | cons y ys ih =>
      have d' := List.nodup_cons.mp d
      intro x hx he
      rcases List.mem_cons.mp hb with rfl | hb' <;> rcases List.mem_cons.mp hx with rfl | hx'
      · rfl
      · exact absurd (List.mem_map.mpr ⟨x, hx', he⟩) d'.1
      · exact absurd (List.mem_map.mpr ⟨b, hb', he.symm⟩) d'.1
      · exact ih hb' d'.2 x hx' he
  refine setBuses_grounds _ (map_ground_eq _ _ _ (fun x hm => ?_)) (Grounds.refl u) d
  split
  · rename_i he
    have := hx x hm (by simpa using he)
    subst this
    exact hp
  · rfl
/-- The record of a handle moved within its ground. -/
theorem setPlace_grounds {s u : State} (b : Bus) (p : Place) (hb : b ∈ u.buses.records)
    (hp : p.ground = b.place.ground) (h : Grounds s u) : Grounds s (u.setPlace b.id p) :=
  updateOne_grounds b _ hb (by simp [Bus.ground, hp]) h

theorem beginRelease_grounds {s u : State} (r : Run) (b : Bus) (hb : b ∈ u.buses.records) (h : Grounds s u) :
    Grounds s (u.beginRelease r b) := by
  unfold State.beginRelease
  split
  · rename_i hp _
    exact zeroAt_grounds _ _ (setDepartures_grounds _ rfl (setPlace_grounds b _ hb (by rw [hp]; rfl) h))
  · exact h
theorem boundTo_mem {s : State} {n : Nat} {b : Bus} (h : s.boundTo n = some b) : b ∈ s.buses.records :=
  List.mem_of_find?_eq_some h
theorem busOf_mem {s : State} {n : Nat} {b : Bus} (h : s.busOf n = some b) : b ∈ s.buses.records :=
  List.mem_of_find?_eq_some h
theorem occupant_mem {s : State} {l p : Nat} {b : Bus} (h : s.occupant l p = some b) : b ∈ s.buses.records :=
  List.mem_of_find?_eq_some h
theorem releaseTest_grounds {s u : State} (h : Grounds s u) : Grounds s u.releaseTest := by
  unfold State.releaseTest
  split
  · split
    · exact beginRelease_grounds _ _ (boundTo_mem ‹_›) h
    · exact h
  · exact h
theorem markFailed_grounds {s u : State} (l i : Nat) (h : Grounds s u) : Grounds s (u.markFailed l i) :=
  setDepartures_grounds _ rfl h
theorem clearFailed_grounds {s u : State} (h : Grounds s u) : Grounds s u.clearFailed := setDepartures_grounds _ rfl h
theorem addReservation_grounds {s u : State} (l : Nat) (x : Reservation) (h : Grounds s u) :
    Grounds s (u.addReservation l x) := updateLane_grounds _ _ (fun _ => rfl) h
theorem issueShunt_grounds {s u : State} (n : Nat) (x : Bus) (f l p : Nat) (a : Lane) (hx : x ∈ u.buses.records)
    (hp : x.place = .parked l p) (h : Grounds s u) : Grounds s (u.issueShunt n x f l p a) := by
  unfold State.issueShunt
  split
  · exact raise_grounds _ _ (markFailed_grounds _ _ h)
  · exact setDepartures_grounds _ rfl (setPlace_grounds x _ hx (by rw [hp]; rfl) (addReservation_grounds _ _ h))

/-- The record at the leaving position stands there (R5). -/
theorem leavingBus_spec {s : State} {l : Lane} {x : Bus} (h : s.leavingBus l = some x) :
    x ∈ s.buses.records ∧ ∃ p, x.berth? = some (l.number, p) := by
  unfold State.leavingBus at h
  split at h
  · rename_i p _
    exact ⟨occupant_mem h, p, by simpa using List.find?_some h⟩
  · cases h
theorem laneOf_number {s : State} {n : Nat} {l : Lane} (h : s.laneOf n = some l) : l.number = n := by
  simpa using List.find?_some h
theorem parked_berth {x : Bus} {l p : Nat} (hx : x.isParked = true) (hb : x.berth? = some (l, p)) :
    x.place = .parked l p := by
  unfold Bus.isParked at hx
  unfold Bus.berth? at hb
  split at hx
  · rename_i he
    rw [he] at hb ⊢
    simpa using hb
  · cases hx
theorem shuntTest_grounds {s u : State} (n : Nat) (h : Grounds s u) : Grounds s (u.shuntTest n) := by
  unfold State.shuntTest
  split
  · split
    · split
      · exact h
      · rename_i hl
        split
        · exact h
        · rename_i x hx
          obtain ⟨hm, p, hp⟩ := leavingBus_spec hx
          rw [laneOf_number hl] at hp
          split
          · rename_i hc
            have hpk : x.isParked = true := by simp_all
            split
            · rename_i hb
              have hq := hb.symm.trans hp
              simp only [Option.some.injEq, Prod.mk.injEq] at hq
              exact issueShunt_grounds _ _ _ _ _ _ hm (by rw [hq.2]; exact parked_berth hpk hp) h
            · exact raise_grounds _ _ (markFailed_grounds _ _ h)
          · exact h
    · exact h
  · exact h
theorem shuntTests_grounds {s u : State} (h : Grounds s u) : Grounds s u.shuntTests :=
  foldl_grounds _ (fun _ _ => shuntTest_grounds _ (Grounds.refl _)) _ h
theorem exitTests_grounds {s u : State} (h : Grounds s u) : Grounds s u.exitTests :=
  releaseTest_grounds (latenessTests_grounds _ h)
theorem departureTests_grounds {s u : State} (h : Grounds s u) : Grounds s u.departureTests :=
  exitTests_grounds (shuntTests_grounds (clearFailed_grounds (exitTests_grounds (lapseRuns_grounds h))))

/-! ### Wash lane and calls -/

theorem signalOn_grounds {s u : State} (n : Nat) (h : Grounds s u) : Grounds s (u.signalOn n) := by
  unfold State.signalOn
  dsimp only
  split
  · exact setWash_grounds _ rfl rfl rfl (setStage_grounds _ _ _ h)
  · exact setStage_grounds _ _ _ h
theorem testOnward_grounds {s u : State} (n : Nat) (h : Grounds s u) : Grounds s (u.testOnward n) := by
  unfold State.testOnward
  split
  · exact signalOn_grounds _ h
  · exact h
theorem testStages_grounds {s : State} (n : Nat) : ∀ {u : State}, Grounds s u → Grounds s (State.testStages n u) := by
  induction n with
  | zero => exact fun h => h
  | succ n ih => exact fun h => ih (testOnward_grounds _ h)
theorem mem_insertBy {α : Type} (f : α → α → Bool) (x y : α) (l : List α) : y ∈ insertBy f x l ↔ y = x ∨ y ∈ l := by
  induction l with
  | nil => simp [insertBy]
  | cons z zs ih =>
    simp only [insertBy]
    split
    · simp only [List.mem_cons, ih]
      constructor
      · rintro (h | h | h) <;> simp [h]
      · rintro (h | h | h) <;> simp [h]
    · simp
theorem mem_sortBy {α : Type} (f : α → α → Bool) (y : α) (l : List α) : y ∈ sortBy f l ↔ y ∈ l := by
  induction l with
  | nil => simp [sortBy]
  | cons z zs ih => simp [sortBy, mem_insertBy, ih]
theorem washQueue_mem {s : State} {b : Bus} (h : b ∈ s.washQueue) : b ∈ s.buses.records ∧ b.place = .queued := by
  unfold State.washQueue at h
  rw [mem_sortBy] at h
  have := List.mem_filter.mp h
  exact ⟨this.1, by have := this.2; simp_all⟩
theorem joinUnwashed_grounds {s u : State} (b : Bus) (f : Nat) (hb : b ∈ u.buses.records) (hp : b.place = .queued)
    (h : Grounds s u) : Grounds s (u.joinUnwashed b.id f) :=
  setWash_grounds _ rfl rfl rfl (updateOne_grounds b _ hb (by simp [Bus.ground, hp, Place.ground]) h)
theorem spill_grounds {s : State} (n : Nat) : ∀ {u : State}, Grounds s u → Grounds s (State.spill n u) := by
  induction n with
  | zero => exact fun h => h
  | succ n ih =>
    intro u h
    unfold State.spill
    split
    · split
      · rename_i hq
        have hm := washQueue_mem (s := u) (by rw [hq]; exact List.mem_cons_self ..)
        split
        · exact ih (joinUnwashed_grounds _ _ hm.1 hm.2 h)
        · exact h
      · exact h
    · exact h
theorem testEntryCall_grounds {s u : State} (h : Grounds s u) : Grounds s u.testEntryCall := by
  unfold State.testEntryCall
  repeat' split
  all_goals exact h.step rfl
theorem washTests_grounds {s u : State} (h : Grounds s u) : Grounds s u.washTests := by
  unfold State.washTests
  split
  · exact testEntryCall_grounds (spill_grounds 4 (testStages_grounds _ h))
  · exact h
theorem dropOffer_grounds {s u : State} (c : Nat) (h : Grounds s u) : Grounds s (u.dropOffer c) := by
  unfold State.dropOffer
  split
  · exact setAlloc_grounds _ rfl rfl (updateLane_grounds _ _ (fun _ => rfl) h)
  · exact h
theorem evaluateCall_grounds {s u : State} (n : Nat) (c : Call) (h : Grounds s u) : Grounds s (u.evaluateCall n c) := by
  have k : Grounds s (u.dropOffer n) := dropOffer_grounds _ h
  unfold State.evaluateCall
  dsimp only
  repeat' split
  all_goals first
    | exact k
    | exact send_grounds _ (setAlloc_grounds _ rfl rfl (updateLane_grounds _ _ (fun _ => rfl) k))
theorem makeCall_grounds {s u : State} (b : Bus) (f n : Nat) (h : Grounds s u) : Grounds s (u.makeCall b f n) :=
  evaluateCall_grounds _ _ (send_grounds _ (setAlloc_grounds _ rfl rfl h))
theorem callTest_grounds {s u : State} (h : Grounds s u) : Grounds s u.callTest := by
  unfold State.callTest
  repeat' split
  all_goals first | exact h | exact makeCall_grounds _ _ _ h

end Sys2Proof.Machine
end

