-- ==== Sys2Proof/Laws/Lookup.lean ====
section
/-! SUPPORT. What the look-ups of a lane, a run and a charger answer after the record of that key has been changed, and
what they answer for every other key. -/

namespace Sys2Proof.Machine

theorem find_update {α : Type} (p : α → Bool) (f : α → α) (hf : ∀ x, p x = true → p (f x) = true) (l : List α) :
    (l.map (fun x => if p x then f x else x)).find? p = (l.find? p).map f := by
  induction l with
  | nil => rfl
  | cons x xs ih =>
    cases hx : p x with
    | true => simp [hx, hf x hx]
    | false => simp [hx, ih]

theorem find_update_other {α : Type} (p q : α → Bool) (f : α → α) (hf : ∀ x, p x = true → q x = false)
    (hg : ∀ x, p x = true → q (f x) = false) (l : List α) :
    (l.map (fun x => if p x then f x else x)).find? q = l.find? q := by
  induction l with
  | nil => rfl
  | cons x xs ih =>
    cases hx : p x with
    | true => simp [hx, hf x hx, hg x hx, ih]
    | false => simp [hx, List.find?_cons, ih]

theorem laneOf_updateLane (s : State) (n : Nat) (f : Lane → Lane) (hf : ∀ l, (f l).number = l.number) :
    (s.updateLane n f).laneOf n = (s.laneOf n).map f := by
  unfold State.laneOf State.updateLane
  exact find_update _ f (fun l h => by simpa [hf] using h) _
theorem laneOf_updateLane_other (s : State) (n m : Nat) (f : Lane → Lane) (hf : ∀ l, (f l).number = l.number)
    (h : m ≠ n) : (s.updateLane n f).laneOf m = s.laneOf m := by
  unfold State.laneOf State.updateLane
  refine find_update_other _ _ f (fun l hl => ?_) (fun l hl => ?_) _
  · simp at hl ⊢; omega
  · simp [hf] at hl ⊢; omega
theorem runOf_updateRun (s : State) (n : Nat) (f : Run → Run) (hf : ∀ r, (f r).run = r.run) :
    (s.updateRun n f).runOf n = (s.runOf n).map f := by
  unfold State.runOf State.updateRun
  exact find_update _ f (fun r h => by simpa [hf] using h) _
theorem runOf_updateRun_other (s : State) (n m : Nat) (f : Run → Run) (hf : ∀ r, (f r).run = r.run)
    (h : m ≠ n) : (s.updateRun n f).runOf m = s.runOf m := by
  unfold State.runOf State.updateRun
  refine find_update_other _ _ f (fun r hr => ?_) (fun r hr => ?_) _
  · simp at hr ⊢; omega
  · simp [hf] at hr ⊢; omega
theorem chargerOf_updateCharger (s : State) (n : Nat) (f : Charger → Charger) (hf : ∀ c, (f c).berth = c.berth) :
    (s.updateCharger n f).chargerOf n = (s.chargerOf n).map f := by
  unfold State.chargerOf State.updateCharger
  exact find_update _ f (fun c h => by simpa [hf] using h) _
theorem chargerOf_updateCharger_other (s : State) (n m : Nat) (f : Charger → Charger)
    (hf : ∀ c, (f c).berth = c.berth) (h : m ≠ n) : (s.updateCharger n f).chargerOf m = s.chargerOf m := by
  unfold State.chargerOf State.updateCharger
  refine find_update_other _ _ f (fun c hc => ?_) (fun c hc => ?_) _
  · simp at hc ⊢; omega
  · simp [hf] at hc ⊢; omega

end Sys2Proof.Machine
end

