-- ==== Sys2Proof/Laws/Orders.lean ====
section
/-! SUPPORT. The argument bytes of the orders, and what the taking of an order and the hearing of a frame come to. -/

namespace Sys2Proof.Machine

/-! ### Argument bytes (R207) -/

theorem byte_toNat (n : Nat) (h : n ≤ 255) : (byte n).toNat = n := by simp [byte]; omega
theorem num16_be16 (n : Nat) (h : n ≤ 65535) : num16 (BitVec.ofNat 8 (n / 256)) (BitVec.ofNat 8 n) = n := by
  simp [num16]; omega
theorem args0_none (l : List Byte) (h : l.length ≠ 0) : args0 l = none := by
  cases l <;> simp_all [args0]
theorem args1_none (ok : Nat → Bool) (l : List Byte) (h : l.length ≠ 1) : args1 ok l = none := by
  rcases l with _ | ⟨a, _ | ⟨b, l⟩⟩ <;> simp_all [args1]
theorem args2_none (ok : Nat → Bool) (l : List Byte) (h : l.length ≠ 2) : args2 ok l = none := by
  rcases l with _ | ⟨a, _ | ⟨b, _ | ⟨c, l⟩⟩⟩ <;> simp_all [args2]
theorem args11_none (f g : Nat → Bool) (l : List Byte) (h : l.length ≠ 2) : args11 f g l = none := by
  rcases l with _ | ⟨a, _ | ⟨b, _ | ⟨c, l⟩⟩⟩ <;> simp_all [args11]
theorem ackArgs_none (l : List Byte) (h : l.length ≠ 3) : ackArgs l = none := by
  rcases l with _ | ⟨a, _ | ⟨b, _ | ⟨c, _ | ⟨d, l⟩⟩⟩⟩ <;> simp_all [ackArgs]
theorem identifyArgs_none (l : List Byte) (h : l.length ≠ 4) : identifyArgs l = none := by
  rcases l with _ | ⟨a, _ | ⟨b, _ | ⟨c, _ | ⟨d, _ | ⟨e, l⟩⟩⟩⟩⟩ <;> simp_all [identifyArgs]
theorem laneKindArgs_none (l : List Byte) (h : l.length ≠ 2) : laneKindArgs l = none := by
  unfold laneKindArgs; rw [args11_none _ _ l h]
theorem feedArgs_none (l : List Byte) (h : l.length ≠ 2) : feedArgs l = none := by
  unfold feedArgs; rw [args11_none _ _ l h]
theorem laneArgs_byte (n : Nat) (h1 : 1 ≤ n) (h2 : n ≤ 8) : laneArgs [byte n] = some n := by
  have := byte_toNat n (by omega)
  simp [laneArgs, args1, this, okLane, h1, h2]
theorem fleetArgs_be16 (n : Nat) (h1 : 1 ≤ n) (h2 : n ≤ 9999) : fleetArgs (be16 n) = some n := by
  have := num16_be16 n (by omega)
  simp [fleetArgs, be16, args2, this, okFleet, h1, h2]

/-! ### Frames and orders (R184, R192, R206) -/

/-- A receiver that takes a frame belongs to a node that reads the line. -/
theorem takesFrame_mayDrive {s : State} (h : s.takesFrame = true) : s.mayDrive = true := by
  simp only [State.takesFrame, State.hears, State.mayDrive, Bool.and_eq_true] at h ⊢
  exact ⟨h.1.2, by simp [h.1.1]⟩
/-- A frame that the receiver takes and the node accepts: the receiver ends it and the notice has its effect. -/
theorem hear_accepted {s : State} {a : Bool} {f : State → State} (h : s.takesFrame = true) (ha : a = true) :
    s.hear a f = f s.frameEnded := by
  unfold State.hear
  rw [if_pos (takesFrame_mayDrive h), h, ha]
  rfl
/-- A frame that is not accepted only ends. -/
theorem hear_rejected {s : State} {a : Bool} {f : State → State} (h : s.mayDrive = true) (ha : a = false) :
    s.hear a f = s.frameEnded := by
  unfold State.hear
  rw [if_pos h, ha, Bool.and_false]
  rfl
/-- A frame that the receiver ignores only ends (R181). -/
theorem hear_ignored {s : State} {a : Bool} {f : State → State} (h : s.mayDrive = true) (ht : s.takesFrame = false) :
    s.hear a f = s.frameEnded := by
  unfold State.hear
  rw [if_pos h, ht]
  rfl
/-- A node that does not read the line is left as it is. -/
theorem hear_deaf {s : State} {a : Bool} {f : State → State} (h : s.mayDrive = false) : s.hear a f = s := by
  unfold State.hear
  rw [h]
  rfl
theorem orderFrame_ok {s : State} {sender tag : Nat} {args : List Byte} (h1 : sender ≤ 31) (h2 : sender ≠ s.cfg.station)
    (h3 : tag ≤ 255) (h4 : args.length ≤ 29) : (okOrderFrame sender tag args && s.fromPeer sender) = true := by
  simp [okOrderFrame, okStation, okByte, h1, h3, h4, State.fromPeer, h2]
/-- An order while none is in execution comes to its verdict. -/
theorem takeOrder_free {α : Type} {s : State} {sender tag : Nat} {args : List Byte} (p : Option α)
    (j : α → State → Verdict) (h : s.takesFrame = true) (h1 : sender ≤ 31) (h2 : sender ≠ s.cfg.station) (h3 : tag ≤ 255)
    (h4 : args.length ≤ 29) (h5 : s.order = none) :
    s.takeOrder sender tag args p j = (match p with
      | none => s.frameEnded.answerCode sender tag .invalid
      | some x =>
        match j x s.frameEnded with
        | .no code => s.frameEnded.answerCode sender tag code
        | .done after next payload => after.answer sender tag .done next payload
        | .later after => after) := by
  unfold State.takeOrder
  rw [hear_accepted h (orderFrame_ok h1 h2 h3 h4)]
  have ho : s.frameEnded.order = none := h5
  simp only [ho]
  cases p <;> rfl
/-- An order while another is in execution is answered BUSY. -/
theorem takeOrder_busy {α : Type} {s : State} {sender tag : Nat} {args : List Byte} {o : Order} (p : Option α)
    (j : α → State → Verdict) (h : s.takesFrame = true) (h1 : sender ≤ 31) (h2 : sender ≠ s.cfg.station) (h3 : tag ≤ 255)
    (h4 : args.length ≤ 29) (h5 : s.order = some o) :
    s.takeOrder sender tag args p j = s.frameEnded.answerCode sender tag .busy := by
  unfold State.takeOrder
  rw [hear_accepted h (orderFrame_ok h1 h2 h3 h4)]
  have ho : s.frameEnded.order = some o := h5
  simp only [ho]

end Sys2Proof.Machine
end

