-- ==== Sys2Proof/Tests/Slice0.lean ====
section
/-! SUPPORT. Tests: ill-formed commands refused, the manual's worked figures, and for every statement with premises a
concrete state and operands that meet them, each clause at a value of its own. Expected results are the manual's. -/

namespace Sys2Proof.Tests

open Sys2Proof Sys2Proof.Machine

/-! ### A yard to witness on -/

/-- A charger of 80 kW, at least 15, on groups A and B at home. -/
def chargerConf : ChargerConfig := ⟨⟨true, true, false⟩, 80, 15, 20, .floor, .pause, 2⟩

/-- Lane 1: DEAD_END, three charged berths. -/
def lane1 : LaneConfig := ⟨.deadEnd, [11, 12, 13], ⟨true, true, true⟩, none, true, false, [chargerConf, chargerConf, chargerConf]⟩

/-- Lane 2: THROUGH, two berths. -/
def lane2 : LaneConfig := ⟨.through, [21, 22], ⟨true, true, true⟩, none, false, false, []⟩

/-- Lane 3: DEAD_END, two berths, its kind free to change. -/
def lane3 : LaneConfig := ⟨.deadEnd, [31, 32], ⟨true, true, true⟩, none, false, true, []⟩

/-- Lane 4: THROUGH, one berth. -/
def lane4 : LaneConfig := ⟨.through, [41], ⟨true, true, true⟩, none, false, false, []⟩

/-- Station 5, with the groups of R90's worked table. -/
def yardConfig : NodeConfig :=
  { NodeConfig.blank with
    station := 5, lineRate := 2, washLane := true, bypass := true, dayChange := 180, spareReady := 300, laneSettle := 10
    offerWindow := 3, takeWait := 3, transitTimeout := 8, chargerSettle := 5, staggerInterval := 2, turnTick := 1
    turnExponent := 5, rampInterval := 2, rampStep := 10, claimLead := 60, claimWindow := 3, releaseLead := 5, exitGap := 30
    releaseTimeout := 4, lateGrace := 10, shuntLead := 30, shuntTimeout := 5, shuntAttempts := 2, stageCount := 2
    advanceTimeout := 90, frostThreshold := 2, stages := [⟨20, 60, 10⟩, ⟨0, 60, 0⟩]
    groups := ⟨⟨600, 240, 400, 16, 12⟩, ⟨410, 0, 300, 14, 10⟩, ⟨800, 400, 500, 12, 16⟩⟩, lanes := [lane1, lane2, lane3, lane4] }

/-- A bus record; without a fleet, a placeholder. -/
def bus (id : Nat) (fleet : Option Nat) (place : Place) : Bus :=
  ⟨id, fleet, if fleet.isSome then .named else .occupied, .standard, place, false, none, none, none, none, false, id⟩

/-- A lane record, READY and quiet. -/
def lane (n : Nat) (c : LaneConfig) : Lane := ⟨n, c.kind, c, false, false, [], [], c.berths.map (fun _ => .quiet), none⟩

/-- A charger record on lane 1. -/
def charger (pos : Nat) (phase : ChargerPhase) : Charger :=
  ⟨10 + pos, 1, pos, chargerConf, chargerConf.home, phase, none, none, none, 0, 0, 0, none, 0, none, false⟩

/-- The yard in RUN at 05:00:00 with these records. Lane 1 holds 101 before 102, lane 2 holds 103, lane 4 a
placeholder. -/
def yardOf (more : List Bus) : State :=
  { State.reset with
    now := 1000
    node := ⟨.run, none, .released⟩
    clock := ⟨18000, true⟩
    cfg := yardConfig
    link := { Link.reset with receiver := .ready }
    lanes := [lane 1 lane1, lane 2 lane2, lane 3 lane3, lane 4 lane4]
    buses := ⟨[bus 1 (some 101) (.parked 1 2), bus 2 (some 102) (.parked 1 3), bus 3 (some 103) (.parked 2 1),
      bus 4 none (.parked 4 1)] ++ more, 20, 20⟩
    wash := { Wash.reset with stages := [⟨.empty, none⟩, ⟨.empty, none⟩] }
    charging := ⟨[charger 1 .idle, charger 2 .connected, charger 3 (.settling 1005)], [], some 1032⟩ }

/-- The yard with nothing more. -/
def yard : State := yardOf []

/-- The state that a command leaves. -/
def after (c : Instr) (s : State) : State := match exec c s with | .next t => t | .fault _ => s | .refused _ => s

/-- A run of the list. -/
def runRec (n : Nat) (demand : Demand) (state : RunState) : Run :=
  ⟨n, 310, 7, demand, 6000, state, false, none, none, false, none, none, false⟩

/-- A property that an option's value has holds of it. -/
theorem of_all {α : Type} {o : Option α} {p : α → Bool} (h : o.all p = true) : ∀ b, o = some b → p b = true := by
  rintro b rfl; simpa using h

/-- The yard with its bus table full, of these records and placeholders in the wash queue. -/
def fullOf (more : List Bus) : State :=
  let records := (yardOf more).buses.records
  { yardOf more with buses := ⟨records ++ List.replicate (64 - records.length) (bus 50 none .queued), 50, 51⟩ }

/-- An order of the yard to shunt 108 from lane 3, in this phase, with a target, this many attempts behind it. -/
def shuntTo (target : Nat) (phase : ShuntPhase) (attempts : Nat) : ShuntOrder :=
  ⟨108, 40, 3, 2, 32, target, 11, true, phase, attempts, 1000⟩

/-- The yard with shunt orders. -/
def withShunts (orders : List ShuntOrder) (s : State) : State := s.setDepartures { s.departures with shunts := orders }

/-- The yard with promises made in a lane. -/
def promising (n : Nat) (reservations : List Reservation) (holds : List OfferHold) (s : State) : State :=
  s.updateLane n (fun l => { l with reservations := reservations, holds := holds })

/-! ### Witnesses: the step -/

/-- A line that counts its idle, and one on which a frame is under way; at the last second of the day and at reset; a timer
that does not run, one that was restarted and one that runs out. -/
theorem witness_SecondsPassAndTimersExpire :
    (({ yard with clock := ⟨86399, true⟩ } : State).pending = [] ∧ ({ yard with clock := ⟨86399, true⟩ } : State).clock.time < 86400 ∧
      Claims.countsIdle { yard with clock := ⟨86399, true⟩ }) ∧
    (State.reset.pending = [] ∧ State.reset.clock.time < 86400 ∧ ¬ Claims.countsIdle State.reset) ∧
    (Claims.isExpiry .drawTimerExpiry = true ∧ ¬ Claims.timed yard (fun e => e ≤ yard.now) .drawTimerExpiry ∧
      ¬ Claims.timed yard (fun e => e ≤ yard.now) .turnBoundary ∧
      Claims.timed { yard with now := 1032 } (fun e => e = 1032) .turnBoundary) := by
  refine ⟨⟨rfl, by decide, by unfold Claims.countsIdle; decide⟩, ⟨rfl, by decide, by unfold Claims.countsIdle; decide⟩, rfl, ?_, ?_, ?_⟩
  · rintro ⟨e, h, _⟩; cases h
  · rintro ⟨e, h, k⟩; cases h; revert k; decide
  · exact ⟨1032, rfl, rfl⟩

/-! ### Witnesses: lane readers -/

theorem not_repeated {s : State} {l : Lane} {n f : Nat}
    (h : (s.entryMost l).all (fun p => (s.occupant n p).all (fun b => b.fleet != some f)) = true) :
    ¬ Claims.repeated s l n f := by
  rintro ⟨p, b, h1, h2, h3⟩
  have h4 := of_all h p h1
  have h5 := of_all h4 b h2
  simp [h3] at h5

/-- The fleet numbers at both ends of their range, a lane that is not there, and a node in LOADING. -/
theorem witness_ReadingsThatMoveNoBus :
    State.reset.active = false ∧ yard.laneOf 5 = none ∧ Claims.reads yard (lane 1 lane1) 1 1 ∧ (lane 1 lane1).kind = .deadEnd ∧
      Claims.reads yard (lane 2 lane2) 2 9999 ∧ (lane 2 lane2).kind = .through := by
  unfold Claims.reads; decide

/-- A DEAD_END lane with two occupants, one that is empty, a THROUGH lane with one at its front, and a full one. -/
theorem witness_ReadingsThatMoveNoBus_positions :
    (Claims.frontMost yard (lane 1 lane1) 2 ∧ (lane 1 lane1).kind = .deadEnd) ∧
      (∀ p, 1 ≤ p → p ≤ (lane 3 lane3).size → yard.occupant (lane 3 lane3).number p = none) ∧
      (Claims.frontMost yard (lane 2 lane2) 1 ∧ Claims.rearMost yard (lane 2 lane2) 1 ∧ (lane 2 lane2).kind = .through) ∧
      (Claims.rearMost yard (lane 4 lane4) 1 ∧ (lane 4 lane4).kind = .through ∧ (lane 4 lane4).size = 1) := by
  refine ⟨⟨⟨by decide, by decide, by decide, fun q h1 h2 => ?_⟩, rfl⟩, fun p h1 h2 => ?_,
    ⟨⟨by decide, by decide, by decide, fun q h1 h2 => ?_⟩, ⟨by decide, by decide, by decide, fun q h1 h2 => ?_⟩, rfl⟩,
    ⟨by decide, by decide, by decide, fun q h1 h2 => ?_⟩, rfl, rfl⟩
  · obtain rfl : q = 1 := by omega
    decide
  · have : p ≤ 2 := h2
    interval_cases p <;> decide
  · omega
  · have : q ≤ 3 := Nat.le_trans h2 (by decide)
    interval_cases q <;> decide
  · have : q ≤ 1 := h2
    omega

/-- A repeat of the entry-most bus; the full lane 4. -/
theorem witness_ReadingsThatMoveNoBus_entries :
    Claims.repeated yard (lane 1 lane1) 1 101 ∧ Claims.reads yard (lane 1 lane1) 1 101 ∧
      Claims.reads yard (lane 4 lane4) 4 900 ∧ ¬ Claims.repeated yard (lane 4 lane4) 4 900 ∧
      yard.entryRoom (lane 4 lane4) = 0 ∧ 0 < (lane 4 lane4).size := by
  refine ⟨⟨2, bus 1 (some 101) (.parked 1 2), by decide, by decide, by decide⟩, ?_, ?_, not_repeated (by decide), by decide, by decide⟩ <;>
    (unfold Claims.reads; decide)

/-- A bus in transit for lane 1 with its take watch running, its reservation there and without; one shunted to lane 3; strays
at the entry position of each kind of lane, with room in the bus table and with none. -/
theorem witness_ExpectedAndStrayEntries :
    let b := bus 7 (some 106) (.transit 1 900 false (some ⟨31, 255, 0, some 1003⟩))
    let r := promising 1 [⟨.transit, 106⟩] [] (yardOf [b])
    let x := bus 9 (some 108) .shuntingBetween
    let s := withShunts [shuntTo 3 .between 1] (yardOf [x])
    (Claims.reads (yardOf [b]) (lane 1 lane1) 1 106 ∧ ¬ Claims.repeated (yardOf [b]) (lane 1 lane1) 1 106 ∧
      (yardOf [b]).entryPos (lane 1 lane1) = some 1 ∧ (yardOf [b]).busOf 106 = some b) ∧
    (Claims.reads r { lane 1 lane1 with reservations := [⟨.transit, 106⟩] } 1 106 ∧
      ¬ Claims.repeated r { lane 1 lane1 with reservations := [⟨.transit, 106⟩] } 1 106 ∧
      r.entryPos { lane 1 lane1 with reservations := [⟨.transit, 106⟩] } = some 1 ∧ r.busOf 106 = some b) ∧
    (Claims.reads s (lane 3 lane3) 3 108 ∧ ¬ Claims.repeated s (lane 3 lane3) 3 108 ∧ s.entryPos (lane 3 lane3) = some 2 ∧
      s.busOf 108 = some x ∧ s.shuntOf 108 = some (shuntTo 3 .between 1)) ∧
    (Claims.reads yard (lane 1 lane1) 1 9999 ∧ yard.entryPos (lane 1 lane1) = some 1 ∧ yard.busOf 9999 = none ∧
      Claims.reads yard (lane 2 lane2) 2 1 ∧ yard.entryPos (lane 2 lane2) = some 2 ∧ yard.busOf 1 = none ∧
      Claims.reads (fullOf []) (lane 1 lane1) 1 9999 ∧ (fullOf []).busOf 9999 = none ∧ 64 ≤ (fullOf []).buses.records.length) := by
  refine ⟨⟨?_, not_repeated (by decide), by decide, by decide⟩, ⟨?_, not_repeated (by decide), by decide, by decide⟩,
    ⟨?_, not_repeated (by decide), by decide, by decide, by decide⟩, ?_⟩ <;> (unfold Claims.reads; decide)

/-- 101 at the leaving position of lane 1 and 102 behind it, read in at lane 3, with and without room for a placeholder; a
record in each place off the lanes. -/
theorem witness_BusesReadInElsewhereAreMoved :
    let b := bus 1 (some 101) (.parked 1 2)
    let c := bus 2 (some 102) (.parked 1 3)
    (Claims.reads yard (lane 3 lane3) 3 101 ∧ ¬ Claims.repeated yard (lane 3 lane3) 3 101 ∧
      yard.entryPos (lane 3 lane3) = some 2 ∧ yard.busOf 101 = some b ∧ b.berth? = some (1, 2) ∧
      yard.laneOf 1 = some (lane 1 lane1) ∧ yard.leavingPos (lane 1 lane1) = some 2) ∧
    (∀ s ∈ [yard, fullOf []], Claims.reads s (lane 3 lane3) 3 102 ∧ s.entryPos (lane 3 lane3) = some 2 ∧
      s.busOf 102 = some c ∧ c.berth? = some (1, 3) ∧ s.laneOf 1 = some (lane 1 lane1) ∧ s.leavingPos (lane 1 lane1) ≠ some 3) ∧
    yard.buses.records.length < 64 ∧ 64 ≤ (fullOf []).buses.records.length ∧
    (¬ Claims.repeated yard (lane 3 lane3) 3 102 ∧ ¬ Claims.repeated (fullOf []) (lane 3 lane3) 3 102) ∧
    (∀ p ∈ [Place.queued, .washing 1, .apron false none, .transit 1 900 false none, .shuntingBetween],
      let x := bus 9 (some 108) p
      Claims.reads (yardOf [x]) (lane 3 lane3) 3 108 ∧ (yardOf [x]).entryPos (lane 3 lane3) = some 2 ∧
        (yardOf [x]).busOf 108 = some x ∧ (yardOf [x]).shuntOf 108 = none) ∧
    Claims.offTheLanes (yardOf []) (bus 9 (some 108) .queued) 3 108 ∧
    Claims.offTheLanes (yardOf []) (bus 9 (some 108) (.washing 1)) 3 108 ∧
    Claims.offTheLanes (yardOf []) (bus 9 (some 108) (.apron false none)) 3 108 ∧
    Claims.offTheLanes (yardOf []) (bus 9 (some 108) (.transit 1 900 false none)) 3 108 ∧
    Claims.offTheLanes (yardOf []) (bus 9 (some 108) .shuntingBetween) 3 108 := by
  refine ⟨⟨?_, not_repeated (by decide), by decide⟩, ?_, by decide, by decide,
    ⟨not_repeated (by decide), not_repeated (by decide)⟩, ?_, .inl rfl, .inr (.inl ⟨_, rfl⟩), .inr (.inr (.inl ⟨_, _, rfl⟩)),
    .inr (.inr (.inr (.inl ⟨_, _, _, _, rfl, by decide⟩))), .inr (.inr (.inr (.inr ⟨rfl, fun o h => by cases h⟩)))⟩ <;>
    (unfold Claims.reads; decide)

/-- Lane 4 physically full: no promise, a transit behind a shunt, a hold, and a shunt alone. -/
theorem witness_RoomTestCancelsTheOldestPromise :
    let l := fun r h => ({ lane 4 lane4 with reservations := r, holds := h } : Lane)
    let s := fun r h => promising 4 r h yard
    yard.laneOf 4 = some (lane 4 lane4) ∧ (lane 4 lane4).reservations.length + (lane 4 lane4).holds.length ≤ yard.entryRoom (lane 4 lane4) ∧
    (∀ x ∈ [([⟨.shunt, 108⟩, ⟨.transit, 106⟩], []), ([⟨.shunt, 108⟩], [⟨31, 255⟩]), ([⟨.shunt, 108⟩], [])],
      (s x.1 x.2).laneOf 4 = some (l x.1 x.2) ∧ (s x.1 x.2).entryRoom (l x.1 x.2) < x.1.length + x.2.length) ∧
    (l [⟨.shunt, 108⟩, ⟨.transit, 106⟩] []).reservations.find? (fun r => r.kind == .transit) = some ⟨.transit, 106⟩ := by decide

/-- A parked bus and a shunting one at the leaving position; another fleet read out there, and an empty lane. -/
theorem witness_OutReadingsTakeTheBusOutOrMark :
    let b := bus 9 (some 108) (.shunting 3 2)
    (Claims.reads yard (lane 1 lane1) 1 101 ∧ yard.leavingPos (lane 1 lane1) = some 2 ∧
      yard.occupant 1 2 = some (bus 1 (some 101) (.parked 1 2))) ∧
    (Claims.reads (yardOf [b]) (lane 3 lane3) 3 108 ∧ (yardOf [b]).leavingPos (lane 3 lane3) = some 2 ∧
      (yardOf [b]).occupant 3 2 = some b ∧ b.place = .shunting 3 2) ∧
    (Claims.reads yard (lane 1 lane1) 1 102 ∧ ∀ b, yard.leavingBus (lane 1 lane1) = some b → b.fleet ≠ some 102) ∧
    (∀ b, yard.leavingBus (lane 3 lane3) = some b → b.fleet ≠ some 102) := by
  refine ⟨?_, ?_, ⟨?_, fun b h => ?_⟩, fun b h => ?_⟩
  · unfold Claims.reads; decide
  · unfold Claims.reads; decide
  · unfold Claims.reads; decide
  · simpa using of_all (p := fun b => decide (b.fleet ≠ some 102)) (by decide) b h
  · simpa using of_all (p := fun b => decide (b.fleet ≠ some 102)) (by decide) b h

/-- The yard with a release of 108 from lane 3 in progress for run 40. -/
def releasing (state : RunState) : State :=
  { yardOf [{ bus 9 (some 108) (.released 3 2) with run := some 40, pullOut := some 310, route := some 7, need := some 6000 }] with
    runs := ⟨[runRec 40 (.fleet 108) state], 40⟩
    departures := ⟨none, some ⟨40, 108, 3, 2, 1000, .fleet 108⟩, [], []⟩ }

theorem witness_OutReadingsTakeTheBusOutOrMark_released :
    let s := releasing .mine
    let b : Bus := { bus 9 (some 108) (.released 3 2) with run := some 40, pullOut := some 310, route := some 7, need := some 6000 }
    Claims.reads s (lane 3 lane3) 3 108 ∧ s.leavingPos (lane 3 lane3) = some 2 ∧ s.occupant 3 2 = some b ∧
      b.place = .released 3 2 ∧ s.departures.release = some ⟨40, 108, 3, 2, 1000, .fleet 108⟩ := by
  unfold Claims.reads; decide

/-! ### Witnesses: detectors, surveys, orders -/

/-- A change at the first and the last position of a lane, one to a level that stands, at no position, past the last, at a lane
that is not there, and in LOADING; a timer of each kind, at the first and the last position, just run out. A charger
that repeats a need for the bus at its berth, one without a session, and a position that holds no record. -/
theorem witness_DetectorsMoveTheSettleStates :
    let l : Lane := { lane 1 lane1 with settle := [.awaitEvent 1000, .quiet, .awaitDetector 1000] }
    let s : State := { yard with lanes := [l] }
    let c : Charger := { charger 2 .connected with session := some 500 }
    let t : State := { yard with charging := ⟨[charger 1 .idle, c, charger 3 .connected], [], none⟩ }
    let at_ := fun (pos : Nat) => t.charging.chargers.find? (fun c => c.lane == 1 && c.pos == pos)
    (yard.active = true ∧ yard.detector 1 1 ≠ true ∧ yard.detector 1 3 ≠ true ∧ yard.detector 1 3 = false) ∧
    (yard.detector 1 0 ≠ true ∧ yard.detector 1 4 ≠ true ∧ (∀ l ∈ yard.lanes, l.number = 1 → l.settle.length < 4) ∧
      yard.detector 9 1 ≠ true ∧ (∀ l ∈ yard.lanes, l.number ≠ 9) ∧ State.reset.active = false ∧ State.reset.detector 1 1 ≠ true) ∧
    (s.active = true ∧ s.laneOf 1 = some l ∧ l.settle[1 - 1]? = some (.awaitEvent 1000) ∧
      l.settle[3 - 1]? = some (.awaitDetector 1000) ∧ 1000 ≤ s.now) ∧
    (at_ 2 = some c ∧ t.occupant 1 2 = some (bus 1 (some 101) (.parked 1 2)) ∧ c.phase ≠ .idle ∧ c.session = some 500) ∧
    (t.occupant 1 1 = none ∧ at_ 3 = some (charger 3 .connected) ∧ (charger 3 .connected).session = none) := by decide

/-- A detector change at position 0 is taken into the levels and leaves the settle state of berth 1; one at berth 1, which has no
record, moves it (R18; log 6). -/
theorem test_detectorChangeAtNoBerth :
    (after (.berthDetectorChange 3 0 true) yard).lanes = yard.lanes ∧ (after (.berthDetectorChange 3 0 true) yard).detector 3 0 = true ∧
      ((after (.berthDetectorChange 3 1 true) yard).laneOf 3).map (·.settle) = some [.awaitEvent 1010, .quiet] := by decide

/-- All lanes, one, and one that is not there. A period that ends at lane 3: no order waits, an order that waits for this lane
alone, and one that waits for another too; two placeholders to come, with room for them and with none. -/
theorem witness_SurveysBeginAndEnd :
    let named := fun lane => (yard.lanes.map (·.number)).filter (fun n => lane == 0 || n == lane)
    let l : Lane := { lane 3 lane3 with survey := some 1000 }
    let s := fun (u : State) => ({ u with
      lanes := [lane 1 lane1, lane 2 lane2, l], inputs := { u.inputs with berths := [(3, 1), (3, 2)] } } : State)
    (Claims.ordered yard 0 1 ∧ named 0 = [1, 2, 3, 4] ∧ named 1 = [1] ∧ named 8 = []) ∧
    (∀ u ∈ [yard, fullOf []], (s u).active = true ∧ (s u).laneOf 3 = some l ∧ l.survey = some 1000 ∧ 1000 ≤ (s u).now ∧
      (s u).order = none ∧ ((s u).setOrder (some ⟨0, 1, .survey [3] []⟩)).order = some ⟨0, 1, .survey [3] []⟩) ∧
    (3 ∈ [3] ∧ ([3] : List Nat).filter (fun m => m != 3) = [] ∧ 3 ∈ [3, 4] ∧ ([3, 4] : List Nat).filter (fun m => m != 3) ≠ [] ∧
      3 ∉ [4]) ∧
    (s yard).buses.records.length + 2 ≤ 64 ∧ 64 < (s (fullOf [])).buses.records.length + 2 := by
  unfold Claims.ordered Claims.hearing; decide

/-- Argument lists of 29 bytes and of none, kinds 0 and 15, each argument below its range and above it; the subject 10 000 of an
ACK with alert code 1, and with alert code 0. -/
theorem witness_OrdersBusyOrInvalid :
    Claims.hearing (yard.setOrder (some ⟨0, 3, .restart false⟩)) ∧
    (yard.setOrder (some ⟨0, 3, .restart false⟩)).order = some ⟨0, 3, .restart false⟩ ∧
    Claims.ordered yard 0 0 ∧ Claims.ordered yard 31 255 ∧ (List.replicate 29 (0 : Byte)).length ≤ 29 ∧
    (∀ k ∈ Claims.orderKinds, (List.replicate 29 (0 : Byte)).length ≠ k.2) ∧ Claims.outside 1 14 0 ∧
    Claims.outside 1 14 15 ∧
    (Claims.outside 1 8 (Claims.argument [0] 0) ∧ Claims.outside 1 8 (Claims.argument [9] 0) ∧
      Claims.outside 1 9999 (Claims.argument2 [0, 0] 0) ∧ Claims.outside 1 9999 (Claims.argument2 [0x27, 0x10] 0) ∧
      ¬ Claims.outside 1 9999 (Claims.argument2 [0x27, 0x0F] 0) ∧ Claims.outside 0 8 (Claims.argument [9] 0) ∧
      Claims.outside 0 18 (Claims.argument [19, 0, 0] 0) ∧ Claims.outside 1 7 (Claims.argument [8, 0] 0) ∧
      (Claims.argument [1, 0x27, 0x10] 0 ≠ 0 ∧ Claims.outside 0 9999 (Claims.argument2 [1, 0x27, 0x10] 1)) ∧
      Claims.argument [0, 0x27, 0x10] 0 = 0) := by
  refine ⟨?_, by decide, ?_, ?_, by decide, ?_, .inl (by decide), .inr (by decide), ?_⟩
  · unfold Claims.hearing; decide
  · unfold Claims.ordered Claims.hearing; decide
  · unfold Claims.ordered Claims.hearing; decide
  · intro k hk; simp [Claims.orderKinds] at hk; rcases hk with rfl | rfl | rfl | rfl | rfl | rfl | rfl | rfl | rfl | rfl | rfl | rfl | rfl | rfl <;> decide
  · unfold Claims.outside Claims.argument2 Claims.argument; decide

/-- The ends of the range of lane numbers, configured and not. -/
theorem witness_LaneOpenAndClose :
    Claims.ordered yard 0 1 ∧ (yard.laneOf 1).isSome = true ∧ yard.laneOf 8 = none := by
  unfold Claims.ordered Claims.hearing; decide

/-- Lane 3 empty and permitted; lane 1 with neither; lane 8 not there. -/
theorem witness_LaneKindIsSet :
    Claims.ordered yard 0 1 ∧ yard.laneOf 8 = none ∧ yard.laneOf 3 = some (lane 3 lane3) ∧
      ((lane 3 lane3).conf.kindChange = true ∧ yard.occupiedPositions (lane 3 lane3) = [] ∧
        (lane 3 lane3).reservations = [] ∧ (lane 3 lane3).holds = []) ∧
      yard.laneOf 1 = some (lane 1 lane1) ∧ (lane 1 lane1).conf.kindChange = false := by
  unfold Claims.ordered Claims.hearing; decide

/-- A parked bus and no record; the bus in release, and one released with no release in progress. -/
theorem witness_HoldAndUnholdSetTheFlag :
    let b : Bus := { bus 9 (some 108) (.released 3 2) with run := some 40, pullOut := some 310, route := some 7, need := some 6000 }
    (Claims.ordered yard 0 1 ∧ yard.busOf 101 = some (bus 1 (some 101) (.parked 1 2)) ∧
      (bus 1 (some 101) (.parked 1 2)).isReleased = false ∧ yard.busOf 9999 = none ∧ yard.busOf 1 = none) ∧
    (Claims.ordered (releasing .mine) 31 255 ∧ (releasing .mine).busOf 108 = some b ∧ b.isReleased = true ∧
      (releasing .mine).departures.release = some ⟨40, 108, 3, 2, 1000, .fleet 108⟩) := by
  unfold Claims.ordered Claims.hearing; decide

/-- The placeholder of lane 4 named with a fleet that has no record, with one on the apron that is called for and one that is
not, with one in transit, and with a parked one; a named record; an empty position of lane 1. -/
theorem witness_IdentifyNamesThePlaceholder :
    let p := bus 4 none (.parked 4 1)
    (Claims.ordered yard 0 1 ∧ yard.laneOf 4 = some (lane 4 lane4) ∧ 1 ≤ (lane 4 lane4).size ∧ yard.busOf 9999 = none ∧
      yard.occupant 4 1 = some p ∧ p.fleet = none ∧ (yard.buses.records.map (·.id)).Nodup) ∧
    (∀ x ∈ [Place.apron false none, .transit 1 900 false none, .transit 1 900 true none],
      let o := bus 7 (some 106) x
      (yardOf [o]).busOf 106 = some o ∧ (o.isApron = true ∨ o.isTransit = true) ∧ (yardOf [o]).occupant 4 1 = some p ∧
        ((yardOf [o]).buses.records.map (·.id)).Nodup) ∧
    (∃ c count timer, (yard.setAlloc { yard.alloc with
        caller := .calling ⟨255, 106, .standard, none, none, false⟩ 1 1003 }).alloc.caller = .calling c count timer ∧ c.fleet = 106) ∧
    (yard.busOf 101 = some (bus 1 (some 101) (.parked 1 2)) ∧ (bus 1 (some 101) (.parked 1 2)).isApron = false ∧
      (bus 1 (some 101) (.parked 1 2)).isTransit = false) ∧
    (yard.laneOf 1 = some (lane 1 lane1) ∧ 3 ≤ (lane 1 lane1).size ∧
      yard.occupant 1 3 = some (bus 2 (some 102) (.parked 1 3)) ∧ yard.occupant 1 1 = none ∧ (lane 4 lane4).size < 2) := by
  refine ⟨?_, by decide, ⟨_, _, _, rfl, rfl⟩, by decide, by decide⟩
  unfold Claims.ordered Claims.hearing; decide

/-- Lane 1 holds no placeholder and is QUIET; lane 4 holds one; lane 3 is empty, with a berth in MISMATCH. -/
theorem witness_IdentifyNamesThePlaceholder_mark :
    let l : Lane := { lane 3 lane3 with settle := [.mismatch, .quiet] }
    let s : State := { yard with lanes := [lane 1 lane1, l, lane 4 lane4] }
    (s.lanes.map (·.number)).Nodup ∧
    (s.laneOf 1 = some (lane 1 lane1) ∧ (∀ b ∈ s.buses.records, (b.berth?).map (·.1) = some 1 → b.fleet ≠ none) ∧
      ∀ st ∈ (lane 1 lane1).settle, st = .quiet) ∧
    (s.laneOf 4 = some (lane 4 lane4) ∧ bus 4 none (.parked 4 1) ∈ s.buses.records ∧
      (bus 4 none (.parked 4 1)).berth? = some (4, 1) ∧ (bus 4 none (.parked 4 1)).fleet = none) ∧
    (s.laneOf 3 = some l ∧ .mismatch ∈ l.settle) := by decide

/-! ### Witnesses: wash lane -/

/-- Queued, called for, in stage 1 and in stage 2. -/
def bus104 : Bus := bus 5 (some 104) .queued
def washed1 : Bus := bus 6 (some 105) (.washing 1)
def washed2 : Bus := bus 7 (some 106) (.washing 2)

/-- The yard with these records and this wash lane. -/
def washing (bs : List Bus) (mode : WashMode) (stages : List Stage) (called : Option Nat) (frost : Bool) : State :=
  { yardOf bs with wash := ⟨mode, stages, called, called.map (fun _ => 1000), frost, if frost then some 1000 else none, false, []⟩ }

/-- The ends of the fleet numbers and the two beyond them; a node in LOADING. -/
theorem witness_NewBusFindsItsPlaceAtTheEntry :
    State.reset.active = false ∧ 9999 < 10000 ∧ yard.active = true ∧ (yard.busOf 101).isSome = true ∧ yard.busOf 1 = none ∧ yard.busOf 9999 = none ∧
      yard.cfg.washLane = true ∧ yard.cfg.bypass = true ∧
      (yard.setCfg NodeConfig.blank).cfg.washLane = false ∧ (yard.setCfg NodeConfig.blank).cfg.bypass = false := by decide

/-- The fleets on either side of the class bands 200 and 300; the records renumbered when the counter stands at 65 535 (R29,
R32). -/
theorem test_newRecords :
    let s : State := (yardOf []).setCfg { yardConfig with firstStandard := 200, firstArtic := 300 }
    let read := fun (fleet : Nat) => ((after (.entryReaderReading fleet) s).busOf fleet).map (·.cls)
    let full : State := s.setBuses ⟨[{ bus 1 (some 101) (.parked 1 2) with seq := 700 }, { bus 2 (some 102) (.parked 1 3) with seq := 65535 }], 65535, 3⟩
    (read 199 = some .midi ∧ read 200 = some .standard ∧ read 299 = some .standard ∧ read 300 = some .artic) ∧
    (after (.entryReaderReading 250) full).buses.records.map (·.seq) = [1, 2, 3] := by decide

/-- Every confirmation, in time, late out of FAULT, and in STOPPED; a FAULT stage that goes clear without a record; changes
without an effect, one of a level that stands, one at a stage beyond the last and at a node that is not active. -/
theorem witness_StageDetectorConfirmsTheMove :
    let s := washing [bus104] .normal [⟨.empty, none⟩, ⟨.empty, none⟩] (some 104) false
    let t := fun mode st => washing [washed1] mode [⟨st, none⟩, ⟨.empty, none⟩] none false
    let u := fun mode st => (washing [washed2] mode [⟨.empty, none⟩, ⟨st, none⟩] none false).setStageDetector 2 true
    let f := (washing [] .stopped [⟨.fault, none⟩, ⟨.empty, none⟩] none false).setStageDetector 1 true
    (Claims.stageShows s 1 true ∧ s.stageBus 1 = none ∧ s.wash.called = some 104 ∧ s.busOf 104 = some bus104) ∧
    (∀ m ∈ [WashMode.normal, .frostHold, .stopped], ∀ st ∈ [StageState.leaving, .fault],
      Claims.stageShows (t m st) 2 true ∧ (t m st).stageBus 2 = none ∧
        ((t m st).stageState (2 - 1) = .leaving ∨ (t m st).stageState (2 - 1) = .fault) ∧
        (t m st).stageBus (2 - 1) = some washed1 ∧
      Claims.stageShows (u m st) (u m st).cfg.stageCount false ∧ (u m st).stageBus (u m st).cfg.stageCount = some washed2 ∧
        ((u m st).stageState (u m st).cfg.stageCount = .leaving ∨ (u m st).stageState (u m st).cfg.stageCount = .fault)) ∧
    washed2.fleet = some 106 ∧
    (Claims.stageShows f 1 false ∧ f.stageBus 1 = none ∧ f.stageState 1 = .fault) ∧
    (Claims.stageShows (t .normal .dwell) 1 true ∧ (t .normal .dwell).stageBus 1 ≠ none ∧
      Claims.stageShows (u .normal .dwell) 2 false ∧ (u .normal .dwell).stageState 2 = .dwell) ∧
    (yard.stageDetector 1 = false ∧ yard.stageDetector 3 ≠ true ∧ yard.cfg.stageCount < 3 ∧ State.reset.active = false) := by
  unfold Claims.stageShows; decide

/-- The first stage and the last; a stage behind one in FAULT without a record; a node without a wash lane. -/
theorem witness_WashTimersAndStops_stops :
    (Claims.stageShows yard 1 true ∧ yard.stageBus 1 = none ∧ yard.wash.called = none) ∧
    (Claims.stageShows yard 2 true ∧ yard.stageBus 2 = none ∧ yard.stageState (2 - 1) ≠ .leaving ∧
      yard.stageState (2 - 1) ≠ .fault) ∧
    (let f := washing [] .normal [⟨.fault, none⟩, ⟨.empty, none⟩] none false
     Claims.stageShows f 2 true ∧ f.stageBus 2 = none ∧ f.stageBus (2 - 1) = none) ∧
    (yard.active = true ∧ yard.cfg.washLane = true ∧ State.reset.active = false) := by
  unfold Claims.stageShows; decide

theorem witness_WashTimersAndStops :
    let s := washing [bus104, washed2] .normal [⟨.spinup, some 1000⟩, ⟨.leaving, some 1000⟩] (some 104) false
    let t := washing [] .normal [⟨.dwell, some 1000⟩, ⟨.runon, some 1000⟩] none false
    s.active = true ∧ 1000 ≤ s.now ∧ s.wash.stages[1 - 1]? = some ⟨.spinup, some 1000⟩ ∧ s.wash.stages[2 - 1]? = some ⟨.leaving, some 1000⟩ ∧
      s.stageBus 2 = some washed2 ∧ washed2.fleet = some 106 ∧ s.wash.called = some 104 ∧ s.wash.callTimer = some 1000 ∧
      t.active = true ∧ t.wash.stages[1 - 1]? = some ⟨.dwell, some 1000⟩ ∧
      t.wash.stages[2 - 1]? = some ⟨.runon, some 1000⟩ := by decide

/-- A node in LOADING, and one without the wash lane; temperatures on either side of the threshold and of the threshold plus two;
the flag set and clear. -/
theorem witness_FrostFlagFollowsTheTemperature :
    State.reset.active = false ∧ (yard.setCfg NodeConfig.blank).cfg.washLane = false ∧
    let s := washing [] .normal [⟨.empty, none⟩, ⟨.empty, none⟩] none true
    (yard.active = true ∧ yard.cfg.washLane = true ∧ yard.wash.frost = false) ∧
    (s.active = true ∧ s.cfg.washLane = true ∧ s.wash.frost = true ∧ s.wash.clearing = some 1000) ∧
    (1 : Int) < s.cfg.frostThreshold ∧ s.cfg.frostThreshold ≤ 2 ∧ (3 : Int) < s.cfg.frostThreshold + 2 ∧
      s.cfg.frostThreshold + 2 ≤ 4 := by decide

/-- A queued bus with room, the same one called for, a parked one, an apron that is full, and no record. -/
theorem witness_WashSkipAndResume_skip :
    let s := washing [bus104] .normal [⟨.empty, none⟩, ⟨.empty, none⟩] (some 104) false
    Claims.ordered (yardOf [bus104]) 0 1 ∧ (yardOf [bus104]).busOf 104 = some bus104 ∧ bus104.place = .queued ∧
      (yardOf [bus104]).wash.called ≠ some 104 ∧ (yardOf [bus104]).wash.apron.length < 4 ∧
      Claims.ordered s 0 1 ∧ s.wash.called = some 104 ∧ (bus 1 (some 101) (.parked 1 2)).place ≠ .queued ∧
      (yardOf [bus104]).busOf 9999 = none := by
  unfold Claims.ordered Claims.hearing; decide

/-- No wash lane; running; blocked by the stop input and by a FAULT stage; free to resume with each kind of stage. -/
theorem witness_WashSkipAndResume :
    let s := washing [washed2] .stopped [⟨.spinup, none⟩, ⟨.leaving, none⟩] (some 104) false
    let f := washing [] .stopped [⟨.fault, none⟩, ⟨.empty, none⟩] none false
    (Claims.ordered (yard.setCfg NodeConfig.blank) 1 1 ∧ (yard.setCfg NodeConfig.blank).cfg.washLane = false) ∧
    (Claims.ordered yard 0 1 ∧ yard.cfg.washLane = true ∧ yard.wash.mode ≠ .stopped) ∧
    (Claims.ordered f 0 1 ∧ f.cfg.washLane = true ∧ f.wash.mode = .stopped ∧ ∃ st ∈ f.wash.stages, st.state = .fault) ∧
    (Claims.ordered s 0 1 ∧ s.cfg.washLane = true ∧ s.wash.mode = .stopped ∧
      ¬ (s.inputs.stop = true ∨ ∃ st ∈ s.wash.stages, st.state = .fault)) := by
  unfold Claims.ordered Claims.hearing; decide

/-- Stage 2 of 2 waiting to go on with room on the apron; a queue of two in FROST_HOLD; a head to be called; a lane that is
STOPPED. -/
theorem witness_WashTestsServeTheLane :
    let s := washing [] .normal [⟨.empty, none⟩, ⟨.doneWait, none⟩] none false
    let f := washing [bus104, bus 8 (some 109) .queued] .frostHold [⟨.empty, none⟩, ⟨.empty, none⟩] none true
    let q := washing [bus104] .normal [⟨.empty, none⟩, ⟨.empty, none⟩] none false
    (s.active = true ∧ s.cfg.washLane = true ∧ s.wash.mode ≠ .stopped ∧ s.stageState 2 = .doneWait ∧ Claims.onward s 2 ∧
      s.stageCount = 2 ∧ ¬ Claims.onward s 1 ∧ f.stageState 1 ≠ .doneWait) ∧
    (f.wash.mode = .frostHold ∧ f.wash.apron.length + (if f.wash.promised then 1 else 0) < 4 ∧
      f.washQueue = [bus104, bus 8 (some 109) .queued]) ∧
    (q.wash.mode = .normal ∧ (q.stageState 1 = .empty ∨ q.stageState 1 = .runon) ∧ q.stageDetector 1 = false ∧
      q.wash.called = none ∧ q.washQueue = [bus104] ∧ yard.washQueue = []) ∧
    (washing [] .stopped [⟨.empty, none⟩, ⟨.empty, none⟩] none false).wash.mode = .stopped := by
  unfold Claims.onward; decide

/-- A call standing, stage 1 in its run-on and stage 2 left: green and running out of STOPPED, red and still in it (R51). -/
theorem test_washOutputs :
    let lane := fun mode => washing [bus104] mode [⟨.runon, none⟩, ⟨.leaving, none⟩] (some 104) false
    let shows := fun (s : State) => [s.entrySignal, s.stageSignal 1, s.stageSignal 2, s.equipmentRuns 1, s.equipmentRuns 2]
    Claims.outputsOn (lane .normal) ∧ shows (lane .normal) = [true, false, true, true, true] ∧
      shows (lane .stopped) = [false, false, false, false, false] := by
  unfold Claims.outputsOn; decide

/-! ### Witnesses: berth allocation -/

def call105 : Call := ⟨255, 105, .standard, some 255, some 1439, true⟩

/-- The yard with 105 on the apron and this caller. -/
def calling (retry : Option Nat) (caller : Caller) : State :=
  { yardOf [bus 6 (some 105) (.apron retry.isSome retry)] with alloc := ⟨255, caller, [], [], none⟩ }

/-- The call of a bus on the apron, the sequence counter at 255, is offered for at home at a table of 64 records: sequence 0, a hold
on the best lane, the empty lane 3 at cost 500, PARK_CALL and then OFFER (R68, R71, R73). -/
theorem test_ownCallIsOffered :
    let s := (calling none .idle).setWash { yard.wash with apron := [105] }
    let full := { s with buses := { s.buses with records := s.buses.records ++ List.replicate 59 (bus 50 none .queued) } }
    let cars := full.updateBus 6 (fun b => { b with pullOut := some 1439, need := some 0 })
    let t := { cars with cfg := { yardConfig with lanes := [] }, lanes := [lane 3 { lane3 with charged := true }] }
    let u := t.callTest
    t.buses.records.length = 64 ∧ u.alloc.seq = 0 ∧ (u.laneOf 3).map (·.holds) = some [⟨5, 0⟩] ∧
      u.alloc.offers.map (fun o => (o.caller, o.lane, o.cost, o.window)) = [(5, 3, 500, 1003)] ∧
      u.link.other.map (·.notice) = [.parkCall ⟨0, 105, .standard, none, some 1439, false⟩, .offer 5 0 500] := by decide

/-- A bus eligible before its retry and one whose retry has run out; the caller at its second call and its third, timed out; a
retry run out; a take wait run out after a peer's TAKE, which has deleted the record; a call timed out whose bus has left the
apron. -/
theorem witness_CallsAreStartedAndRenewed :
    let idle := fun retry => (calling retry .idle).setWash { (calling retry .idle).wash with apron := [105] }
    let marked := (idle none).updateBus 6 (fun b => { b with place := .apron true none })
    (∀ s ∈ [idle none, marked], s.inRun = true ∧ s.alloc.caller = .idle ∧ s.wash.apron = [] ++ 105 :: [] ∧
      ∃ b, s.busOf 105 = some b ∧ ∃ u retry, b.place = .apron u retry ∧ (u = false ∨ retry = none)) ∧
    (State.reset.inRun = false ∧ yard.wash.apron = []) ∧
    (∀ n ∈ [2, 3], (calling none (.calling call105 n 1000)).busOf call105.fleet = some (bus 6 (some 105) (.apron false none)) ∧
      (calling none (.calling call105 n 1000)).alloc.caller = .calling call105 n 1000 ∧
      1000 ≤ (calling none (.calling call105 n 1000)).now) ∧
    ((calling (some 1000) .idle).busOf call105.fleet = some (bus 6 (some 105) (.apron true (some 1000))) ∧
      (let t : State := { yard with alloc := ⟨255, .taken call105 2 ⟨1, 1, 0⟩ 1000, [], [], none⟩ }
       t.alloc.caller = .taken call105 2 ⟨1, 1, 0⟩ 1000 ∧ t.busOf call105.fleet = none ∧ 1000 ≤ t.now)) ∧
    (let won := bus 6 (some 105) (.transit 2 990 false none)
     ∀ n ∈ [2, 3], let t : State := { yardOf [won] with alloc := ⟨255, .calling call105 n 1000, [], [], none⟩ }
      t.alloc.caller = .calling call105 n 1000 ∧ t.busOf call105.fleet = some won ∧ won.isApron = false ∧ 1000 ≤ t.now) := by
  refine ⟨fun s h => ?_, by decide, by decide, by decide, by decide⟩
  simp only [List.mem_cons, List.not_mem_nil, or_false] at h
  rcases h with rfl | rfl
  · exact ⟨by decide, by decide, by decide, bus 6 (some 105) (.apron false none), by decide, _, _, rfl, .inl rfl⟩
  · exact ⟨by decide, by decide, by decide, bus 6 (some 105) (.apron true none), by decide, _, _, rfl, .inr rfl⟩

/-- Fleets and sequences at the ends of their ranges; a fleet known here; a full table; no lane that fits; a lane. -/
theorem witness_ParkCallIsOfferedTheBestLane :
    let c : Call := { call105 with fleet := 9999 }
    let full : State := { yard with buses := ⟨List.replicate 64 (bus 1 none .queued), 0, 0⟩ }
    let bare : State := { yard with lanes := [] }
    (Claims.heardFrom yard 31 ∧ yard.inRun = true ∧ c.seq ≤ 255 ∧ yard.busOf c.fleet = none ∧
      yard.buses.records.length < 64 ∧
      ((yard.frameEnded.dropOffer 31).bestLane ((yard.frameEnded.dropOffer 31).callNeed 31 c) none).isSome = true) ∧
    (yard.busOf 101).isSome = true ∧
    (Claims.heardFrom full 0 ∧ full.inRun = true ∧ 64 ≤ full.buses.records.length) ∧
    (Claims.heardFrom bare 0 ∧ bare.inRun = true ∧ bare.busOf c.fleet = none ∧ bare.buses.records.length < 64 ∧
      (bare.frameEnded.dropOffer 0).bestLane ((bare.frameEnded.dropOffer 0).callNeed 0 c) none = none) := by
  unfold Claims.heardFrom Claims.hearing; decide

/-- A lane chosen, an empty lane, and a neighbour; a run list in order. -/
theorem witness_BestLaneIsTheCheapestFit :
    let n := yard.callNeed 1 call105
    (yard.bestLane n none).isSome = true ∧ yard.occupiedPositions (lane 3 lane3) = [] ∧
      yard.entryMost (lane 1 lane1) = some 2 ∧ yard.occupant (lane 1 lane1).number 2 = some (bus 1 (some 101) (.parked 1 2)) ∧
      ([runRec 7 (.fleet 105) .pending, runRec 9 (.fleet 105) .mine].map (·.run)).Pairwise (· < ·) := by
  decide

/-- The yard with an offer open to this station. -/
def offering (caller : Nat) (more : List Bus) (withdrawn : Bool) (best : Option (Nat × Nat)) : State :=
  { yardOf more with alloc := ⟨0, .idle, [⟨caller, call105, 3, 500, withdrawn, best, 1000⟩], [], none⟩ }

/-- A second offer record dropped, another caller's before it; no record of the caller. -/
theorem witness_ParkCallIsOfferedTheBestLane_dropped :
    let o : OfferRecord := ⟨7, call105, 3, 500, false, none, 1000⟩
    (∃ p r, (offering 1 [] false none).alloc.offers = [] ++ p :: r ∧ p.caller = 1) ∧
    (∃ p, ((offering 1 [] false none).setAlloc { (offering 1 [] false none).alloc with
        offers := (offering 1 [] false none).alloc.offers ++ [o] }).alloc.offers = [p] ++ o :: [] ∧ p.caller ≠ 7) ∧
    (∀ x ∈ (offering 1 [] false none).alloc.offers, x.caller ≠ 7) := by
  exact ⟨⟨_, _, rfl, rfl⟩, ⟨_, rfl, by decide⟩, by decide⟩

/-- The bounds of a better offer: equal cost from station 4 is better than station 5's own, from station 6 is not. A peer's call
and this node's own, each with no record of the fleet here and with one on the apron. -/
theorem witness_OfferWindowJudgesTheCall :
    let o := fun k w best => (⟨k, call105, 3, 500, w, best, 1000⟩ : OfferRecord)
    let lost := fun (s : State) (o : OfferRecord) => o.withdrawn = true ∨
      ∃ cost station, o.best = some (cost, station) ∧ (cost < o.cost ∨ cost = o.cost ∧ station < s.cfg.station)
    let full := { offering 1 [] false none with buses := (fullOf []).buses }
    ((offering 1 [] true none).offerOf 1 = some (o 1 true none) ∧ lost (offering 1 [] true none) (o 1 true none)) ∧
    ((offering 1 [] false (some (500, 4))).offerOf 1 = some (o 1 false (some (500, 4))) ∧
      lost (offering 1 [] false (some (500, 4))) (o 1 false (some (500, 4)))) ∧
    ((offering 1 [] false (some (500, 6))).offerOf 1 = some (o 1 false (some (500, 6))) ∧
      ¬ lost (offering 1 [] false (some (500, 6))) (o 1 false (some (500, 6))) ∧ 1 ≠ (offering 1 [] false (some (500, 6))).cfg.station ∧
      (offering 1 [] false (some (500, 6))).busOf 105 = none ∧ (offering 1 [] false (some (500, 6))).buses.records.length < 64 ∧
      1000 ≤ (offering 1 [] false (some (500, 6))).now) ∧
    (full.offerOf 1 = some (o 1 false none) ∧ ¬ lost full (o 1 false none) ∧ full.busOf 105 = none ∧
      64 ≤ full.buses.records.length) ∧
    (let s := offering 1 [bus 6 (some 105) .queued] false none
     s.offerOf 1 = some (o 1 false none) ∧ ¬ lost s (o 1 false none) ∧ s.busOf 105 = some (bus 6 (some 105) .queued) ∧
      (bus 6 (some 105) .queued).isApron = false) ∧
    (let s := offering 5 [bus 6 (some 105) (.apron false none)] false none
     s.offerOf 5 = some (o 5 false none) ∧ ¬ lost s (o 5 false none) ∧ 5 = s.cfg.station ∧
      s.busOf 105 = some (bus 6 (some 105) (.apron false none)) ∧ (bus 6 (some 105) (.apron false none)).isApron = true) ∧
    (let s := offering 5 [] false none
     s.offerOf 5 = some (o 5 false none) ∧ ¬ lost s (o 5 false none) ∧ 5 = s.cfg.station ∧ s.busOf 105 = none ∧
      s.buses.records.length < 64) ∧
    (let s := offering 1 [bus 6 (some 105) (.apron false none)] false none
     s.offerOf 1 = some (o 1 false none) ∧ ¬ lost s (o 1 false none) ∧ 1 ≠ s.cfg.station ∧
      s.busOf 105 = some (bus 6 (some 105) (.apron false none))) := by
  have none_lost : ∀ (s : State) (k : Nat), ¬ (false = true ∨ ∃ cost station, (none : Option (Nat × Nat)) = some (cost, station) ∧
      (cost < 500 ∨ cost = 500 ∧ station < s.cfg.station)) := by
    rintro s k (h | ⟨c, t, h, _⟩) <;> cases h
  refine ⟨⟨by decide, Or.inl rfl⟩, ⟨by decide, Or.inr ⟨500, 4, rfl, Or.inr ⟨rfl, by decide⟩⟩⟩,
    ⟨by decide, ?_, by decide, by decide, by decide, by decide⟩, ⟨by decide, none_lost _ 1, by decide, by decide⟩,
    ⟨by decide, none_lost _ 1, by decide, by decide⟩, ⟨by decide, none_lost _ 5, by decide, by decide, by decide⟩,
    ⟨by decide, none_lost _ 5, by decide, by decide, by decide⟩, ⟨by decide, none_lost _ 1, by decide, by decide⟩⟩
  rintro (h | ⟨c, t, h, h2⟩)
  · cases h
  · simp only [Option.some.injEq, Prod.mk.injEq] at h
    obtain ⟨rfl, rfl⟩ := h
    revert h2; decide

/-- This node's own call 255 won at 500 after a worse TAKE of station 1 had deleted the called record: a TRANSIT record for lane
3, TAKE queued, the take and the display this node's own (R76, R78). -/
theorem test_ownCallWonWithoutItsRecord :
    let s := offering 5 [] false none
    let t := s.setAlloc { s.alloc with caller := .taken call105 1 ⟨1, 2, 900⟩ 1002, display := some ⟨105, 1, 2⟩ }
    let u := after (.offerWindowExpiry 5) t
    (u.busOf 105).map (·.place) = some (.transit 3 1000 false (some ⟨5, 255, 500, some 1006⟩)) ∧
      u.alloc.caller = .taken call105 1 ⟨5, 3, 500⟩ 1002 ∧ u.alloc.display = some ⟨105, 5, 3⟩ ∧
      u.link.urgent.map (·.notice) = [.take 5 255 3 500] := by decide

/-- A peer's call at the ends of the ranges; this node's own current call, its bus on the apron and elsewhere; a take after the
first. -/
theorem witness_OffersAndTakesAreCollected :
    let s := calling none (.calling call105 1 1010)
    let t := calling none (.taken call105 1 ⟨6, 1, 500⟩ 1003)
    (Claims.heardFrom yard 0 ∧ Claims.heardFrom yard 31 ∧ yard.inRun = true ∧ 31 ≠ yard.cfg.station) ∧
    (Claims.heardFrom s 31 ∧ s.inRun = true ∧ 5 = s.cfg.station ∧
      (Claims.yielded 31 5 255 4094 (Claims.collected 31 5 255 4094 s.frameEnded)).alloc.caller = .calling call105 1 1010 ∧
      call105.seq = 255 ∧
      (Claims.yielded 31 5 255 4094 (Claims.collected 31 5 255 4094 s.frameEnded)).busOf call105.fleet =
        some (bus 6 (some 105) (.apron false none)) ∧ (bus 6 (some 105) (.apron false none)).isApron = true) ∧
    (Claims.heardFrom t 4 ∧ t.inRun = true ∧
      ∀ c count timer, (Claims.yielded 4 5 255 500 (Claims.collected 4 5 255 500 t.frameEnded)).alloc.caller = .calling c count timer →
        c.seq ≠ 255) := by
  refine ⟨?_, ?_, ?_, by decide, ?_⟩
  · unfold Claims.heardFrom Claims.hearing; decide
  · unfold Claims.heardFrom Claims.hearing; decide
  · unfold Claims.heardFrom Claims.hearing; decide
  · intro c n e h
    have k : (Claims.yielded 4 5 255 500 (Claims.collected 4 5 255 500
      (calling none (.taken call105 1 ⟨6, 1, 500⟩ 1003)).frameEnded)).alloc.caller = .taken call105 1 ⟨6, 1, 500⟩ 1003 := by decide
    rw [k] at h; cases h

/-- A transit with its take watch and its timeout just run out, a called bus on the apron and one not called for, a parked
one; the record of that transit deleted, one bound to a run, and one RELEASED that is in no release. -/
theorem witness_TransitEndsByTimeoutOrFound :
    let b := bus 7 (some 9999) (.transit 1 520 false (some ⟨1, 0, 0, some 1000⟩))
    let s := calling none (.calling call105 1 1010)
    (Claims.heardFrom (yardOf [b]) 31 ∧ (yardOf [b]).busOf 9999 = some b ∧ b.isTransit = true ∧ 1000 ≤ (yardOf [b]).now ∧
      (yardOf [b]).active = true ∧ 520 + (yardOf [b]).cfg.transitTimeout * 60 ≤ (yardOf [b]).now) ∧
    (Claims.heardFrom s 0 ∧ s.busOf 105 = some (bus 6 (some 105) (.apron false none)) ∧
      (bus 6 (some 105) (.apron false none)).isApron = true ∧ s.alloc.caller = .calling call105 1 1010 ∧ call105.fleet = 105) ∧
    (Claims.heardFrom (calling none .idle) 0 ∧ (calling none .idle).busOf 105 = some (bus 6 (some 105) (.apron false none)) ∧
      (calling none .idle).alloc.caller = .idle) ∧
    (Claims.heardFrom yard 0 ∧ yard.busOf 101 = some (bus 1 (some 101) (.parked 1 2)) ∧
      (bus 1 (some 101) (.parked 1 2)).isTransit = false ∧ (bus 1 (some 101) (.parked 1 2)).isApron = false) ∧
    (let d : Bus := { bus 2 (some 102) (.released 1 3) with run := some 40 }
     let find := fun (s : State) (x : Bus) => s.buses.records.find? (fun y => y.id == x.id)
     find (yardOf [b]) b = some b ∧ b.fleet = some 9999 ∧ b.isReleased = false ∧ b.run = none ∧
      find { yard with buses := ⟨[d], 20, 20⟩ } d = some d ∧ d.fleet = some 102 ∧ d.isReleased = true ∧
      yard.departures.release = none ∧ d.run = some 40) := by
  unfold Claims.heardFrom Claims.hearing; decide

/-! ### Witnesses: chargers and feeders -/

/-- The yard with its first charger in this phase, of this session, ramping. -/
def charging (phase : ChargerPhase) (session : Option Nat) : State :=
  { yard with charging := ⟨[{ charger 1 phase with session := session, target := 80, planned := 80, present := 30, ramp := some 1000 }], [11], some 1032⟩ }

theorem witness_ChargersFollowTheirLinksAndTimers :
    let need := fun (s : State) (c : Charger) => match s.occupant c.lane c.pos with | some b => b.need | none => c.session
    (State.reset.active = false ∧ yard.chargerOf 1 = none) ∧
    (yard.active = true ∧ yard.chargerOf 11 = some (charger 1 .idle) ∧ (charger 1 .idle).phase = .idle ∧
      yard.chargerOf 12 = some (charger 2 .connected) ∧ (charger 2 .connected).phase ≠ .idle ∧
      (charger 2 .connected).phase ≠ .fault ∧ ((charging .fault none).chargerOf 11).isSome = true) ∧
    (∀ p ∈ [(ChargerPhase.idle, none), (.connected, some 0), (.connected, some 1), (.connected, some 2),
        (.settling 1000, some 2), (.fault, some 2)],
      (charging p.1 p.2).active = true ∧ (charging p.1 p.2).chargerOf 11 = (charging p.1 p.2).charging.chargers[0]? ∧
        1000 ≤ (charging p.1 p.2).now ∧
        ((charging p.1 p.2).charging.chargers[0]?).any (fun c => c.phase == p.1 && need (charging p.1 p.2) c == p.2 &&
          c.ramp == some 1000) = true) := by decide

theorem witness_TurnBoundaryAndPlanHold :
    let s : State := { yard with charging := { yard.charging with boundary := some 1000 } }
    let t : State := { yard with feeders := { yard.feeders with planHold := some 1000 } }
    (s.inRun = true ∧ s.charging.boundary = some 1000 ∧ 1000 ≤ s.now) ∧
    (t.inRun = true ∧ t.feeders.planHold = some 1000 ∧ 1000 ≤ t.now) := by decide

/-- A claimant for the allotment: Pmin 15, this rate, this ceiling, in group A. -/
def claimant (rate top : Nat) : Claimant := ⟨charger 1 .connected, .a, top, ⟨36000, rate, 0⟩, 0⟩

/-- Of a grant of 100 the first takes its rate of 80 and the second 20 of its 30, or none of it where its Pmin is above what
is left. -/
theorem witness_AllotmentKeepsGrantsAndCeilings :
    (∀ c ∈ [claimant 80 80, claimant 30 80, claimant 0 40], c.figures.rate ≤ c.top) ∧
    [claimant 80 80, claimant 30 80][1]? = some (claimant 30 80) ∧
    Claims.spent [claimant 80 80, claimant 30 80] (fun _ => 80) 1 .a = 80 ∧
    Claims.atLeast 15 (min 30 (100 - 80)) = 20 ∧ Claims.atLeast 21 (min 30 (100 - 80)) = 0 := by decide

theorem witness_EffectiveCapFollowsStateAndHeat :
    (∀ g, (groupGet yard.cfg.groups g).cap ≤ 4000 ∧ (groupGet yard.cfg.groups g).shedCap ≤ 4000 ∧
      (groupGet yard.cfg.groups g).duty ≤ 16 ∧ (groupGet yard.cfg.groups g).hotDuty ≤ 16) := by
  intro g; cases g <;> decide

/-- A group within its grant; one of 30 and 80 kW over a grant of 20, its allocation order the two, cut down from the last. -/
theorem witness_GrantsFallAndCutTheTargets :
    let drawing := fun (c : Charger) (kw : Nat) => { c with target := kw, planned := kw, present := kw }
    let chargers := [drawing (charger 1 .connected) 30, drawing (charger 2 .connected) 80]
    let s : State := { yard with
      charging := ⟨chargers, [11, 12], some 1032⟩
      feeders := { yard.feeders with groups := ⟨⟨.told .opened, false, 20, none⟩, ⟨.unknown, false, 0, none⟩, .reset⟩ } }
    (∀ g, yard.committed g ≤ min (yard.grant g) (yard.available g)) ∧ yard.committed .a ≤ yard.grant .a ∧
    (s.grant .a < s.committed .a ∧ (s.charging.chargers.map (·.berth)).Nodup ∧ s.charging.order.Nodup ∧
      (∀ c ∈ s.charging.chargers, s.drawingGroup c = .a → 0 < c.target → c.berth ∈ s.charging.order)) ∧
    (0 < s.committed .a - s.grant .a ∧ s.chargerOf 12 = some (drawing (charger 2 .connected) 80) ∧
      s.drawingGroup (drawing (charger 2 .connected) 80) = .a ∧ s.drawingGroup (drawing (charger 2 .connected) 80) ≠ .b ∧
      s.chargerOf 99 = none) := by
  refine ⟨fun g => by cases g <;> decide, by decide, by decide, by decide⟩

/-- The yard's node as the feeder monitor, with group A told once. -/
def monitoring : State :=
  { yard with
    cfg := { yardConfig with monitor := true }
    feeders := { yard.feeders with groups := ⟨⟨.told .opened, false, 0, some 1000⟩, .reset, .reset⟩ } }

theorem witness_FeederStatesAreTakenAndTold :
    Claims.heardFrom yard 31 ∧ groupGet yard.inputs.groups .a ≠ ⟨.opened, true⟩ ∧ yard.cfg.monitor = false ∧
      (monitoring.setNode ⟨.loading, none, .released⟩).active = false ∧ groupGet monitoring.inputs.groups .b = ⟨.shed, false⟩ ∧
      monitoring.cfg.monitor = true ∧ monitoring.listenOrRun = true ∧
      (groupGet monitoring.feeders.groups .a).refresh = some 1000 ∧
      groupGet monitoring.inputs.groups .a ≠ ⟨.opened, false⟩ ∧
      (monitoring.setNode ⟨.mute, none, .released⟩).node.state = .mute := by
  unfold Claims.heardFrom Claims.hearing; decide

/-- The ends of the ranges of a description and of the figures. -/
theorem witness_StationTableFollowsThePeers_heard :
    let d : Description := ⟨8, 48, 48, true, true⟩
    Claims.heardFrom yard 31 ∧ 1 ≤ d.lanes ∧ d.lanes ≤ 8 ∧ 1 ≤ d.berths ∧ d.berths ≤ 48 ∧ d.chargers ≤ 48 ∧
      (∀ g, groupGet (⟨0, 4000, 4000⟩ : PerGroup Nat) g ≤ 4000) := by
  refine ⟨?_, by decide, by decide, by decide, by decide, by decide, fun g => by cases g <;> decide⟩
  unfold Claims.heardFrom Claims.hearing; decide

/-- The yard that has heard station 31 (fresh) and station 1 (stale). -/
def heardPeers : State :=
  { yard with feeders := { yard.feeders with
      stations := [⟨1, ⟨400, 0, 0⟩, none, ⟨0, 0, 0⟩, ⟨0, 0, 0⟩, some 900, none⟩,
        ⟨31, ⟨400, 0, 0⟩, none, ⟨0, 0, 0⟩, ⟨0, 0, 0⟩, some 990, some 1000⟩]
      drawTimer := some 1000 } }

theorem witness_StationTableFollowsThePeers :
    heardPeers.active = true ∧ (heardPeers.entryOf 31).any (fun x => x.fresh == some 1000) = true ∧
      Claims.ordered heardPeers 0 1 ∧ heardPeers.entryOf 2 = none ∧
      (heardPeers.entryOf 1).any (fun x => x.fresh == none) = true ∧ heardPeers.listenOrRun = true ∧
      heardPeers.feeders.drawTimer = some 1000 := by
  unfold Claims.ordered Claims.hearing; decide

/-- The yard with an open offer and its hold in lane 3, a transit whose take is watched, a claim in progress, a RESTART whose answer
waits, and the congestion latch set. -/
def clashing : State :=
  let s := promising 3 [⟨.transit, 106⟩] [⟨1, 255⟩] (yardOf [bus 6 (some 106) (.transit 3 990 false (some ⟨1, 254, 400, some 1010⟩))])
  { s with
    alloc := ⟨3, .calling call105 1 1010, [⟨1, call105, 3, 500, false, none, 1003⟩], [⟨105, ⟨1, 253, 1, some 1001⟩⟩], some ⟨105, 1, 2⟩⟩
    runs := ⟨[{ runRec 7 (.ofClass .standard) .claiming with claim := some ⟨101, 500⟩, window := some 1003, refresh := some 1060 }], 0⟩
    order := some ⟨0, 1, .restart false⟩
    link := { s.link with urgent := [⟨.late 1, 0, false⟩], other := [⟨.answer 0 1 .done 0 [], 0, true⟩], latch := true } }

/-- A node with everything to give up, and a bare one in MUTE. -/
theorem witness_StationClashMutesTheNode :
    (Claims.hearing clashing ∧ clashing.cfg.station ≤ 31 ∧ clashing.listenOrRun = true ∧ (clashing.alloc.offers.map (·.caller)).Nodup) ∧
      (Claims.hearing (yard.setNode ⟨.mute, none, .released⟩) ∧ (yard.setNode ⟨.mute, none, .released⟩).node.state = .mute) ∧
      (∀ g, groupGet (⟨0, 4000, 4000⟩ : PerGroup Nat) g ≤ 4000) := by
  refine ⟨?_, ?_, fun g => by cases g <;> decide⟩ <;> (unfold Claims.hearing; decide)

/-- The entry to MUTE (R85, R151, R188, R191, R209, R212): the hold goes and the reservation stays, the watch ends, the claim falls
back to PENDING, the alert is stored, and the queue holds its ALERT alone, the RESTART dropped. -/
theorem test_clashMutes :
    let u := after (.draw 5 0 0 0 0 0 0) clashing
    (u.laneOf 3).map (fun l => (l.reservations, l.holds)) = some ([⟨.transit, 106⟩], []) ∧
      (u.busOf 106).map (·.place) = some (.transit 3 990 false (some ⟨1, 254, 400, none⟩)) ∧
      u.runs.runs.map (fun r => (r.state, r.claim, r.window, r.refresh)) = [(.pending, none, none, none)] ∧
      u.alerts.entries = [⟨.stationClash, 5, some 18000, false⟩] ∧ u.order = none ∧
      u.link = ⟨[], [⟨.alert .stationClash 5 (some 18000), 0, false⟩], none, false, .waitIdle, 0⟩ := by decide

/-! ### Witnesses: runs and departures -/

/-- The yard with this run list. -/
def listing (runs : List Run) : State := { yard with runs := ⟨runs, 0⟩ }

/-- The ends of the ranges of a RUN's fields. -/
theorem witness_RunIsTakenIntoTheRunList :
    Claims.hearing yard ∧ yard.cfg.station ≠ 0 ∧ (1 ≤ 999 ∧ 1439 ≤ 1439 ∧ 255 ≤ 255 ∧ 6000 ≤ 6000) ∧ okDemand (.fleet 1) = true ∧
      okDemand (.fleet 9999) = true ∧ okDemand (.ofClass .artic) = true := by
  unfold Claims.hearing; decide

/-- A run that may be cancelled, one in release, one that may not, and none. -/
theorem witness_ClockCancelAndClear :
    (Claims.heardFromOffice yard ∧ yard.runOf 999 = none) ∧
    (Claims.heardFromOffice (listing [runRec 1 (.fleet 101) .departed]) ∧
      (listing [runRec 1 (.fleet 101) .departed]).runOf 1 = some (runRec 1 (.fleet 101) .departed)) ∧
    (Claims.heardFromOffice (listing [runRec 1 (.fleet 101) .mine]) ∧
      (listing [runRec 1 (.fleet 101) .mine]).runOf 1 = some (runRec 1 (.fleet 101) .mine) ∧
      (listing [runRec 1 (.fleet 101) .mine]).departures.release = none) ∧
    (Claims.heardFromOffice (releasing .mine) ∧ (releasing .mine).runOf 40 = some (runRec 40 (.fleet 108) .mine) ∧
      ∃ rel, (releasing .mine).departures.release = some rel ∧ rel.run = 40) := by
  refine ⟨?_, ?_, ?_, ?_, by decide, ⟨_, rfl, rfl⟩⟩ <;> (unfold Claims.heardFromOffice Claims.hearing; decide)

/-- A wildcard run in this state, claimed for spare 102 at cost 500. -/
def wild (state : RunState) (best : Option HeardClaim) : Run :=
  { runRec 7 (.ofClass .standard) state with claim := some ⟨102, 500⟩, best := best, window := some 1000, refresh := some 1000 }

/-- The bounds of a better bid: cost 500 from station 4 yields, from station 6 does not; a MINE run without an own claim. -/
theorem witness_ClaimsHeardActByTheRunsState_bids :
    (∀ st ∈ [RunState.pending, .claiming, .claimedElsewhere, .mine, .late, .departed, .lapsed, .cancelled],
      (listing [wild st none]).runOf 7 = some (wild st none) ∧ (wild st none).isWildcard = true) ∧
    Claims.heardFrom yard 4 ∧ Claims.heardFrom yard 6 ∧ 4 < yard.cfg.station ∧ ¬ 6 < yard.cfg.station ∧
      Claims.releasedFor 7 (listing [wild .mine none]) = false ∧ (wild .mine none).claim = some ⟨102, 500⟩ ∧
      (let r := runRec 7 (.ofClass .standard) .mine
       (listing [r]).runOf 7 = some r ∧ r.isWildcard = true ∧ r.state = .mine ∧ r.claim = none) := by
  unfold Claims.heardFrom Claims.hearing; decide

theorem witness_ClaimsHeardActByTheRunsState :
    Claims.heardFrom (listing []) 31 ∧ (∀ r, (listing []).runOf 7 = some r → r.isWildcard = false) ∧
    (∀ st ∈ [RunState.claimedElsewhere, .claiming, .mine],
      (listing [wild st (some ⟨31, 9999, 4094⟩)]).runOf 7 = some (wild st (some ⟨31, 9999, 4094⟩)) ∧
        (wild st (some ⟨31, 9999, 4094⟩)).best = some ⟨31, 9999, 4094⟩) ∧
    (∀ b, (wild .claiming (some ⟨31, 9999, 4094⟩)).best = some b → b.station ≠ 1) := by
  refine ⟨?_, fun r h => ?_, by decide, fun b h => ?_⟩
  · unfold Claims.heardFrom Claims.hearing; decide
  · simpa using of_all (p := fun r => !r.isWildcard) (by decide) r h
  · simpa using of_all (p := fun b => decide (b.station ≠ 1)) (by decide) b h

/-- Won against station 6 at equal cost, lost against station 4. A wildcard run inside its claim period, before it, and at the
second at which it enters it; a CLOCK that puts it before it. -/
theorem witness_ClaimTimersDecideAndRenew :
    (∀ h, (wild .claiming (some ⟨6, 900, 500⟩)).best = some h → 500 < h.cost ∨ (500 = h.cost ∧ yard.cfg.station < h.station)) ∧
    ¬ (∀ h, (wild .claiming (some ⟨4, 900, 500⟩)).best = some h → 500 < h.cost ∨ (500 = h.cost ∧ yard.cfg.station < h.station)) ∧
    (∀ x ∈ [6, 4], (listing [wild .claiming (some ⟨x, 900, 500⟩)]).runOf 7 = some (wild .claiming (some ⟨x, 900, 500⟩))) ∧
    (wild .claiming none).window = some 1000 ∧ (wild .claiming none).refresh = some 1000 ∧
    (listing []).busOf 102 = some (bus 2 (some 102) (.parked 1 3)) ∧
    (let r := runRec 7 (.ofClass .standard) .pending
     let at_ := fun (second : Nat) =>
      ({ listing [r] with cfg := { yardConfig with wildcard := true }, clock := ⟨second, true⟩ } : State)
     r.isWildcard = true ∧ (at_ 18000).inRun = true ∧ (at_ 18000).runOf 7 = some r ∧ (at_ 18000).inClaimPeriod r = true ∧
      (at_ 14000).inClaimPeriod r = false ∧ (at_ 14000).clock ≠ (at_ 18000).clock ∧ (at_ 15000).inClaimPeriod r = true ∧
      timeToGo (at_ 15000).clock.time (r.pullOut * 60) = ((at_ 15000).cfg.claimLead * 60 : Nat)) := by
  refine ⟨fun h e => ?_, fun k => ?_, by decide, by decide, by decide, by decide, by decide⟩
  · have := of_all (p := fun h => decide (500 < h.cost ∨ (500 = h.cost ∧ yard.cfg.station < h.station))) (by decide) h e
    simpa using this
  · exact absurd (k _ rfl) (by decide)

/-- The yard at 05:00 with run 7, a wildcard due out at 05:10 for a class of which 102 is a spare, in this state. -/
def seeking (state : RunState) (claim : Option OwnClaim) (best : Option HeardClaim) : State :=
  { yard with
    cfg := { yardConfig with wildcard := true }
    runs := ⟨[{ runRec 7 (.ofClass .standard) state with claim := claim, best := best }], 0⟩ }

/-- Spares of lanes 1 and 2 on offer, the best 101 at cost 0; against a claim heard at that cost from station 6 it is the
better, from station 4 it is not. A claim whose spare stands, and one whose spare is gone. A run newly called, and one that
is not. -/
theorem witness_ClaimsAreMadeAndWithdrawn :
    let r := fun st c h => ({ runRec 7 (.ofClass .standard) st with claim := c, best := h } : Run)
    (∀ x ∈ [(RunState.pending, none), (.claimedElsewhere, some (⟨6, 900, 0⟩ : HeardClaim)), (.claimedElsewhere, some ⟨4, 900, 0⟩)],
      let s := seeking x.1 none x.2
      s.runOf 7 = some (r x.1 none x.2) ∧ s.inRun = true ∧ s.inClaimPeriod (r x.1 none x.2) = true ∧
        s.bestSpare (r x.1 none x.2) = some (0, 101)) ∧
    ((0 : Nat) < 0 ∨ 0 = 0 ∧ yardConfig.station < 6) ∧ ¬ ((0 : Nat) < 0 ∨ 0 = 0 ∧ yardConfig.station < 4) ∧
    (∀ c ∈ [(⟨102, 500⟩ : OwnClaim), ⟨900, 500⟩], (seeking .claiming (some c) none).runOf 7 = some (r .claiming (some c) none)) ∧
    ((bus 2 (some 102) (.parked 1 3)) ∈ (seeking .claiming none none).buses.records ∧
      Claims.spare (bus 2 (some 102) (.parked 1 3)) .standard ∧ (seeking .claiming none none).busOf 900 = none) ∧
    (Claims.waiting (seeking .pending none none) (r .pending none none) ∧
      ¬ Claims.waiting (seeking .lapsed none none) (r .lapsed none none)) := by
  refine ⟨by decide, by decide, by decide, by decide, ⟨by decide, ⟨⟨1, 3, rfl⟩, by decide⟩, by decide⟩, ?_, ?_⟩
  · unfold Claims.waiting; decide
  · unfold Claims.waiting; decide

/-- The yard with runs 20 and 30 for 101, and 101 bound to none, to the lowest, or to another run in this state. -/
def bindable (held : Option Nat) (other : RunState) : State :=
  { yardOf [] with
    buses := ⟨[{ bus 1 (some 101) (.parked 1 2) with run := held }], 20, 20⟩
    runs := ⟨[runRec 20 (.fleet 101) .pending, runRec 30 (.fleet 101) .pending, { runRec 40 (.ofClass .standard) other with ownMark := true }], 0⟩ }

theorem witness_BindingTestsBindTheLowestRun :
    let b := fun held => ({ bus 1 (some 101) (.parked 1 2) with run := held } : Bus)
    (∀ x ∈ [(none, RunState.mine), (some 20, .mine), (some 40, .mine), (some 40, .cancelled), (some 40, .late)],
      let s := bindable x.1 x.2
      (s.buses.records.map (·.id)).Nodup ∧ (s.runs.runs.map (·.run)).Pairwise (· < ·) ∧ b x.1 ∈ s.buses.records ∧
        (b x.1).fleet = some 101 ∧ (b x.1).isReleased = false ∧
        s.runOf 40 = some { runRec 40 (.ofClass .standard) x.2 with ownMark := true }) ∧
    (∀ held st, Claims.choosable (bindable held st) 101 (runRec 20 (.fleet 101) .pending) ∧
      ∀ q, Claims.choosable (bindable held st) 101 q → 20 ≤ q.run) ∧
    (∀ b ∈ yard.buses.records, b.fleet = none → (yard.buses.records.map (·.id)).Nodup) := by
  refine ⟨by decide, fun held st => ⟨⟨by simp [bindable], rfl, .inl rfl, ?_⟩, ?_⟩, by decide⟩
  · intro x hx hr
    simp only [bindable, List.mem_singleton] at hx
    subst hx; cases hr
  · intro q hq
    have := hq.1
    simp only [bindable, List.mem_cons, List.not_mem_nil, or_false] at this
    rcases this with rfl | rfl | rfl <;> first | decide | exact (by decide : 20 ≤ 40)

/-- The bus at the mouth of lane 1, bound to run 40, due out at 05:05 with the clock at 05:00 (the lead is 5 min). -/
def dueBus : Bus := { bus 1 (some 101) (.parked 1 2) with run := some 40, pullOut := some 305, route := some 7 }
def dueRun (state : RunState) : Run := { runRec 40 (.fleet 101) state with pullOut := 305, ownMark := state == .late }
def dueOut (state : RunState) : State :=
  { yard with buses := ⟨[dueBus], 20, 20⟩, runs := ⟨[dueRun state], 40⟩, departures := ⟨some 17970, none, [], []⟩ }

/-- Front 20 moves to 30 above the mark. A run at the instant its grace has passed. The front run's bus held at the first second
of the release lead. -/
theorem witness_LapsesAndLatenessMoveTheFront :
    (let before := listing [runRec 20 (.fleet 101) .pending, runRec 30 (.fleet 102) .pending]
     let s := listing [runRec 20 (.fleet 101) .lapsed, runRec 30 (.fleet 102) .pending]
     s.front = some 30 ∧ before.front ≠ some 30 ∧ before.runs.runs ≠ [] ∧ s.runs.frontMark < 30 ∧
      (s.runs.runs.map (·.run)).Pairwise (· < ·) ∧ yard.front = none) ∧
    (let r := { runRec 20 (.fleet 900) .pending with pullOut := 290 }
     (listing [r]).runOf 20 = some r ∧ (listing [r]).clock.isSet = true ∧
      timeToGo (listing [r]).clock.time (r.pullOut * 60) = -(((listing [r]).cfg.lateGrace * 60 : Nat) : Int)) ∧
    (let b : Bus := { dueBus with hold := true }
     let s : State := { dueOut .mine with buses := ⟨[b], 20, 20⟩ }
     s.runs.runs.find? (fun r => s.lateDue r) = some (dueRun .mine) ∧ s.boundTo 40 = some b ∧
      ∀ r ∈ yard.runs.runs, yard.lateDue r = false) := by
  refine ⟨by decide, by decide, by decide⟩

/-- The front run in its turn and a late run, each at the first second of the lead and of the exit gap. -/
theorem witness_ReleaseBeginsUnderItsConditions :
    (∀ x ∈ (dueOut .departed).runs.runs, (dueOut .departed).releasable x = false) ∧
    (Claims.mayLeave (dueOut .mine) (dueRun .mine) dueBus 1 2 ∧
      (dueOut .mine).runs.runs.find? (fun x => (dueOut .mine).releasable x) = some (dueRun .mine) ∧ dueBus.fleet = some 101) ∧
    Claims.mayLeave (dueOut .late) (dueRun .late) dueBus 1 2 := by
  refine ⟨by decide, ⟨⟨by decide, by decide, Or.inl (by decide), by decide, fun x h => ?_, by decide, by decide, by decide, ⟨lane 1 lane1, by decide⟩, rfl, rfl⟩, by decide, by decide⟩,
    ⟨by decide, by decide, Or.inr (by decide), by decide, fun x h => ?_, by decide, by decide, by decide, ⟨lane 1 lane1, by decide⟩, rfl, rfl⟩⟩ <;>
  · have := of_all (p := fun x => decide ((dueOut .mine).cfg.exitGap ≤ secondsBetween (dueOut .mine).clock.time x)) (by decide) x h
    exact of_decide_eq_true this

/-- A release of a MINE run and of a LATE one, the demand as it was and changed meanwhile. -/
theorem witness_ReleasesEndWithoutADeparture :
    let b : Bus := { bus 9 (some 108) (.released 3 2) with run := some 40, pullOut := some 310, route := some 7, need := some 6000 }
    ∀ st ∈ [RunState.mine, .late], ∀ d ∈ [Demand.fleet 108, .fleet 900],
      let s : State := { releasing st with runs := ⟨[runRec 40 d st], 40⟩ }
      s.departures.release = some ⟨40, 108, 3, 2, 1000, .fleet 108⟩ ∧ s.busOf 108 = some b ∧ b.place = .released 3 2 ∧
        b.run = some 40 ∧ s.runOf 40 = some (runRec 40 d st) ∧ (s.runs.runs.map (·.run)).Nodup ∧
        (s.buses.records.map (·.id)).Nodup ∧ (s.buses.records.filterMap (·.fleet)).Nodup := by decide

/-- 101 or a placeholder at the mouth of lane 1, in the way of 102, whose run is due out at the first second of the lead. -/
def blocked (x : Bus) : State :=
  { yardOf [] with
    cfg := { yardConfig with impliedShunt := true }
    buses := ⟨[x, { bus 2 (some 102) (.parked 1 3) with run := some 40, pullOut := some 330, route := some 7 }], 20, 20⟩
    runs := ⟨[{ runRec 40 (.fleet 102) .mine with pullOut := 330 }, { runRec 41 (.fleet 101) .mine with pullOut := 331 }], 40⟩ }

/-- 101, bound to run 41, due out a minute later. -/
def blocker : Bus := { bus 1 (some 101) (.parked 1 2) with run := some 41, pullOut := some 331, route := some 7 }

/-- A named blocker that lane 3 takes, one that no lane takes, and a placeholder; a run with nothing to shunt. -/
theorem witness_ShuntTestsOrderTheBlocker :
    let b : Bus := { bus 2 (some 102) (.parked 1 3) with run := some 40, pullOut := some 330, route := some 7 }
    let r : Run := { runRec 40 (.fleet 102) .mine with pullOut := 330 }
    let alone : State := { blocked blocker with lanes := [lane 1 lane1] }
    (∀ x ∈ [blocker, bus 1 none (.parked 1 2)],
      ((blocked x).buses.records.map (·.id)).Nodup ∧ (blocked x).runOf 40 = some r ∧
        Claims.shuntWanted (blocked x) r b x (lane 1 lane1) 1 3 2) ∧
    (blocked blocker).shuntTarget blocker 1 = some (2, 21) ∧
    (Claims.shuntWanted alone r b blocker (lane 1 lane1) 1 3 2 ∧
      alone.shuntTarget blocker 1 = none ∧ (alone.lanes.map (·.number)).Nodup) ∧
    (yard.runOf 999 = none ∧ (yard.buses.records.map (·.id)).Nodup ∧ (yard.lanes.map (·.number)).Nodup ∧
      (listing [runRec 1 (.fleet 101) .pending]).runOf 1 = some (runRec 1 (.fleet 101) .pending)) ∧
    (∀ b x l n p k, ¬ Claims.shuntWanted (listing [runRec 1 (.fleet 101) .pending]) (runRec 1 (.fleet 101) .pending) b x l n p k) := by
  refine ⟨?_, by decide, ⟨?_, by decide⟩, by decide, ?_⟩
  · intro x hx
    simp only [List.mem_cons, List.not_mem_nil, or_false] at hx
    rcases hx with rfl | rfl <;> (refine ⟨by decide, by decide, ?_⟩; unfold Claims.shuntWanted; decide)
  · unfold Claims.shuntWanted; decide
  · rintro b x l n p k h; exact absurd h.1 (by decide)

/-- 101, of the front run, waits at the mouth for the exit gap, and 102 behind it is due out first: the shunt ordered of 101 makes
its run LATE at that moment (R166, R171). -/
theorem test_shuntOrderMakesTheFrontLate :
    let s : State := { blocked dueBus with
      buses := ⟨[dueBus, { bus 2 (some 102) (.parked 1 3) with run := some 41, pullOut := some 304, route := some 7 }], 20, 20⟩
      runs := ⟨[dueRun .mine, { runRec 41 (.fleet 102) .mine with pullOut := 304 }], 40⟩
      departures := ⟨some 17990, none, [], []⟩ }
    let t := after (.releaseLeadReached 40) s
    s.front = some 40 ∧ s.lateDue (dueRun .mine) = false ∧ t.departures.shunts.map (·.fleet) = [101] ∧
      (t.runOf 40).map (fun r => (r.state, r.ownMark)) = some (.late, true) := by decide

/-- Two orders, the later on the display; none, and a blank display (R176). -/
theorem witness_ShuntTestsOrderTheBlocker_display :
    (withShunts [shuntTo 1 .atFrom 1, ⟨101, 41, 1, 2, 12, 2, 21, true, .atFrom, 1, 1000⟩] yard).departures.shunts =
        [shuntTo 1 .atFrom 1] ++ [⟨101, 41, 1, 2, 12, 2, 21, true, .atFrom, 1, 1000⟩] ∧
      yard.departures.shunts = [] ∧ yard.shuntDisplay = none := by decide

/-- A shunt order of 101 towards lane 3, in this phase, with this many attempts behind it. -/
def shunt (phase : ShuntPhase) (attempts : Nat) : ShuntOrder := ⟨101, 40, 1, 2, 12, 3, 32, true, phase, attempts, 1000⟩
def shunting (phase : ShuntPhase) (attempts : Nat) : State :=
  { yardOf [] with
    buses := ⟨[bus 1 (some 101) (match phase with | .atFrom => .shunting 1 2 | .between => .shuntingBetween)], 20, 20⟩
    departures := ⟨none, none, [shunt phase attempts], []⟩ }

/-- Each phase below the attempt limit of 2 and at it; a release whose run is MINE, and one whose run is LATE. -/
theorem witness_DepartureTimersAndInstants :
    (∀ st ∈ [RunState.mine, .late],
      (releasing st).active = true ∧ (releasing st).departures.release = some ⟨40, 108, 3, 2, 1000, .fleet 108⟩ ∧
        ((releasing st).busOf 108).any (fun b => b.place == .released 3 2) = true ∧
        (releasing st).runOf 40 = some (runRec 40 (.fleet 108) st)) ∧
    (∀ p ∈ [(ShuntPhase.between, 1), (.between, 2), (.atFrom, 2), (.atFrom, 1)],
      (shunting p.1 p.2).active = true ∧ (shunting p.1 p.2).shuntOf 101 = some (shunt p.1 p.2) ∧
        ((shunting p.1 p.2).busOf 101).isSome = true) ∧
    (shunt .between 1).attempts < yard.cfg.shuntAttempts ∧ yard.cfg.shuntAttempts ≤ (shunt .between 2).attempts := by
  decide

/-- Each state of a run, and no run; the ends of the range of the second. -/
theorem witness_DepartAndLateHeard :
    Claims.heardFrom yard 0 ∧ yard.runOf 999 = none ∧
    (∀ st ∈ [RunState.pending, .claiming, .claimedElsewhere, .mine, .late, .departed, .lapsed, .cancelled],
      Claims.heardFrom (listing [wild st none]) 31 ∧ (listing [wild st none]).runOf 7 = some (wild st none)) ∧
    (releasing .mine).departures.release.any (fun rel => rel.run == 40) = true := by
  unfold Claims.heardFrom Claims.hearing; decide

/-! ### Witnesses: link, alerts, starts -/

/-- LATE for run 104 from station 4, as bytes, and one with its last byte changed. -/
def lateBytes (last : Byte) : List Byte := [0x04, 0x0E, 0x02, 0x00, 0x68, 0x91, last]

/-- LOADING and a held reset line; a receiver that waits; one that is ready; a frame under way. -/
theorem witness_ReceiverTakesTheLine :
    let reads := fun (s : State) => s.node.resetLine = .released ∧ (s.active = true ∨ s.node.state = .configFault)
    (¬ reads State.reset ∧ ¬ reads (yard.setNode { yard.node with resetLine := .held 1001 true })) ∧
    (reads yard ∧ reads (yard.setNode ⟨.configFault, none, .released⟩)) ∧
    (¬ Claims.hearing (yard.setLink { yard.link with receiver := .waitIdle }) ∧
      ¬ Claims.hearing (yard.setNode ⟨.configFault, none, .released⟩) ∧ Claims.hearing yard) ∧
    (readFrame 5 (lateBytes 0xF0) = none ∧ readFrame 5 (lateBytes 0xF1) = some (.late 4 104) ∧ readFrame 4 (lateBytes 0xF1) = none) ∧
    (Claims.countsIdle (yard.setLink { yard.link with receiver := .waitIdle }) ∧
      ¬ Claims.countsIdle (yard.setLink { yard.link with receiver := .receiving })) ∧
    (Claims.isFrame (.clock 0 0) = true ∧ Claims.isFrame (.frameRejected []) = true ∧ Claims.isFrame .frameSent = false) := by
  unfold Claims.hearing Claims.countsIdle; decide

/-- Each notice at the ends of its ranges, and a ROLL of the receiver's own number. -/
theorem witness_NoticesAreReadAsTheyWereSent :
    (∀ c : Call, c = ⟨255, 9999, .artic, some 255, some 1439, true⟩ ∨ c = ⟨0, 1, .midi, none, none, false⟩ →
      Claims.inRange (.parkCall c)) ∧
    Claims.inRange (.offer 31 255 4094) ∧ Claims.inRange (.take 1 0 8 0) ∧ Claims.inRange (.found 9999 1) ∧
    Claims.inRange (.claim 999 1 4095) ∧ Claims.inRange (.depart 1 9999 86399) ∧ Claims.inRange (.late 999) ∧
    Claims.inRange (.roll true ⟨8, 48, 48, true, true⟩ ⟨4000, 0, 4000⟩) ∧ Claims.inRange (.draw ⟨0, 4000, 0⟩ ⟨4000, 0, 4000⟩) ∧
    Claims.inRange (.feeder .c .shed true) ∧ Claims.inRange (.answer 31 255 .notFound 0 (List.replicate 28 255)) ∧
    Claims.inRange (.alert .stray 9999 (some 86399)) ∧ Claims.inRange (.alert .doubleDeparture 0 none) ∧
    ((5 : Nat) ≠ 5 ∨ (Notice.roll true ⟨8, 48, 48, true, true⟩ ⟨4000, 0, 4000⟩).isRoll = true ∨ False) := by
  refine ⟨?_, by simp [Claims.inRange], by simp [Claims.inRange], by simp [Claims.inRange], by simp [Claims.inRange],
    by simp [Claims.inRange], by simp [Claims.inRange], ⟨by decide, by decide, by decide, by decide, by decide, fun g => ?_⟩,
    fun g => ?_, trivial, by simp [Claims.inRange], ⟨by decide, ?_⟩, ⟨by decide, ?_⟩, by decide⟩
  · rintro c (rfl | rfl) <;> exact ⟨by decide, by decide, by decide, by simp, by simp⟩
  · cases g <;> decide
  · cases g <;> decide
  · simp
  · simp

/-- The demands of R183; an ORDER of 29 argument bytes for station 31 and for its reader; a frame of each ground of R184: a
bad check, station 32, kinds 0 and 18, a RUN_CANCEL of station 1, a LATE of the reader's own, and of Length and Fields at the ends
of their values. -/
theorem witness_NoticesAreReadAsTheyWereSent_bytes :
    (∀ f, Demand.fleet 9999 = .fleet f → 1 ≤ f ∧ f ≤ 9999) ∧ (∀ f, Demand.ofClass .artic = .fleet f → 1 ≤ f ∧ f ≤ 9999) ∧
    ((List.replicate 29 (255 : Byte)).length ≤ 29 ∧ (0 : Nat) ≠ 31) ∧
    readFrame 5 (Claims.frame 0 0x05 (be16 999 ++ be16 1439 ++ [byte 255] ++ Claims.demandBytes (.ofClass .artic) ++ be16 6000)) =
      some (.run 0 999 1439 255 (.ofClass .artic) 6000) ∧
    Claims.allOnes (Claims.pairSum [4, 0x0E, 2, 0, 0x68] + 0x91F1) ∧ ¬ Claims.allOnes (Claims.pairSum [4, 0x0E, 2, 0, 0x68] + 0x91F2) ∧
    (31 : Nat) < 32 ∧ (17 : Nat) < 18 ∧ (4 ≤ 6 ∧ 6 ≤ 7 ∧ (1 : Nat) ≠ 0) ∧ ((4 : Nat) = 4 ∧ 14 ≠ 1 ∧ 14 ≠ 2) := by
  refine ⟨fun f h => by cases h; decide, fun f h => (by cases h), by decide, by decide +kernel, by decide, by decide, by decide⟩

/-- LATE of run 1 and 999 is read, of run 0 and 1000 not, nor one a byte short or long; the notices of the office at the ends of
their fields; a group 4, a demand FF04h, and a pull-out of 1440 that its flag leaves unexamined, and one that it does not (R183,
R184). -/
theorem test_framesDiscarded :
    let read := fun (station kind : Nat) (body : List Byte) => (readFrame 5 (Claims.frame station kind body)).isSome
    let run := fun (minute demand : Nat) => read 0 0x05 (be16 1 ++ be16 minute ++ [0] ++ be16 demand ++ be16 0)
    let call := fun (flags : Byte) => read 1 0x08 ([0, 0, 1, 1, flags, 0] ++ be16 1440)
    [0, 1, 999, 1000].map (fun n => read 1 0x0E (be16 n)) = [false, true, true, false] ∧
    [[1], [0, 1, 0]].map (read 1 0x0E) = [false, false] ∧
    [86399, 86400].map (fun n => read 0 0x04 (be24 n)) = [true, false] ∧
    [(1439, 1), (1440, 1), (0, 0), (0, 9999), (0, 10000), (0, 0xFF03), (0, 0xFF04)].map (fun p => run p.1 p.2) =
      [true, false, false, true, false, true, false] ∧
    [3, 4].map (fun g => read 1 0x03 [g, 1, 0]) = [true, false] ∧ [5, 2].map call = [true, false] := by decide +kernel

/-- Commands that no accepted frame spells, at a node that would take them: a field beyond each end, a station that does not
exist, one that may not send them, the node's own. -/
theorem witness_NoticesAreReadAsTheyWereSent_discarded :
    Claims.hearing yard ∧ Claims.discarded yard.cfg.station (.late 1 0) ∧ Claims.discarded yard.cfg.station (.late 1 1000) ∧
      Claims.discarded yard.cfg.station (.late 5 1) ∧ Claims.discarded yard.cfg.station (.roll 32 false false false 1 1 0 0 0 0) ∧
      Claims.discarded yard.cfg.station (.roll 5 false false false 9 1 0 0 0 0) ∧ Claims.discarded yard.cfg.station (.clock 1 0) ∧
      Claims.discarded yard.cfg.station (.run 0 1 0 0 (.fleet 0) 0) ∧
      Claims.discarded yard.cfg.station (.parkCall 1 0 1 .midi none (some 1440) false) ∧
      Claims.discarded yard.cfg.station (.survey 5 1 [0]) ∧ Claims.discarded yard.cfg.station (.restart 0 256 []) := by
  have own : yard.cfg.station = 5 := rfl
  have h : Claims.hearing yard := by unfold Claims.hearing; decide
  simp [Claims.discarded, Claims.outside, Claims.orderKinds, own, h]

/-- The lowest two bytes and the highest; a byte inside a frame. -/
theorem witness_TheLowerFrameKeepsTheLine :
    (0 : Byte).toNat < (1 : Byte).toNat ∧ (254 : Byte).toNat < (255 : Byte).toNat ∧
      (lateBytes 0xF1)[6]? = some 0xF1 := by decide

/-- The yard with a LATE or a FOUND at the head of its class, sent or about to be, this often withdrawn, after this idle. -/
def queueing (c : FrameClass) (sending : Option FrameClass) (w idle : Nat) : State :=
  { yard with link := match c with
      | .urgent => { Link.reset with urgent := [⟨.late 1, w, false⟩], sending := sending, idle := idle }
      | .other => { Link.reset with other := [⟨.found 1 1, w, false⟩], sending := sending, idle := idle } }

/-- The yard with these frames of no urgency waiting. -/
def waitingFrames (l : List SendFrame) (latch : Bool) : State :=
  { yard with link := { Link.reset with other := l, latch := latch, receiver := .ready } }

/-- A DRAW of nothing. -/
def zeroDraw : Notice := .draw ⟨0, 0, 0⟩ ⟨0, 0, 0⟩

/-- Offers: outside LISTEN and RUN, a DRAW behind another, room for one more, and a full queue, its latch clear and set. Sends:
a count that leaves the gap of station 5 beyond the next ten, and one that does not, for each class; withdrawals 0, 14 and 15; a DRAW behind which
another waits. -/
theorem witness_FramesAreQueuedSentOrWithdrawn :
    (State.reset.listenOrRun = false ∧ yard.listenOrRun = true ∧ zeroDraw.isDraw = true ∧ (Notice.late 1).isDraw = false) ∧
    (let s := waitingFrames [⟨.found 1 1, 0, false⟩, ⟨zeroDraw, 3, false⟩] false
     s.link.sending ≠ some .other ∧ s.link.other = [⟨.found 1 1, 0, false⟩] ++ ⟨zeroDraw, 3, false⟩ :: [] ∧ s.listenOrRun = true ∧
      ∀ x ∈ [(⟨.found 1 1, 0, false⟩ : SendFrame)], x.notice.isDraw = false) ∧
    (∀ n ∈ [15, 16], (waitingFrames (List.replicate n ⟨.found 1 1, 0, false⟩) false).link.urgent.length +
        (waitingFrames (List.replicate n ⟨.found 1 1, 0, false⟩) false).link.other.length = n ∧
      ∀ x ∈ (waitingFrames (List.replicate n ⟨.found 1 1, 0, false⟩) true).link.other, x.notice.isDraw = false) ∧
    (∀ x ∈ [(40, 64), (41, 65), (50, 74)],
      Claims.countsIdle (queueing .urgent none 0 x.1) ∧ Claims.countsIdle (queueing .other none 0 x.2) ∧
      (queueing .urgent none 0 x.1).link.urgent = [⟨.late 1, 0, false⟩] ∧
      (queueing .other none 0 x.2).link.urgent = [] ∧ (queueing .other none 0 x.2).link.other = [⟨.found 1 1, 0, false⟩]) ∧
    (40 + 10 ≤ 40 + 2 * yard.cfg.station ∧ 40 + 2 * yard.cfg.station < 41 + 10 ∧ 64 + 10 ≤ 64 + 2 * yard.cfg.station ∧
      64 + 2 * yard.cfg.station < 65 + 10 ∧ (Notice.late 1).isUrgent = true ∧ (Notice.found 1 1).isUrgent = false) ∧
    (∀ w ∈ [0, 14, 15], (queueing .urgent (some .urgent) w 0).link.sending = some .urgent ∧
      (queueing .urgent (some .urgent) w 0).link.urgent = [⟨.late 1, w, false⟩] ∧
      (queueing .other (some .other) w 0).link.sending = some .other ∧
      (queueing .other (some .other) w 0).link.other = [⟨.found 1 1, w, false⟩]) ∧
    (yard.link.urgent = [] ∧ yard.link.other = [] ∧ yard.link.sending = none ∧ Claims.countsIdle yard ∧
      ¬ Claims.countsIdle (queueing .urgent (some .urgent) 0 50)) := by
  unfold Claims.countsIdle; decide

/-- The yard with this alert list. -/
def alerted (l : List AlertEntry) : State := { yard with alerts := ⟨l, false⟩ }
def entry (acked : Bool) : AlertEntry := ⟨.stray, 9999, some 0, acked⟩

/-- A list of 15; of 16 with one acknowledged after an unacknowledged one; of 16 with none; ACK of everything and of one
code, with and without an entry. -/
theorem witness_AlertsAreStoredAndAcknowledged :
    (alerted (List.replicate 15 (entry false))).alerts.entries.length < 16 ∧
    ((alerted ([entry false] ++ entry true :: List.replicate 14 (entry false))).alerts.entries =
        [entry false] ++ entry true :: List.replicate 14 (entry false) ∧
      15 ≤ [entry false].length + (List.replicate 14 (entry false)).length ∧ ∀ x ∈ [entry false], x.acknowledged = false) ∧
    (16 ≤ (alerted (List.replicate 16 (entry false))).alerts.entries.length ∧
      ∀ x ∈ (alerted (List.replicate 16 (entry false))).alerts.entries, x.acknowledged = false) ∧
    ((alerted ([entry true] ++ entry false :: [])).alerts.entries = [entry true] ++ entry false :: [] ∧
      (∀ x ∈ [entry true], x.acknowledged = true) ∧ (alerted ([entry true] ++ entry false :: [])).node.state ≠ .configFault) ∧
    (∀ x ∈ (alerted [entry true]).alerts.entries, x.acknowledged = true) ∧
    (Claims.ordered (alerted [entry false]) 0 1 ∧ (0 = 0 ∨ 65535 ≤ 9999) ∧ (18 = 0 ∨ 9999 ≤ 9999) ∧
      (alerted [entry false]).alerts.entries.filter (fun x => decide (x.acknowledged = false ∧ (0 = 0 ∨ alertCode x.code = 0))) ≠ [] ∧
      (alerted [entry false]).alerts.entries.filter (fun x => decide (x.acknowledged = false ∧
        ((18 : Nat) = 0 ∨ (alertCode x.code = 18 ∧ x.subject = 9999)))) = []) := by
  unfold Claims.ordered Claims.hearing; decide

/-- An ACK of everything, its subject FFFFh, is answered DONE and acknowledges the entry (R213). -/
theorem test_ackOfEverything :
    let u := after (.ack 0 1 [0, 0xFF, 0xFF]) (alerted [entry false])
    u.alerts = ⟨[entry true], false⟩ ∧ u.link.other.map (·.notice) = [.answer 0 1 .done 0 [1]] := by decide

/-- The ends of the charger numbers, a charger and none. -/
theorem witness_FeedAndReport :
    Claims.ordered yard 0 1 ∧ yard.chargerOf 99 = none ∧ yard.chargerOf 11 = some (charger 1 .idle) ∧ yard.chargerOf 1 = none := by
  unfold Claims.ordered Claims.hearing; decide

theorem witness_RestartOrderRestartsWarm :
    let o : Order := ⟨0, 1, .restart false⟩
    let late : SendFrame := ⟨.late 999, 0, false⟩
    let full := fun (latch : Bool) => yard.setLink
      { yard.link with urgent := List.replicate 15 late, other := [⟨.late 1, 0, false⟩], latch := latch }
    let s : State := { yard with order := some o, link := { Link.reset with other := [⟨.answer 0 1 .done 0 [], 15, true⟩], sending := some .other } }
    (Claims.ordered yard 0 1 ∧ yard.listenOrRun = true ∧ yard.link.urgent.length + yard.link.other.length < 16) ∧
    (∀ latch, Claims.ordered (full latch) 0 1 ∧ (full latch).listenOrRun = true ∧ (full latch).link.latch = latch ∧
      16 ≤ (full latch).link.urgent.length + (full latch).link.other.length) ∧
    (Claims.ordered (yard.setNode ⟨.mute, none, .released⟩) 0 1 ∧ (yard.setNode ⟨.mute, none, .released⟩).listenOrRun = false) ∧
    (s.order = some o ∧ o.work = .restart false ∧ s.link.sending = some .other ∧
      s.link.other = [⟨.answer 0 1 .done 0 [], 15, true⟩] ∧ (Notice.answer 0 1 .done 0 []).isDraw = false ∧
      s.node.state ≠ .configFault) ∧
    ((yard.setOrder (some ⟨0, 1, .restart true⟩)).order = some ⟨0, 1, .restart true⟩ ∧ yard.order = none ∧
      s.order = some ⟨0, 1, .restart false⟩) := by
  unfold Claims.ordered Claims.hearing; decide

/-- A yard in RUN with a claim in progress, a held offer, a called bus and a release, its records kept and not kept. -/
def restarting (keep : Bool) : State :=
  { promising 3 [⟨.transit, 900⟩, ⟨.shunt, 901⟩] [⟨1, 255⟩] yard with
    cfg := { yardConfig with keepYard := keep }
    buses := ⟨[bus 1 (some 101) (.released 1 2), bus 2 (some 104) .queued], 20, 20⟩
    wash := ⟨.normal, [⟨.dwell, some 1030⟩, ⟨.leaving, some 1060⟩], some 104, some 1060, true, none, true, [105]⟩
    runs := ⟨[{ runRec 7 (.ofClass .standard) .claiming with claim := some ⟨101, 0⟩, best := some ⟨6, 900, 0⟩, window := some 1003 }], 6⟩
    departures := ⟨some 17990, some ⟨40, 101, 1, 2, 1060, .fleet 101⟩, [], []⟩ }

/-- What R27, R42, R66 and R152 keep and drop where the records are kept. -/
theorem test_warmRestart_kept :
    (restarting true).warmRestart.buses.records.map (·.place) = [.parked 1 2, .queued] ∧
    (restarting true).warmRestart.lanes.map (fun l => (l.reservations, l.holds)) =
      [([], []), ([], []), ([⟨.transit, 900⟩], []), ([], [])] ∧
    (restarting true).warmRestart.wash = ⟨.stopped, [⟨.spinup, none⟩, ⟨.leaving, none⟩], none, none, true, none, true, [105]⟩ ∧
    (restarting true).warmRestart.runs.runs.map (fun r => (r.state, r.claim, r.window)) = [(.claimedElsewhere, none, none)] := by decide

/-- What R26, R41, R65 and R152 leave where they are not. -/
theorem test_warmRestart_renewed :
    (restarting false).warmRestart.buses.records = [] ∧ (restarting false).warmRestart.runs = ⟨[], 0⟩ ∧
    (restarting false).warmRestart.lanes.map (fun l => (l.suspect, l.survey)) = List.replicate 4 (true, some 1010) ∧
    (restarting false).warmRestart.wash = ⟨.stopped, [⟨.empty, none⟩, ⟨.empty, none⟩], none, none, true, none, false, []⟩ := by decide

theorem witness_PowerOnAndTheResetLine :
    yard.node.resetLine = .released ∧ yard.active = true ∧
      (yard.setNode { yard.node with resetLine := .held 1000 true }).node.resetLine = .held 1000 true ∧ 1000 ≤ yard.now ∧
      (yard.setNode { yard.node with resetLine := .held 1001 false }).active = true ∧
      (State.reset.setNode { State.reset.node with resetLine := .held 1 false }).active = false ∧
      (yard.setNode { yard.node with resetLine := .heldLong true }).node.resetLine = .heldLong true := by decide

/-- The outputs on, off for the held line, and off in LOADING; a release and a charger with power at the change (R202). -/
theorem witness_PowerOnAndTheResetLine_outputs :
    let held := (releasing .mine).setNode { yard.node with resetLine := .held 1001 false }
    let drawing : Charger := { charger 2 .connected with present := 40 }
    Claims.outputsOn (releasing .mine) ∧ ¬ Claims.outputsOn held ∧ ¬ Claims.outputsOn State.reset ∧
      (releasing .mine).exitSignal 3 = true ∧ (releasing .mine).exitSignal 2 = false ∧ held.exitSignal 3 = false ∧
      (releasing .mine).linkPower drawing = 40 ∧ held.linkPower drawing = 0 := by
  unfold Claims.outputsOn; decide

/-! ### Configuration images -/

/-- An image of 512 bytes: this station and line rate, one lane of one berth, every other byte FFh, and this last word. -/
def image (station rate hi lo : Byte) : List Byte :=
  [station, rate, 0xFF, 1] ++ List.replicate 78 0xFF ++ [1] ++ List.replicate 427 0xFF ++ [hi, lo]

/-- Station 5 with a check that makes the sum FFFFh (R198). -/
theorem test_goodImage : (image 5 255 0xF8 0xFF).length = 512 ∧ badCause (image 5 255 0xF8 0xFF) = none := by decide +kernel

/-- The worked figures of R198: a memory of FFh is bad with cause 2, one of zeros with cause 1. -/
theorem test_badImages :
    badCause (List.replicate 512 0xFF) = some 2 ∧ badCause [] = some 2 ∧ badCause (List.replicate 512 0) = some 1 := by
  decide +kernel

/-- A bad image whose station and rate can be used: the one ALERT waits, to be sent with them (R200). -/
theorem test_badImageIsTold :
    let u := after (.configReadComplete (image 31 3 0 0)) State.reset
    u.node.state = .configFault ∧ (u.cfg.station, u.cfg.lineRate) = (31, 3) ∧
      u.link.other.map (·.notice) = [.alert .configBad 1 none] := by decide +kernel

/-- An image of station 5 with every field in its range, one lane of one uncharged berth; and its check (R196 to R199). -/
def cleanImage : List Byte :=
  [5, 2, 0, 1, 0, 0, 0, 0, 0, 1, 0, 1, 10, 2, 3, 10, 20, 15, 15, 2, 2, 10, 0, 0, 20, 5, 5, 30, 5, 5, 30, 10, 2, 2, 0, 60, 0]
  ++ (List.replicate 4 [10, 0, 60, 0, 30]).flatten ++ (List.replicate 3 [1, 0, 1, 0, 1, 0, 16, 8]).flatten
  ++ [1, 1, 11, 1, 1, 1, 1, 1, 7, 255, 1, 0] ++ List.replicate 417 0 ++ [0xA6, 0x4A]

theorem cleanImage_lanes : (configOf cleanImage).lanes =
    [⟨.deadEnd, [11], ⟨true, true, true⟩, none, false, false, []⟩] := by decide +kernel

/-- Nothing of the clean image is clamped. -/
theorem witness_ConfigurationReadAndListen_clean :
    badCause cleanImage = none ∧ ∀ off, ¬ Claims.clampedAt cleanImage (configOf cleanImage) off := by
  have bounds : ∀ f ∈ Claims.ranges (configOf cleanImage),
      f.2.2.1 ≤ Claims.imageField cleanImage f.1 f.2.1 ∧ Claims.imageField cleanImage f.1 f.2.1 ≤ f.2.2.2.1 := by decide +kernel
  refine ⟨by decide +kernel, fun off h => ?_⟩
  rcases h with ⟨b, l, g, v, hm, hr⟩ | ⟨_, h⟩ | ⟨_, h⟩ | ⟨_, h⟩ | ⟨i, l, hl, h⟩
  · have := bounds _ hm; simp only at this; omega
  · exact absurd h (by decide +kernel)
  · exact absurd h (by decide +kernel)
  · exact absurd h (by decide +kernel)
  · rw [cleanImage_lanes] at hl
    cases i with
    | succ i => cases hl
    | zero =>
      cases hl
      rcases h with ⟨_, h⟩ | ⟨_, h⟩ | ⟨_, _, _, h, _⟩ | ⟨_, h⟩ | ⟨p, y, hp, _⟩
      · exact absurd h (by decide +kernel)
      · exact absurd h (by decide +kernel)
      · cases h
      · exact absurd h (by decide +kernel)
      · cases hp

/-- The line rate, at the lowest offset of the fields that can be clamped, is the lowest one clamped in an image of FFh. -/
theorem witness_ConfigurationReadAndListen_clamped :
    Claims.clampedAt (image 5 255 0xF8 0xFF) (configOf (image 5 255 0xF8 0xFF)) 1 ∧
    ∀ y, Claims.clampedAt (image 5 255 0xF8 0xFF) (configOf (image 5 255 0xF8 0xFF)) y → 1 ≤ y := by
  have bounds : ∀ f ∈ Claims.ranges (configOf (image 5 255 0xF8 0xFF)), 1 ≤ f.1 := by decide +kernel
  refine ⟨.inl ⟨1, 1, 3, _, List.mem_append_left _ (List.mem_append_left _ (List.mem_cons_self ..)), by decide +kernel⟩, fun y h => ?_⟩
  rcases h with ⟨b, l, g, v, hm, hr⟩ | ⟨h, _⟩ | ⟨h, _⟩ | ⟨h, _⟩ | ⟨i, l, hl, h⟩
  · exact bounds _ hm
  · omega
  · omega
  · omega
  · rcases h with ⟨h, _⟩ | ⟨h, _⟩ | ⟨h, _⟩ | ⟨h, _⟩ | ⟨p, z, hp, ⟨h, _⟩ | ⟨h, _⟩ | ⟨h, _⟩⟩ <;> omega

/-- Bad images at the ends of the usable stations and rates, and with none usable; a good one; LISTEN. -/
theorem witness_ConfigurationReadAndListen :
    (State.reset.node.resetLine = .released ∧ State.reset.node.state = .loading) ∧
    (yard.node.state ≠ .loading ∧ (State.reset.setNode ⟨.loading, none, .held 1 false⟩).node.resetLine ≠ .released) ∧
    (badCause (image 1 1 0 0)).isSome = true ∧ Claims.imageByte (image 1 1 0 0) 0 = 1 ∧ Claims.imageByte (image 1 1 0 0) 1 = 1 ∧
    (badCause (image 31 3 0 0)).isSome = true ∧ Claims.imageByte (image 31 3 0 0) 0 = 31 ∧ Claims.imageByte (image 31 3 0 0) 1 = 3 ∧
    (badCause (image 32 4 0 0)).isSome = true ∧ Claims.imageByte (image 32 4 0 0) 0 = 32 ∧ Claims.imageByte (image 0 0 0 0) 0 = 0 ∧
    badCause (image 5 255 0xF8 0xFF) = none ∧
    ((yard.setNode ⟨.listen, some 1000, .released⟩).node.state = .listen ∧
      (yard.setNode ⟨.listen, some 1000, .released⟩).node.listenTimer = some 1000 ∧
      (yard.setNode ⟨.listen, some 1000, .released⟩).node.resetLine = .released) := by decide +kernel

/-! ### Witnesses: what every command and every step keeps -/

/-- The yard with a run list, an open offer, a shunt order and a called bus. -/
def fullYard : State :=
  { withShunts [shuntTo 1 .atFrom 1] (promising 1 [⟨.shunt, 108⟩] [] (promising 3 [] [⟨1, 255⟩]
      (washing [bus 9 (some 108) (.shunting 3 2), bus104] .normal [⟨.empty, none⟩, ⟨.empty, none⟩] (some 104) false))) with
    alloc := ⟨0, .idle, [⟨1, call105, 3, 500, false, none, 1003⟩], [], none⟩
    runs := ⟨[runRec 1 (.fleet 101) .mine, runRec 2 (.ofClass .midi) .pending], 0⟩ }

theorem fullYard_bounded : Claims.bounded fullYard := by
  unfold Claims.bounded tableBounded alertsBounded queueBounded clockInDay runsOrdered fleetsUnique
  decide

/-- A lane of at most three positions is sound when none between, or behind in a DEAD_END lane, is left empty. -/
theorem laneSound_of {s : State} {l : Lane} (h1 : 1 ≤ l.size) (h2 : l.reservations.length + l.holds.length ≤ s.entryRoom l)
    (h3 : l.size ≤ 3) (h4 : (l.kind = .deadEnd ∧ (s.occupant l.number 1 = none ∨ s.occupant l.number 2 ≠ none) ∧
      (l.size = 3 → s.occupant l.number 3 ≠ none)) ∨ l.size ≤ 2) (h5 : l.kind = .deadEnd → l.size = 2 →
        s.occupant l.number 1 = none ∨ s.occupant l.number 2 ≠ none) : Claims.laneSound s l := by
  refine ⟨h1, h2, ?_⟩
  intro p q hp hpq hq st hk
  rcases h4 with ⟨hd, h12, h33⟩ | hs
  · have cases : (p = 1 ∧ q = 2) ∨ q = 3 := by omega
    rcases cases with ⟨rfl, rfl⟩ | rfl
    · exact h12.resolve_left st
    · exact h33 (by omega)
  · have : p = 1 ∧ q = 2 := by omega
    obtain ⟨rfl, rfl⟩ := this
    rcases hk with hd | ⟨r, hr, hl, _⟩
    · exact (h5 hd (by omega)).resolve_left st
    · omega

/-- The yard with each kind of promise and a bus in each kind of place is sound. -/
theorem fullYard_sound : Claims.yardSound fullYard := by
  refine ⟨⟨by decide, by decide, ?_⟩, ⟨by decide, ?_⟩, by decide, by decide, ?_, by decide⟩
  · intro l hl
    have : l = { lane 1 lane1 with reservations := [⟨.shunt, 108⟩] } ∨ l = lane 2 lane2 ∨
        l = { lane 3 lane3 with holds := [⟨1, 255⟩] } ∨ l = lane 4 lane4 := by
      have e : fullYard.lanes = [{ lane 1 lane1 with reservations := [⟨.shunt, 108⟩] }, lane 2 lane2,
        { lane 3 lane3 with holds := [⟨1, 255⟩] }, lane 4 lane4] := by decide
      rw [e] at hl; simpa using hl
    rcases this with rfl | rfl | rfl | rfl <;>
      exact laneSound_of (by decide) (by decide) (by decide) (by decide) (by decide)
  · intro b hb n p e
    have h := (by decide : ∀ b ∈ fullYard.buses.records, b.berth?.all (fun x =>
      fullYard.lanes.any (fun l => l.number == x.1 && decide (1 ≤ x.2) && decide (x.2 ≤ l.size))) = true)
    have := of_all (h b hb) _ e
    simpa [and_assoc] using this
  · rintro f ⟨⟩
    exact ⟨bus104, by decide, rfl, rfl⟩

theorem witness_EveryStepKeepsTheBounds : Claims.bounded fullYard := fullYard_bounded

/-- A step of the sound yard: a stray is read in at lane 2, whose entry room is 1. -/
theorem witness_EveryStepKeepsTheYardSound :
    Claims.bounded fullYard ∧ Claims.yardSound fullYard ∧
      ∃ t, step (fullYard.setPending [.laneReaderReading 2 .rear 900 .inward]) = .next t :=
  ⟨fullYard_bounded, fullYard_sound, _, rfl⟩

theorem witness_OnlyStartsAndClashesChangeTheNode :
    isStart .ackButtonPress = false ∧ yard.clock.isSet = true ∧ isStart (.roll 5 false false false 1 1 0 0 0 0) = false ∧
      Claims.ownFigures 5 (.roll 5 false false false 1 1 0 0 0 0) = true ∧ Claims.ownFigures 5 (.draw 6 0 0 0 0 0 0) = false := by
  decide

/-- An active node and one that is not. -/
theorem witness_TestsAfterACommandKeepTheGround :
    yard.active = true ∧ State.reset.active = false ∧ (yard.buses.records.map (·.id)).Nodup := by decide

/-! ### Ill-formed commands are refused -/

/-- Lane, position, stage, berth and fleet numbers one outside their ranges; an image that is not 512 bytes. -/
theorem test_wellFormed_refusesEvents :
    ∀ c ∈ [Instr.configReadComplete [], .laneReaderReading 0 .front 1 .inward, .laneReaderReading 9 .front 1 .inward,
        .laneReaderReading 1 .front 65536 .inward, .berthDetectorChange 0 1 true, .berthDetectorChange 1 7 true,
        .berthSettleExpiry 9 1, .berthSettleExpiry 1 0, .surveyPeriodEnd 9, .entryReaderReading 65536, .bypassReaderReading 65536,
        .stageDetectorChange 5 true, .spinupExpiry 0, .dwellExpiry 5, .runonExpiry 5, .advanceTimeout 0, .unplacedRetryExpiry 0,
        .offerWindowExpiry 32, .takeWatchExpiry 10000, .transitTimeout 0, .connectionReport 0 1, .disconnectReport 100,
        .faultReport 100, .meterPulse 0, .chargerSettleExpiry 100, .rampTimerExpiry 0, .freshnessTimerExpiry 0,
        .claimWindowExpiry 1000, .claimRefreshExpiry 0, .claimPeriodEntry 1000, .shuntLeadReached 0, .shuntTimerExpiry 10000,
        .releaseLeadReached 1000, .gracePassed 0], c.wellFormed = false := by decide

/-- Each field of each notice one outside its range (R183, R184). -/
theorem test_wellFormed_refusesNotices :
    ∀ c ∈ [Instr.roll 32 false false false 1 1 0 0 0 0, .roll 1 false false false 0 1 0 0 0 0, .roll 1 false false false 9 1 0 0 0 0,
        .roll 1 false false false 1 0 0 0 0 0, .roll 1 false false false 1 49 0 0 0 0, .roll 1 false false false 1 1 49 0 0 0,
        .roll 1 false false false 1 1 0 4001 0 0, .roll 1 false false false 1 1 0 0 4001 0, .roll 1 false false false 1 1 0 0 0 4001,
        .draw 32 0 0 0 0 0 0, .draw 1 4001 0 0 0 0 0, .draw 1 0 4001 0 0 0 0, .draw 1 0 0 4001 0 0 0, .draw 1 0 0 0 4001 0 0,
        .draw 1 0 0 0 0 4001 0, .draw 1 0 0 0 0 0 4001, .feeder 32 .a .shed false, .clock 1 0, .clock 0 86400,
        .run 1 1 0 0 (.fleet 1) 0, .run 0 1000 0 0 (.fleet 1) 0, .run 0 1 1440 0 (.fleet 1) 0, .run 0 1 0 256 (.fleet 1) 0,
        .run 0 1 0 0 (.fleet 0) 0, .run 0 1 0 0 (.fleet 1) 6001, .runCancel 1 1, .runCancel 0 0, .clearRuns 1,
        .parkCall 32 0 1 .midi none none false, .parkCall 1 256 1 .midi none none false, .parkCall 1 0 0 .midi none none false,
        .parkCall 1 0 1 .midi (some 256) none false, .parkCall 1 0 1 .midi none (some 1440) false, .offer 32 1 0 0, .offer 1 0 0 0,
        .offer 1 1 256 0, .offer 1 1 0 4095, .take 32 1 0 1 0, .take 1 32 0 1 0, .take 1 1 256 1 0, .take 1 1 0 9 0, .take 1 1 0 1 4095,
        .found 32 1 1, .found 1 10000 1, .found 1 1 0, .claim 32 1 1 0, .claim 1 1000 1 0, .claim 1 1 0 0, .claim 1 1 1 4096,
        .depart 32 1 1 0, .depart 1 0 1 0, .depart 1 1 0 0, .depart 1 1 1 86400, .late 32 1, .late 1 0], c.wellFormed = false := by decide

/-- An ANSWER and an ALERT of a wrong length, a rejected frame too long, orders with 30 argument bytes, a listed kind as
an unknown one. -/
theorem test_wellFormed_refusesFramesAndOrders :
    let long : List Byte := List.replicate 30 0
    (∀ c ∈ [Instr.answerOrAlertHeard 32 17 (List.replicate 6 0), .answerOrAlertHeard 1 16 [], .answerOrAlertHeard 1 16 (List.replicate 33 0),
        .answerOrAlertHeard 1 17 [], .answerOrAlertHeard 1 18 (List.replicate 6 0), .frameRejected (List.replicate 38 0),
        .orderUnknownKind 1 0 1 [], .orderUnknownKind 1 0 256 [], .orderUnknownKind 1 0 0 long, .orderForAnotherStation 1 32 0 1 [],
        .orderForAnotherStation 1 1 0 256 [], .orderForAnotherStation 1 1 0 1 long], c.wellFormed = false) ∧
    (∀ k ∈ Claims.orderKinds, (k.1 32 0 []).wellFormed = false ∧ (k.1 0 256 []).wellFormed = false ∧ (k.1 0 0 long).wellFormed = false) := by
  decide

/-- No row of the table has bits, so no word spells a command. -/
theorem test_noWordSpellsACommand : ∀ w ∈ [0, 1, 255], decodeTableWord 8 w = none := by decide

/-! ### The manual's worked figures -/

/-- The worked sums after R182: LATE for run 104 and DEPART for it, from station 4; the receiver's sum on a changed byte. -/
theorem test_worked_sums :
    (Notice.late 104).wire 4 = [0x04, 0x0E, 0x02, 0x00, 0x68, 0x91, 0xF1] ∧
      (Notice.depart 104 3051 20235).wire 4 = [0x04, 0x0D, 0x07, 0x00, 0x68, 0x0B, 0xEB, 0x00, 0x4F, 0x0B, 0x52, 0xDB] ∧
      checkPasses [0x04, 0x0E, 0x02, 0x00, 0x68] 0x91F1 = true ∧ checkPasses [0x04, 0x0E, 0x02, 0x00, 0x69] 0x91F1 = false := by decide

/-- The worked gaps after R186. -/
theorem test_worked_gaps :
    (Notice.offer 1 0 0).gap 2 = 68 ∧ (Notice.late 1).gap 6 = 52 ∧ (Notice.take 1 0 1 0).gap 9 = 58 ∧ (Notice.take 1 0 1 0).gap 14 = 68 := by decide

/-- The worked service values after R36, and the times to go of R122's table. -/
theorem test_worked_serviceValues :
    [120, 330, 365, 1430, 5, 119].map (serviceValue 120) = [0, 210, 245, 1310, 1325, 1439] ∧
      [18900, 27000, 48600].map (timeToGo 19200) = [-300, 7800, 29400] := by decide

/-- The yard's groups in this state. -/
def grouped (r : GroupRec) : State := { yard with feeders := { yard.feeders with groups := ⟨r, r, r⟩ } }

/-- The worked effective caps after R90. -/
theorem test_worked_effectiveCaps :
    (grouped ⟨.told .opened, false, 0, none⟩).effectiveCap .a = 600 ∧ (grouped ⟨.told .opened, true, 0, none⟩).effectiveCap .a = 450 ∧
      (grouped ⟨.told .shed, true, 0, none⟩).effectiveCap .a = 180 ∧ (grouped ⟨.told .peak, false, 0, none⟩).effectiveCap .b = 358 ∧
      (grouped ⟨.told .peak, true, 0, none⟩).effectiveCap .b = 256 ∧ (grouped ⟨.told .shed, false, 0, none⟩).effectiveCap .b = 0 ∧
      (grouped ⟨.told .opened, true, 0, none⟩).effectiveCap .c = 600 ∧ (grouped ⟨.unknown, false, 0, none⟩).effectiveCap .c = 300 := by decide

/-- The worked claimants after R123: Pmin, Q' and ceiling. -/
def e (pmin rate top : Nat) : Claimant :=
  ⟨{ charger 1 .connected with conf := { chargerConf with pmin := pmin } }, .b, top, ⟨1, rate, 0⟩, 0⟩

/-- The worked passes after R126, under grants of 200, 140 and 15. -/
theorem test_worked_passes :
    let plan := fun grant => (allot ⟨0, grant, 0⟩ [e 20 100 100, e 30 60 120, e 25 25 50]).map (·.power)
    plan 200 = [100, 75, 25] ∧ plan 140 = [100, 40, 0] ∧ plan 15 = [0, 0, 0] := by decide

/-- The worked prices after R72, with v = 245: lanes 1, 2, 4 and 6, and the spare's 0. -/
theorem test_worked_prices :
    neighbourCost .deadEnd 245 1310 = 999 ∧ neighbourCost .deadEnd 245 210 = 1070 ∧ neighbourCost .through 245 1325 = 2998 ∧
      neighbourCost .through 245 0 = 245 ∧ neighbourCost .deadEnd 210 210 = 0 := by decide

/-- The worked sequence of a full list after R213, one event at a time. -/
theorem test_worked_fullList :
    let old : AlertEntry := ⟨.laneSuspect, 2, none, false⟩
    let s := alerted (old :: List.replicate 15 (entry false))
    let full := s.storeAlert .stray 3051
    (full.alerts.entries = s.alerts.entries ∧ full.alerts.full = true ∧ full.alertLine = true) ∧
    (exec .ackButtonPress full = .next (full.setAlerts ⟨{ old with acknowledged := true } :: List.replicate 15 (entry false), false⟩)) ∧
    ((alerted ({ old with acknowledged := true } :: List.replicate 15 (entry false))).storeAlert .mispark 2240).alerts.entries =
      List.replicate 15 (entry false) ++ [⟨.mispark, 2240, some 18000, false⟩] := by
  refine ⟨by decide, rfl, by decide⟩

/-- At reset the node loads: nothing is heard and no frame waits (R201, R203). -/
theorem test_reset : State.reset.active = false ∧ State.reset.link.size = 0 ∧ State.reset.alertLine = false := by decide

/-! ### One command on the yard -/

/-- The state once the line has been idle for 10 bit times (R181). -/
def ready (s : State) : State := after .idleOf10BitTimes s

/-- A gap of 74 bit times is begun at its own instant, between the tens 70 and 80; not while the next ten is 70 (R186). -/
theorem test_gapBetweenTens :
    (after .frameSendStart (queueing .other none 0 70)).link.sending = some .other ∧
      (after .frameSendStart (queueing .other none 0 60)).link.sending = none := by decide

/-- The yard with wildcard run 7 in its claim period, its refresh timer running. -/
def refreshing : State :=
  { listing [{ runRec 7 (.ofClass .standard) .pending with refresh := some 1030 }] with
    cfg := { yardConfig with wildcard := true } }

/-- The claim refresh timers of the run list. -/
def timers (s : State) : List (Option Nat) := s.runs.runs.map (·.refresh)

/-- A CLOCK that puts a run before its claim period leaves its refresh timer running (R195). -/
theorem test_refreshRunsOn : timers (after (.clock 0 14000) refreshing) = [some 1030] := by decide

/-- A RUN that moves a run out of its claim period stops the timer (R145). -/
theorem test_refreshStops : timers (after (.run 0 7 400 7 (.ofClass .standard) 6000) refreshing) = [none] := by decide

/-- A called fleet has the allowance of the run that names it, though the RELEASED record of another bus keeps that run
(R71). -/
theorem test_allowanceOfKeptRun :
    ({ releasing .mine with runs := ⟨[runRec 40 (.fleet 900) .mine], 40⟩ } : State).allowanceFor 900 = some 6000 := by decide

/-- R18: a detector change that disagrees starts the settle timer of its berth. -/
theorem test_berthDetectorChange :
    ((after (.berthDetectorChange 3 2 true) yard).laneOf 3).map (·.settle) = some [.quiet, .awaitEvent 1010] := by decide

/-- R13: a stray stands at the entry position, STRAY is stored and FOUND queued before its ALERT. -/
theorem test_strayReading :
    let t := after (.laneReaderReading 1 .front 777 .inward) yard
    (t.occupant 1 1).map (·.fleet) = some (some 777) ∧ t.alerts.entries.map (fun x => (x.code, x.subject)) = [(.stray, 777)] ∧
      t.link.other.map (·.notice.kind) = [0x0B, 0x11] := by decide

/-- R15, R173: a parked bus read out becomes TRANSIT with its reservation lost. -/
theorem test_outReading :
    ((after (.laneReaderReading 1 .front 101 .outward) yard).busOf 101).map (·.place) = some (.transit 1 1000 true none) := by decide

/-- R161: the released bus goes: DEPARTED, the last exit now, DEPART queued, no record left. -/
theorem test_departure :
    let t := after (.laneReaderReading 3 .front 108 .outward) (releasing .mine)
    (t.runOf 40).map (·.state) = some .departed ∧ t.departures.lastExit = some 18000 ∧ t.busOf 108 = none ∧
      t.link.urgent.map (·.notice) = [.depart 40 108 18000] := by decide

/-- R44, R53: a new bus joins an empty queue and is called at once, its timer the advance timeout of 90 s. -/
theorem test_entryReading :
    let t := after (.entryReaderReading 900) yard
    (t.busOf 900).map (·.place) = some .queued ∧ t.wash.called = some 900 ∧ t.wash.callTimer = some 1090 := by decide

/-- R88, R97: a FEEDER sets the state; the grant, never raised between boundaries, stays. -/
theorem test_feederHeard :
    let t := after (.feeder 1 .a .opened true) yard
    (t.feeders.groups.a.state, t.feeders.groups.a.hot, t.feeders.groups.a.grant) = (.told .opened, true, 0) := by decide

/-- R136, R140: a RUN naming 101 binds its record, and the run is MINE. -/
theorem test_runHeard :
    let t := after (.run 0 40 600 7 (.fleet 101) 6000) yard
    (t.runOf 40).map (·.state) = some .mine ∧ (t.busOf 101).map (·.run) = some (some 40) := by decide

/-- The worked figures of two runs binding to one fleet: RUN 214, then RUN 190, which is not behind the front (R135). -/
theorem test_worked_binding :
    let s := after (.run 0 190 350 7 (.fleet 101) 300) (ready (after (.run 0 214 365 7 (.fleet 101) 300) { yard with clock := ⟨0, false⟩ }))
    s.runs.runs.map (fun r => (r.run, r.state)) = [(190, .mine), (214, .pending)] ∧
      (s.busOf 101).map (fun b => (b.run, b.pullOut)) = some (some 190, some 350) := by decide

/-- R195, R192: CLOCK is taken from the office alone. -/
theorem test_clockHeard :
    (after (.clock 0 86399) yard).clock = ⟨86399, true⟩ ∧ (after (.clock 1 7) yard).clock = ⟨18000, true⟩ := by decide

/-- R194: the second after 23:59:59 is 00:00:00. -/
theorem test_midnight : ({ yard with clock := ⟨86399, true⟩ } : State).second.clock = ⟨0, true⟩ := by decide

/-! ### The line and the frame (R179 to R187, R213) -/

/-- R179: the levels of a byte 91h, a start bit, its bits with the most significant first, a stop bit. -/
theorem test_byteLevels : byteLevels 0x91 = [false, true, false, false, true, false, false, false, true, true] := by decide

/-- R187: stations 2 and 14 begin together; 14 drives its fifth data bit high while 2 holds the line low. -/
theorem test_withdrawsAt : withdrawsAt (frameLevels [14]) (frameLevels [2]) = some 5 ∧
    withdrawsAt (frameLevels [2]) (frameLevels [14]) = none := by decide

/-- R183: an ORDER of station 0 to station 5, kind 03h, is LANE_OPEN; kind 0Fh is no kind listed; station 6's is another's. -/
theorem test_readBody :
    readBody 5 0 0x0F [5, 9, 0x03, 2] = .laneOpen 0 9 [2] ∧ readBody 5 0 0x0F [5, 9, 0x0F] = .orderUnknownKind 0 9 0x0F [] ∧
      readBody 5 0 0x0F [6, 9, 0x03, 2] = .orderForAnotherStation 0 6 9 0x03 [2] ∧
      readBody 5 0 0x05 [0, 40, 0x02, 0x58, 7, 0xFF, 0x02, 0x17, 0x70] = .run 0 40 600 7 (.ofClass .standard) 6000 := by decide +kernel

/-- R184, R185: bytes that pass every test are delivered; one changed bit, and they are discarded. -/
theorem test_frameRejected :
    (after (.frameRejected ((Notice.late 7).wire 4)) (listing [runRec 7 (.fleet 900) .pending])).runs.runs.map (·.state) = [.late] ∧
      (after (.frameRejected [0x04, 0x0E, 0x02, 0x00, 0x06, 0x91, 0xF1]) (listing [runRec 7 (.fleet 900) .pending])).runs.runs.map (·.state)
        = [.pending] := by decide +kernel

/-- R181: a frame that follows another with no idle of 10 bit times between is ignored. -/
theorem test_noIdleBetweenFrames :
    (after (.clock 0 7) (after (.clock 0 86399) yard)).clock.time = 86399 ∧
      (after (.clock 0 7) (ready (after (.clock 0 86399) yard))).clock.time = 7 := by decide

/-- R202, R213: while the reset line is held the alert line keeps its level, through the button and the loss of the state. -/
theorem test_alertLineWhileHeld :
    let s := after .resetLineAsserted (alerted [entry false])
    s.alertLine = true ∧ (after .ackButtonPress s).alertLine = true ∧ (after .ackButtonPress s).alerts.entries = [entry true] ∧
      (after .resetHoldExpiry { s with now := 1001 }).alertLine = true ∧
      (after .resetLineReleased (after .resetHoldExpiry { s with now := 1001 })).alertLine = false := by decide

/-- R95: a DRAW taken before a waiting expiry keeps its entry FRESH. -/
theorem test_drawBeforeExpiry :
    ((after (.freshnessTimerExpiry 31) (after (.draw 31 1 0 0 1 0 0) heardPeers)).entryOf 31).map (·.fresh) = some (some 1030) := by
  decide

end Sys2Proof.Tests
end

section
/-! SUPPORT. What the soundness of the yard is about: a view of the state that holds the places of the records, the
promises of the lanes, the open offers and the shunt orders, and nothing else; and what changes of that view keep it
sound. An invariant is stated once for the view (`View.Tidy`), with the slack that the middle of a command may take. -/

namespace Sys2Proof.Machine

/-! ### Stacks and rooms as sets of positions (R5, R8) -/

/-- The positions `St` are one unbroken run, to the deep end in a DEAD_END lane (R5). -/
def unbroken (kind : LaneKind) (size : Nat) (St : Nat → Prop) : Prop :=
  ∀ p q, 1 ≤ p → p < q → q ≤ size → St p → (kind = .deadEnd ∨ ∃ r, q < r ∧ r ≤ size ∧ St r) → St q

/-- A lane with the positions `St` occupied has entry room for `c` promises (R5, R8). -/
def roomFor (kind : LaneKind) (size c : Nat) (St : Nat → Prop) : Prop :=
  c ≤ size ∧ ∀ p, 1 ≤ p → p ≤ size → St p → match kind with | .deadEnd => c < p | .through => c + p ≤ size

/-- `pos` is the entry position of a lane with the positions `St` occupied (R5). -/
def entryAt (kind : LaneKind) (size : Nat) (St : Nat → Prop) (pos : Nat) : Prop :=
  1 ≤ pos ∧ pos ≤ size ∧ match kind with
    | .deadEnd => (∀ p, 1 ≤ p → p ≤ size → St p → pos < p) ∧ (pos = size ∨ St (pos + 1))
    | .through => (∀ p, 1 ≤ p → p ≤ size → St p → p < pos) ∧ (pos = 1 ∨ St (pos - 1))

/-- No occupied position lies before `q`: a bus at `q` can leave (R5). -/
def firstAt (size : Nat) (St : Nat → Prop) (q : Nat) : Prop := ∀ p, 1 ≤ p → p ≤ size → St p → q ≤ p

theorem unbroken_congr {k : LaneKind} {n : Nat} {A B : Nat → Prop} (h : ∀ p, A p ↔ B p) (u : unbroken k n A) :
    unbroken k n B := by
  have : A = B := funext fun p => propext (h p)
  rwa [← this]

/-- Fewer promises over fewer records stay within the room. -/
theorem roomFor_mono {k : LaneKind} {n c d : Nat} {A B : Nat → Prop} (hd : d ≤ c) (h : ∀ p, B p → A p)
    (r : roomFor k n c A) : roomFor k n d B := by
  obtain ⟨hc, hr⟩ := r
  refine ⟨by omega, fun p h1 h2 hp => ?_⟩
  have := hr p h1 h2 (h p hp)
  cases k <;> simp only at this ⊢ <;> omega

theorem entryAt_free {k : LaneKind} {n pos : Nat} {St : Nat → Prop} (e : entryAt k n St pos) : ¬ St pos := by
  obtain ⟨h1, h2, h3⟩ := e
  intro hp
  cases k
  · exact Nat.lt_irrefl _ (h3.1 pos h1 h2 hp)
  · exact Nat.lt_irrefl _ (h3.1 pos h1 h2 hp)

/-- A bus at the entry position lengthens the stack by one (R11). -/
theorem unbroken_enter {k : LaneKind} {n pos : Nat} {St : Nat → Prop} (e : entryAt k n St pos) (u : unbroken k n St) :
    unbroken k n (fun p => p = pos ∨ St p) := by
  obtain ⟨h1, h2, h3⟩ := e
  rintro p q hp hpq hq hSp hr
  cases k with
  | deadEnd =>
    refine Or.inr ?_
    rcases hSp with rfl | hSp
    · rcases h3.2 with h | h
      · omega
      · rcases Nat.lt_or_ge (p + 1) q with hlt | hge
        · exact u (p + 1) q (by omega) hlt hq h (Or.inl rfl)
        · have : q = p + 1 := by omega
          exact this ▸ h
    · exact u p q hp hpq hq hSp (Or.inl rfl)
  | through =>
    obtain ⟨r, hqr, hrn, hSr⟩ := hr.resolve_left (by simp)
    have hrp : r ≤ pos := by
      rcases hSr with rfl | hSr
      · exact Nat.le_refl _
      · exact Nat.le_of_lt (h3.1 r (by omega) hrn hSr)
    have hSp' : St p := hSp.resolve_left (by omega)
    refine Or.inr ?_
    rcases hSr with rfl | hSr
    · have hlast := h3.2.resolve_left (by omega)
      rcases Nat.lt_or_ge q (r - 1) with hlt | hge
      · exact u p q hp hpq hq hSp' (Or.inr ⟨r - 1, hlt, by omega, hlast⟩)
      · have : q = r - 1 := by omega
        exact this ▸ hlast
    · exact u p q hp hpq hq hSp' (Or.inr ⟨r, hqr, hrn, hSr⟩)

/-- A bus at the entry position takes one place of the entry room (R5). -/
theorem roomFor_enter {k : LaneKind} {n c pos : Nat} {St : Nat → Prop} (e : entryAt k n St pos) (r : roomFor k n c St) :
    roomFor k n (c - 1) (fun p => p = pos ∨ St p) := by
  obtain ⟨h1, h2, h3⟩ := e
  obtain ⟨hc, hr⟩ := r
  refine ⟨by omega, fun p hp1 hp2 hp => ?_⟩
  cases k with
  | deadEnd =>
    simp only at hr ⊢
    rcases hp with rfl | hp
    · rcases h3.2 with h | h
      · omega
      · rcases Nat.lt_or_ge p n with hlt | hge
        · have := hr (p + 1) (by omega) (by omega) h
          omega
        · omega
    · have := hr p hp1 hp2 hp
      omega
  | through =>
    simp only at hr ⊢
    rcases hp with rfl | hp
    · rcases h3.2 with h | h
      · omega
      · rcases Nat.lt_or_ge 1 p with hlt | hge
        · have := hr (p - 1) (by omega) (by omega) h
          omega
        · omega
    · have := hr p hp1 hp2 hp
      omega

/-- The first bus of a stack leaves the others unbroken (R15). -/
theorem unbroken_leave {k : LaneKind} {n q : Nat} {St : Nat → Prop} (f : firstAt n St q) (u : unbroken k n St) :
    unbroken k n (fun p => St p ∧ p ≠ q) := by
  rintro p r hp hpr hr ⟨hSp, hpq⟩ h
  have hq : q < r := Nat.lt_of_le_of_lt (f p hp (by omega) hSp) hpr
  refine ⟨u p r hp hpr hr hSp (h.imp_right ?_), by omega⟩
  rintro ⟨t, h1, h2, h3, -⟩
  exact ⟨t, h1, h2, h3⟩

/-! ### The view -/

/-- How a record stands to the lanes, the wash queue and the shunts. -/
inductive Stance where
  | queued
  | away
  | between
  | berthed (lane pos : Nat) (shunting : Bool)

/-- The stance of a place: RELEASED stands as PARKED does, and the wash stages, the apron and TRANSIT are away. -/
def Place.stance : Place → Stance
  | .queued => .queued
  | .washing _ => .away
  | .apron _ _ => .away
  | .transit _ _ _ _ => .away
  | .parked lane pos => .berthed lane pos false
  | .shunting lane pos => .berthed lane pos true
  | .shuntingBetween => .between
  | .released lane pos => .berthed lane pos false

def Stance.berth? : Stance → Option (Nat × Nat)
  | .berthed lane pos _ => some (lane, pos)
  | _ => none

@[simp] theorem Stance.berth?_queued : Stance.queued.berth? = none := rfl
@[simp] theorem Stance.berth?_away : Stance.away.berth? = none := rfl
@[simp] theorem Stance.berth?_between : Stance.between.berth? = none := rfl
@[simp] theorem Stance.berth?_berthed (n p : Nat) (b : Bool) : (Stance.berthed n p b).berth? = some (n, p) := rfl

/-- What the view keeps of a bus record. -/
structure Spot where
  id : Nat
  fleet : Option Nat
  stance : Stance

/-- What the view keeps of a lane. -/
structure Site where
  number : Nat
  kind : LaneKind
  size : Nat
  reservations : List Reservation
  holds : List OfferHold

/-- What the view keeps of an open offer. -/
structure OfferMark where
  caller : Nat
  seq : Nat
  lane : Nat
  withdrawn : Bool

/-- What the view keeps of a shunt order: its fleet and how its record stands. -/
structure ShuntMark where
  fleet : Nat
  stance : Stance

/-- What the soundness of the yard is about. -/
structure View where
  loading : Bool
  berthed : Bool
  nextId : Nat
  spots : List Spot
  sites : List Site
  offers : List OfferMark
  shunts : List ShuntMark
  called : Option Nat

def Bus.spot (b : Bus) : Spot := ⟨b.id, b.fleet, b.place.stance⟩
def Lane.site (l : Lane) : Site := ⟨l.number, l.kind, l.size, l.reservations, l.holds⟩
def OfferRecord.mark (o : OfferRecord) : OfferMark := ⟨o.caller, o.call.seq, o.lane, o.withdrawn⟩
def ShuntOrder.mark (o : ShuntOrder) : ShuntMark :=
  ⟨o.fleet, match o.phase with | .atFrom => .berthed o.fromLane o.fromPos true | .between => .between⟩

def State.view (s : State) : View where
  loading := s.node.state == .loading
  berthed := s.cfg.lanes.all (fun c => !c.berths.isEmpty)
  nextId := s.buses.nextId
  spots := s.buses.records.map Bus.spot
  sites := s.lanes.map Lane.site
  offers := s.alloc.offers.map OfferRecord.mark
  shunts := s.departures.shunts.map ShuntOrder.mark
  called := s.wash.called

def Site.promised (l : Site) : Nat := l.reservations.length + l.holds.length

/-- A record stands at position `p` of lane `n`. -/
def stands (spots : List Spot) (n p : Nat) : Prop := ∃ b ∈ spots, b.stance.berth? = some (n, p)

/-! ### The invariant -/

/-- What the middle of a command may leave undone: lanes with promises over their room, lanes with a broken stack, fleets
whose shunt order has lost its record. -/
structure Slack where
  excess : Nat → Nat
  broken : Nat → Prop
  loose : Nat → Prop

/-- Nothing undone. -/
def Slack.none : Slack := ⟨fun _ => 0, fun _ => False, fun _ => False⟩

/-- The yard is sound up to a slack, and its records have distinct handles and fleets (R3, R5, R8, R28, R30, R53, R67, R173). -/
structure View.Tidy (x : Slack) (v : View) : Prop where
  ids : (v.spots.map (·.id)).Nodup
  fresh : ∀ b ∈ v.spots, b.id < v.nextId
  fleets : ∀ a ∈ v.spots, ∀ b ∈ v.spots, ∀ f, a.fleet = some f → b.fleet = some f → a.id = b.id
  apart : ∀ a ∈ v.spots, ∀ b ∈ v.spots, ∀ k, a.stance.berth? = some k → b.stance.berth? = some k → a.id = b.id
  homes : ∀ b ∈ v.spots, ∀ n p, b.stance.berth? = some (n, p) → ∃ l ∈ v.sites, l.number = n ∧ 1 ≤ p ∧ p ≤ l.size
  numbers : (v.sites.map (·.number)).Nodup
  berthed : v.berthed = true
  sizes : ∀ l ∈ v.sites, 1 ≤ l.size
  rooms : ∀ l ∈ v.sites, roomFor l.kind l.size (l.promised - x.excess l.number) (stands v.spots l.number)
  whole : ∀ l ∈ v.sites, ¬ x.broken l.number → unbroken l.kind l.size (stands v.spots l.number)
  callers : (v.offers.map (·.caller)).Nodup
  offers : ∀ o ∈ v.offers, o.withdrawn = false → ∃ l ∈ v.sites, l.number = o.lane ∧ ⟨o.caller, o.seq⟩ ∈ l.holds
  orders : (v.shunts.map (·.fleet)).Nodup
  shunts : ∀ o ∈ v.shunts, ¬ x.loose o.fleet → ∃ b ∈ v.spots, b.fleet = some o.fleet ∧ b.stance = o.stance
  called : ∀ f, v.called = some f → ∃ b ∈ v.spots, b.fleet = some f ∧ b.stance = .queued
  loading : v.loading = true → v.spots = [] ∧ v.offers = [] ∧ v.shunts = []

variable {x : Slack} {v : View}

theorem View.Tidy.same (h : v.Tidy x) {a b : Spot} (ha : a ∈ v.spots) (hb : b ∈ v.spots) (e : a.id = b.id) : a = b :=
  List.inj_on_of_nodup_map h.ids ha hb e

theorem View.Tidy.awake (h : v.Tidy x) {b : Spot} (hb : b ∈ v.spots) : v.loading = false := by
  cases hl : v.loading with
  | false => rfl
  | true => simp [(h.loading hl).1] at hb

/-- More slack leaves the view tidy. -/
theorem View.Tidy.weaken (h : v.Tidy x) {y : Slack} (ho : ∀ n, x.excess n ≤ y.excess n) (hb : ∀ n, x.broken n → y.broken n)
    (hl : ∀ f, x.loose f → y.loose f) : v.Tidy y where
  ids := h.ids
  fresh := h.fresh
  fleets := h.fleets
  apart := h.apart
  homes := h.homes
  numbers := h.numbers
  berthed := h.berthed
  sizes := h.sizes
  rooms := fun l hm => roomFor_mono (Nat.sub_le_sub_left (ho _) _) (fun _ => id) (h.rooms l hm)
  whole := fun l hm hn => h.whole l hm (fun hx => hn (hb _ hx))
  callers := h.callers
  offers := h.offers
  orders := h.orders
  shunts := fun o hm hn => h.shunts o hm (fun hx => hn (hl _ hx))
  called := h.called
  loading := h.loading

/-! ### Lanes and offers -/

/-- The lanes' promises and the offers changed: what is promised stays within the room, and every standing offer has its
hold. -/
theorem View.Tidy.promise (h : v.Tidy x) (e : Nat → Nat) (g : Site → Site) (os : List OfferMark)
    (hg : ∀ l, (g l).number = l.number ∧ (g l).kind = l.kind ∧ (g l).size = l.size)
    (hr : ∀ l ∈ v.sites, roomFor l.kind l.size ((g l).promised - e l.number) (stands v.spots l.number))
    (hc : (os.map (·.caller)).Nodup)
    (ho : ∀ o ∈ os, o.withdrawn = false → ∃ l ∈ v.sites, l.number = o.lane ∧ ⟨o.caller, o.seq⟩ ∈ (g l).holds)
    (hl : v.loading = true → os = []) :
    View.Tidy { x with excess := e } { v with sites := v.sites.map g, offers := os } where
  ids := h.ids
  fresh := h.fresh
  fleets := h.fleets
  apart := h.apart
  homes := fun b hb n p hp => by
    obtain ⟨l, hm, hn, h1, h2⟩ := h.homes b hb n p hp
    exact ⟨g l, List.mem_map_of_mem hm, (hg l).1.trans hn, h1, by rw [(hg l).2.2]; exact h2⟩
  numbers := by simpa [List.map_map, Function.comp_def, (hg _).1] using h.numbers
  berthed := h.berthed
  sizes := fun l hm => by
    obtain ⟨m, hv, rfl⟩ := List.mem_map.mp hm
    rw [(hg m).2.2]
    exact h.sizes m hv
  rooms := fun l hm => by
    obtain ⟨m, hv, rfl⟩ := List.mem_map.mp hm
    rw [(hg m).2.2, (hg m).2.1, (hg m).1]
    exact hr m hv
  whole := fun l hm hn => by
    obtain ⟨m, hv, rfl⟩ := List.mem_map.mp hm
    rw [(hg m).2.2, (hg m).2.1, (hg m).1]
    exact h.whole m hv ((hg m).1 ▸ hn)
  callers := hc
  offers := fun o hm hw => by
    obtain ⟨l, hl, hn, hh⟩ := ho o hm hw
    exact ⟨g l, List.mem_map_of_mem hl, (hg l).1.trans hn, hh⟩
  orders := h.orders
  shunts := h.shunts
  called := h.called
  loading := fun a => ⟨(h.loading a).1, hl a, (h.loading a).2.2⟩

/-- Promises given up keep the view tidy where no hold goes. -/
theorem View.Tidy.unpromise (h : v.Tidy x) (g : Site → Site)
    (hg : ∀ l, (g l).number = l.number ∧ (g l).kind = l.kind ∧ (g l).size = l.size)
    (hp : ∀ l, (g l).promised ≤ l.promised) (hh : ∀ l, (g l).holds = l.holds) :
    View.Tidy x { v with sites := v.sites.map g } :=
  h.promise x.excess g v.offers hg (fun l hm => roomFor_mono (Nat.sub_le_sub_right (hp l) _) (fun _ => id) (h.rooms l hm))
    h.callers (fun o ho hw => by simpa only [hh] using h.offers o ho hw) (fun e => (h.loading e).2.1)

/-! ### Records -/

/-- The record of a handle takes another stance. -/
def View.setStance (i : Nat) (st : Stance) (v : View) : View :=
  { v with spots := v.spots.map (fun b => if b.id == i then { b with stance := st } else b) }
/-- The record of a handle goes. -/
def View.remove (i : Nat) (v : View) : View := { v with spots := v.spots.filter (fun b => b.id != i) }
/-- A record joins. -/
def View.add (fleet : Option Nat) (st : Stance) (v : View) : View :=
  { v with spots := v.spots ++ [⟨v.nextId, fleet, st⟩], nextId := v.nextId + 1 }

theorem View.mem_setStance (h : v.Tidy x) {c : Spot} (hc : c ∈ v.spots) (st : Stance) (b : Spot) :
    b ∈ (v.setStance c.id st).spots ↔ b = { c with stance := st } ∨ b ∈ v.spots ∧ b.id ≠ c.id := by
  simp only [View.setStance, List.mem_map]
  constructor
  · rintro ⟨a, ha, rfl⟩
    split
    · rename_i e
      exact Or.inl (by rw [h.same ha hc (by simpa using e)])
    · rename_i e
      exact Or.inr ⟨ha, by simpa using e⟩
  · rintro (rfl | ⟨hb, hn⟩)
    · exact ⟨c, hc, by simp⟩
    · exact ⟨b, hb, by simp [hn]⟩

/-- After a move a position is occupied by the record moved to it, or by one that has not left it. -/
theorem View.stands_setStance (h : v.Tidy x) {c : Spot} (hc : c ∈ v.spots) (st : Stance) (n p : Nat) :
    stands (v.setStance c.id st).spots n p ↔
      st.berth? = some (n, p) ∨ stands v.spots n p ∧ c.stance.berth? ≠ some (n, p) := by
  simp only [stands, View.mem_setStance h hc]
  constructor
  · rintro ⟨b, rfl | ⟨hb, hn⟩, hp⟩
    · exact Or.inl hp
    · exact Or.inr ⟨⟨b, hb, hp⟩, fun hcp => hn (h.apart b hb c hc _ hp hcp)⟩
  · rintro (hp | ⟨⟨b, hb, hp⟩, hne⟩)
    · exact ⟨_, Or.inl rfl, hp⟩
    · refine ⟨b, Or.inr ⟨hb, fun e => hne ?_⟩, hp⟩
      rwa [← h.same hb hc e]

theorem View.mem_remove (i : Nat) (b : Spot) : b ∈ (v.remove i).spots ↔ b ∈ v.spots ∧ b.id ≠ i := by
  simp [View.remove]

/-- After a deletion a position is occupied as before, but for that of the record deleted. -/
theorem View.stands_remove (h : v.Tidy x) {c : Spot} (hc : c ∈ v.spots) (n p : Nat) :
    stands (v.remove c.id).spots n p ↔ stands v.spots n p ∧ c.stance.berth? ≠ some (n, p) := by
  simp only [stands, View.mem_remove]
  constructor
  · rintro ⟨b, ⟨hb, hn⟩, hp⟩
    exact ⟨⟨b, hb, hp⟩, fun hcp => hn (h.apart b hb c hc _ hp hcp)⟩
  · rintro ⟨⟨b, hb, hp⟩, hne⟩
    refine ⟨b, ⟨hb, fun e => hne ?_⟩, hp⟩
    rwa [← h.same hb hc e]

theorem View.stands_add (f : Option Nat) (st : Stance) (n p : Nat) :
    stands (v.add f st).spots n p ↔ stands v.spots n p ∨ st.berth? = some (n, p) := by
  simp only [stands, View.add, List.mem_append, List.mem_singleton]
  constructor
  · rintro ⟨b, hb | rfl, hp⟩
    · exact Or.inl ⟨b, hb, hp⟩
    · exact Or.inr hp
  · rintro (⟨b, hb, hp⟩ | hp)
    · exact ⟨b, Or.inl hb, hp⟩
    · exact ⟨_, Or.inr rfl, hp⟩

/-- A position that another record may take: in a lane, and free but for the record `i` itself. -/
def View.freeFor (v : View) (i : Nat) (st : Stance) : Prop :=
  (∀ n p, st.berth? = some (n, p) → ∃ l ∈ v.sites, l.number = n ∧ 1 ≤ p ∧ p ≤ l.size) ∧
  ∀ k, st.berth? = some k → ∀ b ∈ v.spots, b.stance.berth? = some k → b.id = i

/-- A record moves: to a place that is free for it, its rooms and stacks kept or excused, its shunt order with it, and not
while it is the called record. -/
theorem View.Tidy.move (h : v.Tidy x) {c : Spot} (hc : c ∈ v.spots) (st : Stance) (y : Slack) (ms : List ShuntMark)
    (called : Option Nat) (hf : v.freeFor c.id st)
    (hr : ∀ l ∈ v.sites, roomFor l.kind l.size (l.promised - y.excess l.number) (stands (v.setStance c.id st).spots l.number))
    (hs : ∀ l ∈ v.sites, ¬ y.broken l.number → unbroken l.kind l.size (stands (v.setStance c.id st).spots l.number))
    (ho : (ms.map (·.fleet)).Nodup)
    (hm : ∀ o ∈ ms, ¬ y.loose o.fleet → c.fleet = some o.fleet ∧ o.stance = st ∨
      c.fleet ≠ some o.fleet ∧ ∃ b ∈ v.spots, b.fleet = some o.fleet ∧ b.stance = o.stance)
    (hq : ∀ f, called = some f → c.fleet ≠ some f ∧ v.called = some f) :
    View.Tidy y { v.setStance c.id st with shunts := ms, called := called } where
  ids := by
    have e : (v.setStance c.id st).spots.map (·.id) = v.spots.map (·.id) := by
      simp only [View.setStance, List.map_map]
      refine List.map_congr_left fun b _ => ?_
      dsimp only [Function.comp]
      split <;> rfl
    exact e ▸ h.ids
  fresh := fun b hb => by
    rcases (View.mem_setStance h hc st b).mp hb with rfl | ⟨hb, -⟩
    · exact h.fresh c hc
    · exact h.fresh b hb
  fleets := fun a ha b hb f hfa hfb => by
    rcases (View.mem_setStance h hc st a).mp ha with rfl | ⟨ha, -⟩ <;>
      rcases (View.mem_setStance h hc st b).mp hb with rfl | ⟨hb, -⟩
    · rfl
    · exact h.fleets c hc b hb f hfa hfb
    · exact h.fleets a ha c hc f hfa hfb
    · exact h.fleets a ha b hb f hfa hfb
  apart := fun a ha b hb k hka hkb => by
    rcases (View.mem_setStance h hc st a).mp ha with rfl | ⟨ha, -⟩ <;>
      rcases (View.mem_setStance h hc st b).mp hb with rfl | ⟨hb, -⟩
    · rfl
    · exact (hf.2 k hka b hb hkb).symm
    · exact hf.2 k hkb a ha hka
    · exact h.apart a ha b hb k hka hkb
  homes := fun b hb n p hp => by
    rcases (View.mem_setStance h hc st b).mp hb with rfl | ⟨hb, -⟩
    · exact hf.1 n p hp
    · exact h.homes b hb n p hp
  numbers := h.numbers
  berthed := h.berthed
  sizes := h.sizes
  rooms := hr
  whole := hs
  callers := h.callers
  offers := h.offers
  orders := ho
  shunts := fun o hom hl => by
    rcases hm o hom hl with ⟨hcf, e⟩ | ⟨hcf, b, hb, hbf, hbs⟩
    · exact ⟨_, (View.mem_setStance h hc st _).mpr (Or.inl rfl), hcf, e.symm⟩
    · refine ⟨b, (View.mem_setStance h hc st _).mpr (Or.inr ⟨hb, fun e => hcf ?_⟩), hbf, hbs⟩
      rwa [← h.same hb hc e]
  called := fun f hf => by
    obtain ⟨hcf, hv⟩ := hq f hf
    obtain ⟨b, hb, hbf, hbs⟩ := h.called f hv
    refine ⟨b, (View.mem_setStance h hc st _).mpr (Or.inr ⟨hb, fun e => hcf ?_⟩), hbf, hbs⟩
    rwa [← h.same hb hc e]
  loading := fun e => by
    have := h.awake hc
    simp_all [View.setStance]

/-- A record is deleted: its stack stays unbroken or is excused, its shunt order is loose, and it is not called. -/
theorem View.Tidy.remove (h : v.Tidy x) {c : Spot} (hc : c ∈ v.spots) (y : Slack) (called : Option Nat)
    (hy : ∀ n, x.excess n ≤ y.excess n)
    (hs : ∀ l ∈ v.sites, ¬ y.broken l.number → unbroken l.kind l.size (stands (v.remove c.id).spots l.number))
    (hm : ∀ o ∈ v.shunts, ¬ y.loose o.fleet → ¬ x.loose o.fleet ∧ c.fleet ≠ some o.fleet)
    (hq : ∀ f, called = some f → c.fleet ≠ some f ∧ v.called = some f) :
    View.Tidy y { v.remove c.id with called := called } where
  ids := h.ids.sublist (List.filter_sublist.map _)
  fresh := fun b hb => h.fresh b ((View.mem_remove _ _).mp hb).1
  fleets := fun a ha b hb => h.fleets a ((View.mem_remove _ _).mp ha).1 b ((View.mem_remove _ _).mp hb).1
  apart := fun a ha b hb => h.apart a ((View.mem_remove _ _).mp ha).1 b ((View.mem_remove _ _).mp hb).1
  homes := fun b hb => h.homes b ((View.mem_remove _ _).mp hb).1
  numbers := h.numbers
  berthed := h.berthed
  sizes := h.sizes
  rooms := fun l hl => roomFor_mono (Nat.sub_le_sub_left (hy _) _)
    (fun p hp => ((View.stands_remove h hc _ _).mp hp).1) (h.rooms l hl)
  whole := hs
  callers := h.callers
  offers := h.offers
  orders := h.orders
  shunts := fun o ho hl => by
    obtain ⟨hx, hcf⟩ := hm o ho hl
    obtain ⟨b, hb, hbf, hbs⟩ := h.shunts o ho hx
    refine ⟨b, (View.mem_remove _ _).mpr ⟨hb, fun e => hcf ?_⟩, hbf, hbs⟩
    rwa [← h.same hb hc e]
  called := fun f hf => by
    obtain ⟨hcf, hv⟩ := hq f hf
    obtain ⟨b, hb, hbf, hbs⟩ := h.called f hv
    refine ⟨b, (View.mem_remove _ _).mpr ⟨hb, fun e => hcf ?_⟩, hbf, hbs⟩
    rwa [← h.same hb hc e]
  loading := fun e => by
    have := h.awake hc
    simp_all [View.remove]

/-- A record joins at a free place, for no fleet or for one that has no record. -/
theorem View.Tidy.add (h : v.Tidy x) (f : Option Nat) (st : Stance) (y : Slack) (ha : v.loading = false)
    (hn : ∀ b ∈ v.spots, ∀ g, f = some g → b.fleet ≠ some g)
    (hf : (∀ n p, st.berth? = some (n, p) → ∃ l ∈ v.sites, l.number = n ∧ 1 ≤ p ∧ p ≤ l.size) ∧
      ∀ k, st.berth? = some k → ∀ b ∈ v.spots, b.stance.berth? ≠ some k)
    (hr : ∀ l ∈ v.sites, roomFor l.kind l.size (l.promised - y.excess l.number) (stands (v.add f st).spots l.number))
    (hs : ∀ l ∈ v.sites, ¬ y.broken l.number → unbroken l.kind l.size (stands (v.add f st).spots l.number))
    (hl : ∀ g, x.loose g → y.loose g) : View.Tidy y (v.add f st) where
  ids := by
    simp only [View.add, List.map_append, List.map_cons, List.map_nil, List.nodup_append, List.mem_singleton]
    refine ⟨h.ids, by simp, ?_⟩
    rintro a ha b rfl rfl
    obtain ⟨c, hc, e⟩ := List.mem_map.mp ha
    exact Nat.lt_irrefl _ (e ▸ h.fresh c hc)
  fresh := fun b hb => by
    rcases List.mem_append.mp hb with hb | hb
    · exact Nat.lt_succ_of_lt (h.fresh b hb)
    · rw [List.mem_singleton.mp hb]
      exact Nat.lt_succ_self _
  fleets := fun a ha b hb g hga hgb => by
    rcases List.mem_append.mp ha with ha | ha <;> rcases List.mem_append.mp hb with hb | hb
    · exact h.fleets a ha b hb g hga hgb
    · rw [List.mem_singleton.mp hb] at hgb
      exact absurd hga (hn a ha g hgb)
    · rw [List.mem_singleton.mp ha] at hga
      exact absurd hgb (hn b hb g hga)
    · rw [List.mem_singleton.mp ha, List.mem_singleton.mp hb]
  apart := fun a ha b hb k hka hkb => by
    rcases List.mem_append.mp ha with ha | ha <;> rcases List.mem_append.mp hb with hb | hb
    · exact h.apart a ha b hb k hka hkb
    · rw [List.mem_singleton.mp hb] at hkb
      exact absurd hka (hf.2 k hkb a ha)
    · rw [List.mem_singleton.mp ha] at hka
      exact absurd hkb (hf.2 k hka b hb)
    · rw [List.mem_singleton.mp ha, List.mem_singleton.mp hb]
  homes := fun b hb n p hp => by
    rcases List.mem_append.mp hb with hb | hb
    · exact h.homes b hb n p hp
    · rw [List.mem_singleton.mp hb] at hp
      exact hf.1 n p hp
  numbers := h.numbers
  berthed := h.berthed
  sizes := h.sizes
  rooms := hr
  whole := hs
  callers := h.callers
  offers := h.offers
  orders := h.orders
  shunts := fun o ho hx => by
    obtain ⟨b, hb, e⟩ := h.shunts o ho (fun a => hx (hl _ a))
    exact ⟨b, List.mem_append_left _ hb, e⟩
  called := fun g hg => by
    obtain ⟨b, hb, e⟩ := h.called g hg
    exact ⟨b, List.mem_append_left _ hb, e⟩
  loading := fun e => by
    simp only [View.add] at e
    rw [ha] at e
    cases e

end Sys2Proof.Machine
end

section
/-! SUPPORT. What each operation does to the view of the yard. Most leave it as it is: those of the link, the alerts, the
runs, the chargers, the feeders and the stages. -/

namespace Sys2Proof.Machine

variable (s : State)

/-! ### Block updates -/

@[simp] theorem setNow_view (x : Nat) : (s.setNow x).view = s.view := rfl
@[simp] theorem setClock_view (x : Clock) : (s.setClock x).view = s.view := rfl
@[simp] theorem setInputs_view (x : Inputs) : (s.setInputs x).view = s.view := rfl
@[simp] theorem setLink_view (x : Link) : (s.setLink x).view = s.view := rfl
@[simp] theorem setFeeders_view (x : Feeders) : (s.setFeeders x).view = s.view := rfl
@[simp] theorem setCharging_view (x : Charging) : (s.setCharging x).view = s.view := rfl
@[simp] theorem setRuns_view (x : RunList) : (s.setRuns x).view = s.view := rfl
@[simp] theorem setOrder_view (x : Option Order) : (s.setOrder x).view = s.view := rfl
@[simp] theorem setAlerts_view (x : Alerts) : (s.setAlerts x).view = s.view := rfl
@[simp] theorem setPending_view (x : List Instr) : (s.setPending x).view = s.view := rfl
theorem setWash_view (x : Wash) : (s.setWash x).view = { s.view with called := x.called } := rfl
theorem setNode_view (x : Node) : (s.setNode x).view = { s.view with loading := x.state == .loading } := rfl
theorem setLanes_view (x : List Lane) : (s.setLanes x).view = { s.view with sites := x.map Lane.site } := rfl
theorem setAlloc_view (x : Allocator) :
    (s.setAlloc x).view = { s.view with offers := x.offers.map OfferRecord.mark } := rfl
theorem setDepartures_view (x : Departures) :
    (s.setDepartures x).view = { s.view with shunts := x.shunts.map ShuntOrder.mark } := rfl

@[simp] theorem setWash_view_same (x : Wash) (h : x.called = s.wash.called) : (s.setWash x).view = s.view := by
  rw [setWash_view, h]; rfl
@[simp] theorem setAlloc_view_same (x : Allocator) (h : x.offers = s.alloc.offers) : (s.setAlloc x).view = s.view := by
  rw [setAlloc_view, h]; rfl
@[simp] theorem setDepartures_view_same (x : Departures) (h : x.shunts = s.departures.shunts) :
    (s.setDepartures x).view = s.view := by rw [setDepartures_view, h]; rfl

variable {s}

theorem foldl_view {α : Type} (f : State → α → State) (hf : ∀ u x, (f u x).view = u.view) (l : List α) :
    (l.foldl f s).view = s.view := by
  induction l generalizing s with
  | nil => rfl
  | cons x xs ih => exact ih.trans (hf s x)

/-- Records changed in nothing that the view holds. -/
theorem mapBuses_view (f : Bus → Bus) (hf : ∀ b, (f b).spot = b.spot) :
    (s.setBuses { s.buses with records := s.buses.records.map f }).view = s.view := by
  have : (s.buses.records.map f).map Bus.spot = s.buses.records.map Bus.spot := by
    rw [List.map_map]; exact List.map_congr_left fun b _ => hf b
  simp only [State.view, State.setBuses, this]
theorem updateBus_view (i : Nat) (f : Bus → Bus) (hf : ∀ b, (f b).spot = b.spot) : (s.updateBus i f).view = s.view :=
  mapBuses_view _ (fun b => by split <;> simp [hf])
/-- Lanes changed in nothing that the view holds. -/
theorem mapLanes_view (f : Lane → Lane) (hf : ∀ l, (f l).site = l.site) : (s.setLanes (s.lanes.map f)).view = s.view := by
  have : (s.lanes.map f).map Lane.site = s.lanes.map Lane.site := by
    rw [List.map_map]; exact List.map_congr_left fun b _ => hf b
  simp only [State.view, State.setLanes, this]
theorem updateLane_view (n : Nat) (f : Lane → Lane) (hf : ∀ l, (f l).site = l.site) : (s.updateLane n f).view = s.view :=
  mapLanes_view _ (fun l => by split <;> simp [hf])

variable (s)

@[simp] theorem updateRun_view (n : Nat) (f : Run → Run) : (s.updateRun n f).view = s.view := rfl
@[simp] theorem updateCharger_view (n : Nat) (f : Charger → Charger) : (s.updateCharger n f).view = s.view := rfl
@[simp] theorem setStage_view (n : Nat) (st : StageState) (t : Option Nat) : (s.setStage n st t).view = s.view := rfl
@[simp] theorem storeAlert_view (c : AlertCode) (n : Nat) : (s.storeAlert c n).view = s.view := rfl
@[simp] theorem offerFrame_view (f : SendFrame) : (s.offerFrame f).view = s.view := by
  obtain ⟨l, a, o, e⟩ := offerFrame_only s f
  simp [e]
@[simp] theorem send_view (n : Notice) : (s.send n).view = s.view := offerFrame_view _ _
@[simp] theorem raise_view (c : AlertCode) (n : Nat) : (s.raise c n).view = s.view := by simp [State.raise]
@[simp] theorem frameEnded_view : s.frameEnded.view = s.view := rfl
@[simp] theorem idleFor_view (n : Nat) : (s.idleFor n).view = s.view := by
  unfold State.idleFor; split <;> rfl
@[simp] theorem answerLeft_view : s.answerLeft.view = s.view := by
  unfold State.answerLeft; repeat' split
  all_goals rfl
@[simp] theorem frameLost_view (f : SendFrame) : (s.frameLost f).view = s.view := by
  unfold State.frameLost; split <;> simp
@[simp] theorem emptyQueue_view : s.emptyQueue.view = s.view := by
  unfold State.emptyQueue; dsimp only; repeat' split
  all_goals rfl

/-! ### Buses and lanes -/

@[simp] theorem freeBus_view (i : Nat) : (s.freeBus i).view = s.view := updateBus_view _ _ fun _ => rfl
@[simp] theorem nameRun_view (i : Nat) (r : Run) : (s.nameRun i r).view = s.view := updateBus_view _ _ fun _ => rfl
@[simp] theorem setNeed_view (i n : Nat) : (s.setNeed i n).view = s.view := updateBus_view _ _ fun _ => rfl
@[simp] theorem repeatNeed_view (l p : Nat) : (s.repeatNeed l p).view = s.view := by
  unfold State.repeatNeed; repeat' split
  all_goals simp
@[simp] theorem markSuspect_view (l : Nat) : (s.markSuspect l).view = s.view := updateLane_view _ _ fun _ => rfl
@[simp] theorem suspectLane_view (l : Nat) : (s.suspectLane l).view = s.view := by
  unfold State.suspectLane; repeat' split
  all_goals simp
@[simp] theorem settleBerth_view (e : Bool) (l p : Nat) : (s.settleBerth e l p).view = s.view :=
  updateLane_view _ _ fun _ => rfl
@[simp] theorem markLost_view (f : Nat) : (s.markLost f).view = s.view := mapBuses_view _ fun b => by
  split
  · split
    · rename_i h
      simp [Bus.spot, h, Place.stance]
    · rfl
  · rfl
@[simp] theorem markUnreserved_view (f : Nat) : (s.markUnreserved f).view = s.view := by
  unfold State.markUnreserved
  rw [setDepartures_view]
  have : (s.departures.shunts.map (fun o => if o.fleet == f then { o with reserved := false } else o)).map ShuntOrder.mark
      = s.departures.shunts.map ShuntOrder.mark := by
    rw [List.map_map]
    refine List.map_congr_left fun o _ => ?_
    dsimp only [Function.comp]
    split <;> rfl
  rw [this]; rfl

/-- The record of a handle takes another place. -/
theorem setPlace_view (i : Nat) (p : Place) : (s.setPlace i p).view = s.view.setStance i p.stance := by
  have : (s.buses.records.map (fun b => if b.id == i then { b with place := p } else b)).map Bus.spot
      = (s.buses.records.map Bus.spot).map (fun b => if b.id == i then { b with stance := p.stance } else b) := by
    rw [List.map_map, List.map_map]
    refine List.map_congr_left fun b _ => ?_
    dsimp only [Function.comp]
    cases h : b.id == i <;> simp [Bus.spot, h]
  simp only [State.view, State.setPlace, State.updateBus, State.setBuses, View.setStance, this]
@[simp] theorem parkAt_view (i n p : Nat) : (s.parkAt i n p).view = s.view.setStance i (.berthed n p false) := by
  simp [State.parkAt, setPlace_view, Place.stance]
theorem removeBus_view (i : Nat) : (s.removeBus i).view = s.view.remove i := by
  have : (s.buses.records.filter (fun b => b.id != i)).map Bus.spot
      = (s.buses.records.map Bus.spot).filter (fun b => b.id != i) := by
    rw [List.filter_map]; rfl
  simp only [State.view, State.removeBus, State.setBuses, View.remove, this]
theorem addBus_view (f : Option Nat) (k : PlaceholderKind) (c : BusClass) (p : Place) (w : Bool) :
    (s.addBus f k c p w).view = s.view.add f p.stance := by
  have : (renumber s.buses.records).map Bus.spot = s.buses.records.map Bus.spot := by
    simp [renumber, Bus.spot]
  unfold State.addBus
  dsimp only
  split <;> simp [State.view, State.setBuses, View.add, Bus.spot, this]
theorem addNamed_view (f : Nat) (p : Place) : (s.addNamed f p).view = s.view.add (some f) p.stance := addBus_view _ _ _ _ _ _
@[simp] theorem addPlaceholder_view (n p : Nat) :
    (s.addPlaceholder n p).view = s.view.add none (.berthed n p false) := by
  simp [State.addPlaceholder, addBus_view, Place.stance]

/-- The lane of a number changed as its site changes. -/
theorem updateLane_site (n : Nat) (f : Lane → Lane) (g : Site → Site) (h : ∀ l, (f l).site = g l.site) :
    (s.updateLane n f).view = { s.view with sites := s.view.sites.map (fun l => if l.number == n then g l else l) } := by
  have : (s.lanes.map (fun l => if l.number == n then f l else l)).map Lane.site
      = (s.lanes.map Lane.site).map (fun l => if l.number == n then g l else l) := by
    rw [List.map_map, List.map_map]
    refine List.map_congr_left fun l _ => ?_
    dsimp only [Function.comp]
    have e : l.site.number = l.number := rfl
    rw [e]
    split
    · exact h l
    · rfl
  simp only [State.view, State.updateLane, State.setLanes, this]

/-! ### Wash lane -/

@[simp] theorem signalOn_view (n : Nat) : (s.signalOn n).view = s.view := by
  unfold State.signalOn; dsimp only; split <;> rfl
@[simp] theorem testOnward_view (n : Nat) : (s.testOnward n).view = s.view := by
  unfold State.testOnward; split <;> simp
@[simp] theorem testStages_view (n : Nat) : (State.testStages n s).view = s.view := by
  induction n generalizing s with
  | zero => rfl
  | succ n ih => simp [State.testStages, ih]
@[simp] theorem vacate_view (n : Nat) : (s.vacate n).view = s.view := by
  unfold State.vacate; repeat' split
  all_goals rfl
@[simp] theorem enterDwell_view (n : Nat) : (s.enterDwell n).view = s.view := rfl
@[simp] theorem enterSpinup_view (n : Nat) : (s.enterSpinup n).view = s.view := by
  unfold State.enterSpinup; split <;> rfl
@[simp] theorem enterStopped_view : s.enterStopped.view = s.view := by
  unfold State.enterStopped; split <;> rfl
@[simp] theorem enterFrostHold_view : s.enterFrostHold.view = s.view := by
  unfold State.enterFrostHold; split <;> simp
@[simp] theorem leaveApron_view (f : Nat) : (s.leaveApron f).view = s.view := rfl
@[simp] theorem resumeStage_view (n : Nat) : (s.resumeStage n).view = s.view := by
  unfold State.resumeStage; split <;> simp
theorem receiveInto_view (i n : Nat) : (s.receiveInto i n).view = s.view.setStance i .away := by
  unfold State.receiveInto; dsimp only; repeat' split
  all_goals simp [setPlace_view, Place.stance]
theorem joinApron_view (i f : Nat) : (s.joinApron i f).view = s.view.setStance i .away := by
  unfold State.joinApron
  rw [setWash_view_same]
  · simp [setPlace_view, Place.stance]
  · rfl
theorem joinUnwashed_view (i f : Nat) : (s.joinUnwashed i f).view = s.view.setStance i .away := by
  have : (s.updateBus i (fun b => { b with place := .apron false none, washed := false })).view
      = s.view.setStance i .away := by
    rw [← show (Place.apron false none).stance = Stance.away from rfl, ← setPlace_view, ← mapBuses_view (s := s.setPlace i _)
      (fun b => if b.id == i then { b with washed := false } else b) (fun b => by split <;> rfl)]
    simp only [State.setPlace, State.updateBus, State.setBuses, List.map_map]
    congr 3
    refine List.map_congr_left fun b _ => ?_
    dsimp only [Function.comp]
    split <;> simp_all
  unfold State.joinUnwashed
  rw [setWash_view_same, this]
  rfl

/-! ### Runs and claims -/

@[simp] theorem raiseFront_view (b : State) : (s.raiseFront b).view = s.view := by
  unfold State.raiseFront; repeat' split
  all_goals rfl
@[simp] theorem sendClaim_view (a b c : Nat) : (s.sendClaim a b c).view = s.view := by
  unfold State.sendClaim; split <;> simp
@[simp] theorem claimTest_view (n : Nat) : (s.claimTest n).view = s.view := by
  unfold State.claimTest State.claimRun; repeat' split
  all_goals simp
@[simp] theorem claimTests_view (b : State) (e : List Nat) : (State.claimTests b e s).view = s.view :=
  foldl_view _ (fun _ _ => claimTest_view _ _) _
@[simp] theorem keepRefresh_view (b : State) : (s.keepRefresh b).view = s.view := rfl
@[simp] theorem startRefresh_view (n : Nat) : (s.startRefresh n).view = s.view := by
  unfold State.startRefresh; repeat' split
  all_goals rfl
@[simp] theorem withdrawClaim_view (n : Nat) : (s.withdrawClaim n).view = s.view := by
  unfold State.withdrawClaim; repeat' split
  all_goals simp
@[simp] theorem withdrawClaims_view : s.withdrawClaims.view = s.view := foldl_view _ (fun _ _ => withdrawClaim_view _ _) _
@[simp] theorem giveUpRun_view (n f : Nat) : (s.giveUpRun n f).view = s.view := by
  unfold State.giveUpRun; dsimp only; repeat' split
  all_goals simp
@[simp] theorem bindBus_view (i : Nat) : (s.bindBus i).view = s.view := by
  unfold State.bindBus; dsimp only; repeat' split
  all_goals simp
@[simp] theorem bindAll_view : s.bindAll.view = s.view := foldl_view _ (fun _ _ => bindBus_view _ _) _
@[simp] theorem freeBound_view (n : Nat) : (s.freeBound n).view = s.view := by
  unfold State.freeBound; split <;> simp
@[simp] theorem runLosesRecord_view (n f : Nat) : (s.runLosesRecord n f).view = s.view := by
  unfold State.runLosesRecord; repeat' split
  all_goals simp
@[simp] theorem copyFields_view (n : Nat) : (s.copyFields n).view = s.view := by
  unfold State.copyFields; split <;> simp
@[simp] theorem replaceRun_view (f : RunFields) (r : Run) : (s.replaceRun f r).view = s.view := by
  unfold State.replaceRun; dsimp only; repeat' split
  all_goals simp
@[simp] theorem takeRun_view (f : RunFields) : (s.takeRun f).view = s.view := by
  unfold State.takeRun State.createRun; dsimp only; repeat' split
  all_goals simp
@[simp] theorem takeClaim_view (a b c d : Nat) : (s.takeClaim a b c d).view = s.view := by
  unfold State.takeClaim State.takeWithdrawal State.takeBid State.bidForMine; repeat' split
  all_goals simp
@[simp] theorem winRun_view (r : Run) (c : OwnClaim) : (s.winRun r c).view = s.view := by
  unfold State.winRun; dsimp only; repeat' split
  all_goals simp

/-! ### Power -/

@[simp] theorem lapsePlace_view (b : Nat) : (s.lapsePlace b).view = s.view := rfl
@[simp] theorem cutOver_view (w : Charger → Nat) (a : Nat → Charger → Charger) (g : Group) (l : List Nat) (n : Nat) :
    (State.cutOver w a g l n s).view = s.view := by
  induction l generalizing n s with
  | nil => rfl
  | cons b bs ih =>
    unfold State.cutOver
    dsimp only
    repeat' split
    all_goals simp [ih]
@[simp] theorem setGrant_view (g : Group) (n : Nat) : (s.setGrant g n).view = s.view := rfl
@[simp] theorem cutGroup_view (g : Group) : (s.cutGroup g).view = s.view := by
  unfold State.cutGroup; split <;> simp
@[simp] theorem followGrants_view : s.followGrants.view = s.view := by simp [State.followGrants, State.followGrant]
@[simp] theorem reviseChargers_view (b : Group → FeederState) (p : Charger → Bool) : (s.reviseChargers b p).view = s.view :=
  rfl
@[simp] theorem applyFeeder_view (g : Group) (st : FeederState) (hot : Bool) : (s.applyFeeder g st hot).view = s.view := by
  unfold State.applyFeeder; dsimp only; split <;> simp
@[simp] theorem sendDraw_view : s.sendDraw.view = s.view := send_view _ _
@[simp] theorem sendRoll_view (a : Bool) : (s.sendRoll a).view = s.view := send_view _ _
@[simp] theorem takeBoundary_view : s.takeBoundary.view = s.view := by simp [State.takeBoundary]
@[simp] theorem endPlanHold_view : s.endPlanHold.view = s.view := by simp [State.endPlanHold, State.cutPlan]
@[simp] theorem zeroChargers_view : s.zeroChargers.view = s.view := rfl
@[simp] theorem zeroAt_view (l p : Nat) : (s.zeroAt l p).view = s.view := rfl
@[simp] theorem reported_view (b : Nat) : (s.reported b).view = s.view := rfl
@[simp] theorem needAt_view (c : Charger) (f : Option Nat → Option Nat) : (s.needAt c f).view = s.view := by
  unfold State.needAt
  split
  · exact updateBus_view _ _ fun _ => rfl
  · rfl
@[simp] theorem fillAt_view (c : Charger) : (s.fillAt c).view = s.view := by
  unfold State.fillAt; split <;> rfl
@[simp] theorem updateEntry_view (n : Nat) (f : StationEntry → StationEntry) : (s.updateEntry n f).view = s.view := rfl
@[simp] theorem addEntry_view (e : StationEntry) : (s.addEntry e).view = s.view := rfl
@[simp] theorem announce_view (g : Group) : (s.announce g).view = s.view := by simp [State.announce]
@[simp] theorem takeRoll_view (n : Nat) (d : Description) (m : PerGroup Nat) : (s.takeRoll n d m).view = s.view := by
  unfold State.takeRoll; split <;> simp
@[simp] theorem answerAsk_view (a : Bool) : (s.answerAsk a).view = s.view := by
  unfold State.answerAsk; split <;> simp
@[simp] theorem takeDraw_view (n : Nat) (c p : PerGroup Nat) : (s.takeDraw n c p).view = s.view := by
  unfold State.takeDraw; dsimp only; split <;> simp
@[simp] theorem setMask_view (c : Charger) (m : Mask) : (s.setMask c m).view = s.view := by
  unfold State.setMask; dsimp only; split <;> simp
@[simp] theorem feed_view (c : Charger) (m : Mask) : (s.feed c m).view = s.view := by
  unfold State.feed; dsimp only; split <;> simp
@[simp] theorem beginListen_view : s.beginListen.view = s.view := by
  unfold State.beginListen State.announceAll; dsimp only; split <;> simp
@[simp] theorem muteFeeders_view : s.muteFeeders.view = s.view := rfl

/-! ### Calls -/

@[simp] theorem callerIdle_view : s.callerIdle.view = s.view := setAlloc_view_same _ _ rfl
@[simp] theorem takeForCall_view (a b c d : Nat) : (s.takeForCall a b c d).view = s.view := by
  unfold State.takeForCall; repeat' split
  all_goals rfl
@[simp] theorem keepTake_view (b : Bus) (f : Nat) : (s.keepTake b f).view = s.view := by
  unfold State.keepTake; repeat' split
  all_goals rfl
@[simp] theorem collectOffer_view (a b c d : Nat) : (s.collectOffer a b c d).view = s.view := by
  unfold State.collectOffer
  rw [setAlloc_view]
  have : ∀ f : OfferRecord → OfferRecord, (∀ o, (f o).mark = o.mark) →
      (s.alloc.offers.map f).map OfferRecord.mark = s.alloc.offers.map OfferRecord.mark := fun f hf => by
    rw [List.map_map]; exact List.map_congr_left fun o _ => hf o
  dsimp only
  rw [this]
  · rfl
  · intro o
    repeat' split
    all_goals rfl
@[simp] theorem foundArrived_view (a : ArrivedTake) : (s.foundArrived a).view = s.view := by
  unfold State.foundArrived; split <;> simp
@[simp] theorem endWatches_view : s.endWatches.view = s.view := mapBuses_view _ fun b => by
  split
  · rename_i h
    simp [Bus.spot, h, Place.stance]
  · rfl

/-! ### Departure -/

@[simp] theorem makeLate_view (n : Nat) (a : AlertCode) : (s.makeLate n a).view = s.view := by simp [State.makeLate]
@[simp] theorem freeReleased_view (r : Release) : (s.freeReleased r).view = s.view := by
  unfold State.freeReleased; repeat' split
  all_goals simp
@[simp] theorem freeAfterChange_view (r : Release) : (s.freeAfterChange r).view = s.view := by
  unfold State.freeAfterChange; repeat' split
  all_goals simp
@[simp] theorem lateAfter_view (a : AlertCode) (b : Bool) (n : Nat) : (s.lateAfter a b n).view = s.view := by
  unfold State.lateAfter; repeat' split
  all_goals simp
@[simp] theorem lapseRuns_view : s.lapseRuns.view = s.view := foldl_view _ (fun u n => by
  unfold State.lapseRun; repeat' split
  all_goals simp) _
@[simp] theorem latenessTests_view (n : Nat) : (State.latenessTests n s).view = s.view := by
  induction n generalizing s with
  | zero => rfl
  | succ n ih =>
    unfold State.latenessTests
    split <;> simp [ih]
@[simp] theorem clearFailed_view : s.clearFailed.view = s.view := setDepartures_view_same _ _ rfl
@[simp] theorem markFailed_view (l i : Nat) : (s.markFailed l i).view = s.view := setDepartures_view_same _ _ rfl
@[simp] theorem offerExit_view (n : Nat) : (s.offerExit n).view = s.view := setDepartures_view_same _ _ rfl
@[simp] theorem departedElsewhere_view (n : Nat) : (s.departedElsewhere n).view = s.view := by
  simp [State.departedElsewhere]
@[simp] theorem lateHeard_view (r : Run) : (s.lateHeard r).view = s.view := by
  unfold State.lateHeard; split <;> rfl

/-! ### Orders and surveys -/

@[simp] theorem clearSuspect_view (l : Nat) : (s.clearSuspect l).view = s.view :=
  updateLane_view _ _ fun _ => by split <;> rfl
@[simp] theorem surveySettle_view (l : Lane) : (s.surveySettle l).view = s.view := updateLane_view _ _ fun _ => rfl
@[simp] theorem tellSuspect_view (x : SurveyOutcome) : (s.tellSuspect x).view = s.view := by
  unfold State.tellSuspect; repeat' split
  all_goals simp
@[simp] theorem answer_view (a b : Nat) (c : AnswerCode) (n : Nat) (p : List Byte) : (s.answer a b c n p).view = s.view :=
  send_view _ _
@[simp] theorem answerCode_view (a b : Nat) (c : AnswerCode) : (s.answerCode a b c).view = s.view := send_view _ _
@[simp] theorem reportOutcome_view (x : SurveyOutcome) : (s.reportOutcome x).view = s.view := by
  unfold State.reportOutcome; dsimp only; repeat' split
  all_goals simp
@[simp] theorem beginSurvey_view (a b : Nat) (l : List Nat) : (s.beginSurvey a b l).view = s.view := by
  unfold State.beginSurvey
  rw [setOrder_view]
  exact mapLanes_view _ fun l => by split <;> rfl
@[simp] theorem receives_view : s.receives.view = s.view := rfl
@[simp] theorem withdrawFrame_view (c : FrameClass) (f : SendFrame) : (s.withdrawFrame c f).view = s.view := by
  unfold State.withdrawFrame; dsimp only; repeat' split
  all_goals simp

/-! ### Records of the view, found in the state -/

variable {s}

theorem distinct_of_view {t : State} (h : t.view = s.view) (d : s.distinct) : t.distinct := by
  have e : ∀ u : State, u.view.spots.map (·.id) = u.buses.records.map (·.id) := fun u => by
    simp [State.view, Bus.spot]
  unfold State.distinct at *
  rwa [← e, h, e]
theorem View.Tidy.distinct {x : Slack} (h : s.view.Tidy x) : s.distinct := by
  have := h.ids
  simpa [State.distinct, State.view, Bus.spot, Function.comp_def] using this

/-- The record of a handle changed in nothing that the view holds. -/
theorem updateBus_view_at (d : s.distinct) {b : Bus} (hb : b ∈ s.buses.records) (f : Bus → Bus) (hf : (f b).spot = b.spot) :
    (s.updateBus b.id f).view = s.view := by
  have : (s.buses.records.map (fun c => if c.id == b.id then f c else c)).map Bus.spot = s.buses.records.map Bus.spot := by
    rw [List.map_map]
    refine List.map_congr_left fun c hc => ?_
    dsimp only [Function.comp]
    split
    · rename_i e
      rw [id_unique d hc hb (by simpa using e), hf]
    · rfl
  simp only [State.view, State.updateBus, State.setBuses, this]
/-- A record moved within its stance. -/
theorem setPlace_view_at (d : s.distinct) {b : Bus} (hb : b ∈ s.buses.records) (p : Place) (hp : p.stance = b.place.stance) :
    (s.setPlace b.id p).view = s.view := updateBus_view_at d hb _ (by simp [Bus.spot, hp])
theorem endRelease_view (d : s.distinct) : s.endRelease.view = s.view := by
  unfold State.endRelease
  dsimp only
  split
  · rfl
  · have k := setDepartures_view_same s { s.departures with release := none } rfl
    repeat' split
    · rename_i b hb _ _ _ hp
      rw [repeatNeed_view, setPlace_view_at (distinct_of_view k d) (busOf_mem hb) _ (by rw [hp]; rfl), k]
    · exact k
    · exact k
theorem failRelease_view (d : s.distinct) (a : AlertCode) (b : Bool) : (s.failRelease a b).view = s.view := by
  unfold State.failRelease
  split
  · rfl
  · simp [endRelease_view d]
theorem beginRelease_view (d : s.distinct) (r : Run) {b : Bus} (hb : b ∈ s.buses.records) :
    (s.beginRelease r b).view = s.view := by
  unfold State.beginRelease
  dsimp only
  split
  · rename_i hp _
    exact (setDepartures_view_same _ _ rfl).trans (setPlace_view_at d hb _ (by rw [hp]; rfl))
  · rfl
theorem releaseTest_view (d : s.distinct) : s.releaseTest.view = s.view := by
  unfold State.releaseTest
  split
  · split
    · exact beginRelease_view d _ (boundTo_mem ‹_›)
    · rfl
  · rfl
theorem exitTests_view (d : s.distinct) : s.exitTests.view = s.view := by
  unfold State.exitTests
  rw [releaseTest_view (distinct_of_view (latenessTests_view _ _) d), latenessTests_view]

end Sys2Proof.Machine
end

section
/-! SUPPORT. The positions of a lane read from the view: the leaving position, the entry position and the entry room are
those of the table of R5. -/

namespace Sys2Proof.Machine

variable {s : State} {x : Slack}

/-! ### Records and lanes -/

theorem spot_mem {b : Bus} (h : b ∈ s.buses.records) : b.spot ∈ s.view.spots := List.mem_map_of_mem h
@[simp] theorem stance_berth? (b : Bus) : b.place.stance.berth? = b.berth? := by
  unfold Bus.berth?; cases b.place <;> rfl
@[simp] theorem spot_berth? (b : Bus) : b.spot.stance.berth? = b.berth? := stance_berth? b

theorem occupant_isSome_iff (n p : Nat) : (s.occupant n p).isSome = true ↔ stands s.view.spots n p := by
  simp [State.occupant, stands, State.view]
theorem laneOf_mem {n : Nat} {l : Lane} (h : s.laneOf n = some l) : l ∈ s.lanes := List.mem_of_find?_eq_some h
theorem site_mem {l : Lane} (h : l ∈ s.lanes) : l.site ∈ s.view.sites := List.mem_map_of_mem h

/-! ### Occupied positions -/

theorem mem_positions (l : Lane) (p : Nat) : p ∈ l.positions ↔ 1 ≤ p ∧ p ≤ l.size := by
  simp only [Lane.positions, List.mem_map, List.mem_range]
  constructor
  · rintro ⟨q, hq, rfl⟩
    omega
  · rintro ⟨h1, h2⟩
    exact ⟨p - 1, by omega, by omega⟩
theorem mem_occupiedPositions (l : Lane) (p : Nat) :
    p ∈ s.occupiedPositions l ↔ 1 ≤ p ∧ p ≤ l.size ∧ stands s.view.spots l.number p := by
  rw [State.occupiedPositions, List.mem_filter, mem_positions, occupant_isSome_iff, and_assoc]
theorem positions_ascend (l : Lane) : l.positions.Pairwise (· < ·) := by
  rw [Lane.positions, List.pairwise_map]
  exact List.pairwise_lt_range.imp (by omega)
theorem occupiedPositions_ascend (l : Lane) : (s.occupiedPositions l).Pairwise (· < ·) := (positions_ascend l).filter _

/-- The head of an ascending list is its least element. -/
theorem head?_ascending {ns : List Nat} (h : ns.Pairwise (· < ·)) (a : Nat) :
    ns.head? = some a ↔ a ∈ ns ∧ ∀ b ∈ ns, a ≤ b := by
  cases ns with
  | nil => simp
  | cons n ns =>
    have hn := (List.pairwise_cons.mp h).1
    simp only [List.head?_cons, Option.some.injEq, List.mem_cons]
    constructor
    · rintro rfl
      exact ⟨Or.inl rfl, fun b hb => hb.elim (fun e => e ▸ Nat.le_refl _) (fun e => Nat.le_of_lt (hn b e))⟩
    · rintro ⟨rfl | ha, hmin⟩
      · rfl
      · have := hmin n (Or.inl rfl)
        have := hn a ha
        omega
/-- The last element of an ascending list is its greatest. -/
theorem getLast?_ascending {ns : List Nat} (h : ns.Pairwise (· < ·)) (a : Nat) :
    ns.getLast? = some a ↔ a ∈ ns ∧ ∀ b ∈ ns, b ≤ a := by
  induction ns using List.reverseRecOn with
  | nil => simp
  | append_singleton ns n _ =>
    have hn := (List.pairwise_append.mp h).2.2
    simp only [List.getLast?_append, List.getLast?_singleton, Option.some_or, Option.some.injEq, List.mem_append,
      List.mem_singleton]
    constructor
    · rintro rfl
      exact ⟨Or.inr rfl, fun b hb => hb.elim (fun e => Nat.le_of_lt (hn b e n (by simp))) (fun e => e ▸ Nat.le_refl _)⟩
    · rintro ⟨ha | rfl, hmax⟩
      · have := hmax n (Or.inr rfl)
        have := hn a ha n (by simp)
        omega
      · rfl

/-- The leaving position is the first occupied one (R5). -/
theorem leavingPos_iff (l : Lane) (p : Nat) : s.leavingPos l = some p ↔
    (1 ≤ p ∧ p ≤ l.size ∧ stands s.view.spots l.number p) ∧ firstAt l.size (stands s.view.spots l.number) p := by
  simp only [State.leavingPos, head?_ascending (occupiedPositions_ascend l), mem_occupiedPositions, firstAt, and_imp]
/-- The rear-most occupied position is the last (R5). -/
theorem rearPos_iff (l : Lane) (p : Nat) : s.rearPos l = some p ↔
    (1 ≤ p ∧ p ≤ l.size ∧ stands s.view.spots l.number p) ∧
      ∀ q, 1 ≤ q → q ≤ l.size → stands s.view.spots l.number q → q ≤ p := by
  simp only [State.rearPos, getLast?_ascending (occupiedPositions_ascend l), mem_occupiedPositions, and_imp]
theorem occupiedPositions_nil_iff (l : Lane) :
    s.occupiedPositions l = [] ↔ ∀ p, 1 ≤ p → p ≤ l.size → ¬ stands s.view.spots l.number p := by
  simp only [List.eq_nil_iff_forall_not_mem, mem_occupiedPositions, not_and]
theorem entryMost_none_iff (l : Lane) :
    s.entryMost l = none ↔ ∀ p, 1 ≤ p → p ≤ l.size → ¬ stands s.view.spots l.number p := by
  rw [← occupiedPositions_nil_iff, State.entryMost, State.leavingPos, State.rearPos]
  cases l.kind <;> simp

/-- The entry room is what the table of R5 gives. -/
theorem le_entryRoom_iff (l : Lane) (c : Nat) :
    c ≤ s.entryRoom l ↔ roomFor l.kind l.size c (stands s.view.spots l.number) := by
  unfold State.entryRoom
  cases he : s.entryMost l with
  | none =>
    rw [entryMost_none_iff] at he
    have all : ∀ k, c ≤ l.size ↔ roomFor k l.size c (stands s.view.spots l.number) := fun k =>
      ⟨fun h => ⟨h, fun p h1 h2 hp => absurd hp (he p h1 h2)⟩, fun h => h.1⟩
    cases l.kind <;> exact all _
  | some k =>
    unfold State.entryMost at he
    cases hk : l.kind with
    | deadEnd =>
      simp only [hk, leavingPos_iff] at he
      obtain ⟨⟨h1, h2, h3⟩, hmin⟩ := he
      simp only [roomFor]
      constructor
      · intro h
        exact ⟨by omega, fun p hp1 hp2 hp => by have := hmin p hp1 hp2 hp; omega⟩
      · rintro ⟨-, h⟩
        have := h k h1 h2 h3
        omega
    | through =>
      simp only [hk, rearPos_iff] at he
      obtain ⟨⟨h1, h2, h3⟩, hmax⟩ := he
      simp only [roomFor]
      constructor
      · intro h
        exact ⟨by omega, fun p hp1 hp2 hp => by have := hmax p hp1 hp2 hp; omega⟩
      · rintro ⟨-, h⟩
        have := h k h1 h2 h3
        omega

/-- The entry position is that of the table of R5. -/
theorem entryPos_entryAt {l : Lane} {pos : Nat} (hl : 1 ≤ l.size) (h : s.entryPos l = some pos) :
    entryAt l.kind l.size (stands s.view.spots l.number) pos := by
  unfold State.entryPos at h
  cases he : s.entryMost l with
  | none =>
    rw [he] at h
    rw [entryMost_none_iff] at he
    cases hk : l.kind <;> simp only [hk, Option.some.injEq] at h <;> subst h
    · exact ⟨hl, Nat.le_refl _, fun p h1 h2 hp => absurd hp (he p h1 h2), Or.inl rfl⟩
    · exact ⟨Nat.le_refl _, hl, fun p h1 h2 hp => absurd hp (he p h1 h2), Or.inl rfl⟩
  | some k =>
    rw [he] at h
    unfold State.entryMost at he
    cases hk : l.kind with
    | deadEnd =>
      simp only [hk, leavingPos_iff] at he h
      obtain ⟨⟨h1, h2, h3⟩, hmin⟩ := he
      split at h
      · cases h
        refine ⟨by omega, by omega, fun p hp1 hp2 hp => ?_, Or.inr ?_⟩
        · have := hmin p hp1 hp2 hp
          omega
        · rwa [Nat.sub_add_cancel h1]
      · cases h
    | through =>
      simp only [hk, rearPos_iff] at he h
      obtain ⟨⟨h1, h2, h3⟩, hmax⟩ := he
      split at h
      · cases h
        refine ⟨by omega, by omega, fun p hp1 hp2 hp => ?_, Or.inr h3⟩
        have := hmax p hp1 hp2 hp
        omega
      · cases h

end Sys2Proof.Machine
end

section
/-! SUPPORT. What each operation that moves a record, makes a promise or ends one keeps of the yard. -/

namespace Sys2Proof.Machine

variable {s : State} {x : Slack} {v : View}

/-! ### Slack -/

/-- One promise too many in lane `n`. -/
def Slack.crowd (n : Nat) (x : Slack) : Slack :=
  { x with excess := fun m => if m = n then x.excess m + 1 else x.excess m }
/-- One promise too many less in lane `n`. -/
def Slack.ease (n : Nat) (x : Slack) : Slack :=
  { x with excess := fun m => if m = n then x.excess m - 1 else x.excess m }
/-- The stack that a record has left may be broken. -/
def Slack.gap (k : Option (Nat × Nat)) (x : Slack) : Slack := { x with broken := fun n => x.broken n ∨ ∃ p, k = some (n, p) }
/-- The shunt order of a fleet may have lost its record. -/
def Slack.lose (f : Option Nat) (x : Slack) : Slack := { x with loose := fun g => x.loose g ∨ f = some g }
/-- The shunt order of a fleet is gone. -/
def Slack.settled (f : Nat) (x : Slack) : Slack := { x with loose := fun g => x.loose g ∧ g ≠ f }

theorem View.Tidy.site_same (h : v.Tidy x) {l m : Site} (hl : l ∈ v.sites) (hm : m ∈ v.sites) (e : l.number = m.number) :
    l = m := List.inj_on_of_nodup_map h.numbers hl hm e

/-- A record that does not stand in the queue is not called. -/
theorem View.Tidy.uncalled (h : v.Tidy x) {c : Spot} (hc : c ∈ v.spots) (hs : c.stance ≠ .queued) (f : Nat)
    (hf : v.called = some f) : c.fleet ≠ some f := fun e => by
  obtain ⟨b, hb, hbf, hbs⟩ := h.called f hf
  exact hs (h.same hc hb (h.fleets c hc b hb f e hbf) ▸ hbs)

/-- The stances of a record with a shunt order. -/
def Stance.shunted : Stance → Bool
  | .berthed _ _ b => b
  | .between => true
  | .queued => false
  | .away => false

/-- A record that is not being shunted has no shunt order. -/
theorem View.Tidy.unshunted (h : s.view.Tidy x) {c : Spot} (hc : c ∈ s.view.spots) (hs : c.stance.shunted = false)
    {o : ShuntMark} (ho : o ∈ s.view.shunts) (hl : ¬ x.loose o.fleet) : c.fleet ≠ some o.fleet := fun e => by
  obtain ⟨b, hb, hbf, hbs⟩ := h.shunts o ho hl
  have hcb : c = b := h.same hc hb (h.fleets c hc b hb _ e hbf)
  obtain ⟨a, -, rfl⟩ := List.mem_map.mp ho
  have : a.mark.stance.shunted = true := by
    unfold ShuntOrder.mark
    cases a.phase <;> rfl
  rw [← hbs, ← hcb, hs] at this
  cases this

/-! ### Entering and leaving -/

/-- The rooms with one record more at the entry position of lane `l`. -/
theorem View.Tidy.room_entered (h : v.Tidy x) {l : Site} (hl : l ∈ v.sites) {pos : Nat}
    (e : entryAt l.kind l.size (stands v.spots l.number) pos) {m : Site} (hm : m ∈ v.sites) :
    roomFor m.kind m.size (m.promised - (x.crowd l.number).excess m.number)
      (fun p => m.number = l.number ∧ p = pos ∨ stands v.spots m.number p) := by
  by_cases hn : m.number = l.number
  · have := h.site_same hm hl hn
    subst this
    refine roomFor_mono ?_ (fun p hp => hp.imp_left And.right) (roomFor_enter e (h.rooms m hm))
    simp only [Slack.crowd, if_true]
    omega
  · refine roomFor_mono ?_ (fun p hp => hp.resolve_left (fun a => hn a.1)) (h.rooms m hm)
    simp [Slack.crowd, hn]
/-- The stacks with one record more at the entry position of lane `l`. -/
theorem View.Tidy.whole_entered (h : v.Tidy x) {l : Site} (hl : l ∈ v.sites) {pos : Nat}
    (e : entryAt l.kind l.size (stands v.spots l.number) pos) {m : Site} (hm : m ∈ v.sites) (hb : ¬ x.broken m.number) :
    unbroken m.kind m.size (fun p => m.number = l.number ∧ p = pos ∨ stands v.spots m.number p) := by
  by_cases hn : m.number = l.number
  · have := h.site_same hm hl hn
    subst this
    exact unbroken_congr (fun p => by simp) (unbroken_enter e (h.whole m hm hb))
  · exact unbroken_congr (fun p => by simp [hn]) (h.whole m hm hb)

/-- A record is parked at the entry position of a lane (R11, R12). -/
theorem View.Tidy.enter (h : v.Tidy x) {c : Spot} (hc : c ∈ v.spots) {l : Site} (hl : l ∈ v.sites) {pos : Nat}
    (e : entryAt l.kind l.size (stands v.spots l.number) pos) (hq : ∀ f, v.called = some f → c.fleet ≠ some f) :
    View.Tidy (((x.crowd l.number).gap c.stance.berth?).lose c.fleet)
      (v.setStance c.id (.berthed l.number pos false)) := by
  have hst := View.stands_setStance h hc (.berthed l.number pos false)
  refine h.move hc (.berthed l.number pos false) _ v.shunts v.called ⟨?_, ?_⟩ (fun m hm => ?_) (fun m hm hb => ?_) h.orders
    (fun o ho hn => ?_) (fun f hf => ⟨hq f hf, hf⟩)
  · rintro n p hk
    obtain ⟨rfl, rfl⟩ := by simpa using hk
    exact ⟨l, hl, rfl, e.1, e.2.1⟩
  · rintro k hk b hb hbk
    obtain rfl := by simpa using hk
    exact absurd ⟨b, hb, hbk⟩ (entryAt_free e)
  · refine roomFor_mono (Nat.le_refl _) (fun p hp => ?_) (h.room_entered hl e hm)
    rcases (hst _ _).mp hp with hp | hp
    · obtain ⟨h1, h2⟩ := by simpa using hp
      exact Or.inl ⟨h1.symm, h2.symm⟩
    · exact Or.inr hp.1
  · simp only [Slack.lose, Slack.gap, Slack.crowd, not_or, not_exists] at hb
    refine unbroken_congr (fun p => ?_) (h.whole_entered hl e hm hb.1)
    rw [hst]
    simp only [Stance.berth?_berthed, Option.some.injEq, Prod.mk.injEq]
    exact or_congr (by rw [eq_comm, @eq_comm _ p]) (by simp [hb.2])
  · simp only [Slack.lose, not_or] at hn
    exact Or.inr ⟨hn.2, h.shunts o ho hn.1⟩

/-- The stack of a lane is found whole. -/
theorem View.Tidy.mend (h : v.Tidy x) (y : Nat → Prop)
    (hs : ∀ l ∈ v.sites, x.broken l.number → ¬ y l.number → unbroken l.kind l.size (stands v.spots l.number)) :
    v.Tidy { x with broken := y } :=
  { h with
    whole := fun l hl hn => by
      by_cases hb : x.broken l.number
      · exact hs l hl hb hn
      · exact h.whole l hl hb }

/-- What a lane's stack becomes when the record at its leaving position goes. -/
theorem View.Tidy.whole_left (h : v.Tidy x) {n q : Nat} {k : Option (Nat × Nat)} (hk : k = some (n, q))
    (hf : ∀ l ∈ v.sites, l.number = n → firstAt l.size (stands v.spots n) q) {m : Site} (hm : m ∈ v.sites)
    (hb : ¬ x.broken m.number) :
    unbroken m.kind m.size (fun p => stands v.spots m.number p ∧ k ≠ some (m.number, p)) := by
  subst hk
  by_cases hn : m.number = n
  · subst hn
    exact unbroken_congr (fun p => by simp [eq_comm]) (unbroken_leave (hf m hm rfl) (h.whole m hm hb))
  · exact unbroken_congr (fun p => by simp [Ne.symm hn]) (h.whole m hm hb)

/-- A record takes another stance at no position or at its own; a record that stood at a position left it last or first. -/
theorem View.Tidy.standing (h : v.Tidy x) {c : Spot} (hc : c ∈ v.spots) (st : Stance) (ms : List ShuntMark)
    (called : Option Nat)
    (hk : st.berth? = c.stance.berth? ∨ st.berth? = none ∧ ∀ n q, c.stance.berth? = some (n, q) →
      ∀ l ∈ v.sites, l.number = n → firstAt l.size (stands v.spots n) q)
    (ho : (ms.map (·.fleet)).Nodup)
    (hm : ∀ o ∈ ms, ¬ x.loose o.fleet → c.fleet = some o.fleet ∧ o.stance = st ∨
      c.fleet ≠ some o.fleet ∧ ∃ b ∈ v.spots, b.fleet = some o.fleet ∧ b.stance = o.stance)
    (hq : ∀ f, called = some f → c.fleet ≠ some f ∧ v.called = some f) :
    View.Tidy x { v.setStance c.id st with shunts := ms, called := called } := by
  have hst := View.stands_setStance h hc st
  have sub : ∀ n p, stands (v.setStance c.id st).spots n p → stands v.spots n p := by
    intro n p hp
    rcases (hst n p).mp hp with hp | hp
    · rcases hk with e | ⟨e, -⟩
      · exact ⟨c, hc, e ▸ hp⟩
      · rw [e] at hp
        cases hp
    · exact hp.1
  refine h.move hc st x ms called ⟨fun n p hp => ?_, fun k hp b hb hbk => ?_⟩
    (fun l hl => roomFor_mono (Nat.le_refl _) (sub _) (h.rooms l hl)) (fun l hl hb => ?_) ho hm hq
  · rcases hk with e | ⟨e, -⟩
    · exact h.homes c hc n p (e ▸ hp)
    · rw [e] at hp
      cases hp
  · rcases hk with e | ⟨e, -⟩
    · exact h.apart b hb c hc k hbk (e ▸ hp)
    · rw [e] at hp
      cases hp
  · have same : st.berth? = c.stance.berth? → unbroken l.kind l.size (stands (v.setStance c.id st).spots l.number) := by
      intro e
      refine unbroken_congr (fun p => ?_) (h.whole l hl hb)
      rw [hst, e]
      constructor
      · intro hp
        by_cases hcp : c.stance.berth? = some (l.number, p)
        · exact Or.inl hcp
        · exact Or.inr ⟨hp, hcp⟩
      · rintro (hp | hp)
        · exact ⟨c, hc, hp⟩
        · exact hp.1
    rcases hk with e | ⟨e, hf⟩
    · exact same e
    · cases hcb : c.stance.berth? with
      | none => exact same (e.trans hcb.symm)
      | some k =>
        refine unbroken_congr (fun p => ?_) (h.whole_left hcb (hf _ _ hcb) hl hb)
        rw [hst, e]
        simp

/-! ### Promises -/

/-- A change of the sites of one number. -/
def atSite (n : Nat) (g : Site → Site) (l : Site) : Site := if l.number == n then g l else l

def Site.unreserve (r : Reservation) (l : Site) : Site := { l with reservations := removeFirst (fun y => y == r) l.reservations }
def Site.unhold (k : OfferHold) (l : Site) : Site := { l with holds := removeFirst (fun y => y == k) l.holds }
def Site.reserve (r : Reservation) (l : Site) : Site := { l with reservations := l.reservations ++ [r] }
def Site.hold (k : OfferHold) (l : Site) : Site := { l with holds := l.holds ++ [k] }

theorem atSite_fixed (n : Nat) (g : Site → Site)
    (hg : ∀ l, (g l).number = l.number ∧ (g l).kind = l.kind ∧ (g l).size = l.size) (l : Site) :
    (atSite n g l).number = l.number ∧ (atSite n g l).kind = l.kind ∧ (atSite n g l).size = l.size := by
  unfold atSite
  split
  · exact hg l
  · exact ⟨rfl, rfl, rfl⟩

theorem releaseReservation_view (n : Nat) (r : Reservation) : (s.releaseReservation n r).view =
    { s.view with sites := s.view.sites.map (atSite n (Site.unreserve r)) } := updateLane_site _ _ _ _ fun _ => rfl
theorem addReservation_view (n : Nat) (r : Reservation) : (s.addReservation n r).view =
    { s.view with sites := s.view.sites.map (atSite n (Site.reserve r)) } := updateLane_site _ _ _ _ fun _ => rfl
theorem releaseHold_view (n : Nat) (k : OfferHold) : (s.releaseHold n k).view =
    { s.view with sites := s.view.sites.map (atSite n (Site.unhold k)) } := updateLane_site _ _ _ _ fun _ => rfl
theorem addHold_view (n : Nat) (k : OfferHold) : (s.addHold n k).view =
    { s.view with sites := s.view.sites.map (atSite n (Site.hold k)) } := updateLane_site _ _ _ _ fun _ => rfl

theorem removeFirst_length_le {α : Type} (p : α → Bool) (l : List α) : (removeFirst p l).length ≤ l.length := by
  induction l with
  | nil => exact Nat.le_refl _
  | cons a as ih =>
    simp only [removeFirst]
    split
    · simp
    · simpa using ih
theorem mem_removeFirst_of_ne {α : Type} (p : α → Bool) {l : List α} {a : α} (h : a ∈ l) (hp : p a = false) :
    a ∈ removeFirst p l := by
  induction l with
  | nil => cases h
  | cons b bs ih =>
    simp only [removeFirst]
    rcases List.mem_cons.mp h with rfl | h
    · simp [hp]
    · split
      · exact h
      · exact List.mem_cons_of_mem _ (ih h)

theorem atSite_unreserve_promised (n : Nat) (r : Reservation) (l : Site) :
    (atSite n (Site.unreserve r) l).promised ≤ l.promised := by
  unfold atSite
  split
  · exact Nat.add_le_add_right (removeFirst_length_le _ _) _
  · exact Nat.le_refl _
theorem atSite_unhold_promised (n : Nat) (k : OfferHold) (l : Site) :
    (atSite n (Site.unhold k) l).promised ≤ l.promised := by
  unfold atSite
  split
  · exact Nat.add_le_add_left (removeFirst_length_le _ _) _
  · exact Nat.le_refl _

theorem releaseReservation_tidy (h : s.view.Tidy x) (n : Nat) (r : Reservation) :
    (s.releaseReservation n r).view.Tidy x := by
  rw [releaseReservation_view]
  exact h.unpromise _ (atSite_fixed n _ fun _ => ⟨rfl, rfl, rfl⟩) (atSite_unreserve_promised n r)
    (fun l => by unfold atSite; split <;> rfl)
/-- A reservation that stands is consumed: the lane is less crowded by one (R11). -/
theorem consumeReservation_tidy (h : s.view.Tidy x) {l : Site} (hl : l ∈ s.view.sites) (r : Reservation)
    (hr : l.reservations.contains r = true) : (s.releaseReservation l.number r).view.Tidy (x.ease l.number) := by
  rw [releaseReservation_view]
  refine h.promise _ _ _ (atSite_fixed l.number _ fun _ => ⟨rfl, rfl, rfl⟩) (fun m hm => ?_) h.callers
    (fun o ho hw => ?_) (fun e => (h.loading e).2.1)
  · refine roomFor_mono ?_ (fun _ => id) (h.rooms m hm)
    have hle := atSite_unreserve_promised l.number r m
    by_cases hn : m.number = l.number
    · have := h.site_same hm hl hn
      subst this
      have hlen := removeFirst_length (fun y => y == r) m.reservations (by simpa using hr)
      simp only [atSite, Site.unreserve, Site.promised, beq_self_eq_true, if_true]
      omega
    · simp only [hn, if_false]
      omega
  · obtain ⟨m, hm, hn, hh⟩ := h.offers o ho hw
    exact ⟨m, hm, hn, by unfold atSite; split <;> exact hh⟩
theorem dropReservations_view (f : Nat) : (s.dropReservations f).view = { s.view with sites := s.view.sites.map (fun l =>
    { l with reservations := l.reservations.filter (fun r => r.fleet != f) }) } := by
  simp [State.view, State.dropReservations, State.setLanes, Lane.site, Lane.size, Function.comp_def]
theorem dropReservations_tidy (h : s.view.Tidy x) (f : Nat) : (s.dropReservations f).view.Tidy x := by
  rw [dropReservations_view]
  exact h.unpromise _ (fun _ => ⟨rfl, rfl, rfl⟩)
    (fun l => Nat.add_le_add_right (List.length_filter_le _ _) _) (fun _ => rfl)

/-- A hold is released with the standing offers that it was for (R70, R73 to R75). -/
theorem View.Tidy.unhold (h : v.Tidy x) (n : Nat) (k : OfferHold) (os : List OfferMark) (hc : (os.map (·.caller)).Nodup)
    (ho : ∀ o ∈ os, o.withdrawn = false → o ∈ v.offers ∧ (⟨o.caller, o.seq⟩ : OfferHold) ≠ k)
    (hl : v.loading = true → os = []) :
    View.Tidy x { v with sites := v.sites.map (atSite n (Site.unhold k)), offers := os } := by
  refine h.promise x.excess _ os (atSite_fixed n _ fun _ => ⟨rfl, rfl, rfl⟩) (fun m hm => ?_) hc (fun o hm hw => ?_) hl
  · exact roomFor_mono (Nat.sub_le_sub_right (atSite_unhold_promised n k m) _) (fun _ => id) (h.rooms m hm)
  · obtain ⟨hv, hk⟩ := ho o hm hw
    obtain ⟨l, hlm, hn, hh⟩ := h.offers o hv hw
    refine ⟨l, hlm, hn, ?_⟩
    unfold atSite
    split
    · exact mem_removeFirst_of_ne _ hh (by simpa using hk)
    · exact hh

theorem removeOffer_view (c : Nat) : (s.removeOffer c).view =
    { s.view with offers := s.view.offers.filter (fun o => o.caller != c) } := by
  unfold State.removeOffer
  rw [setAlloc_view]
  simp only [State.view, List.filter_map]
  rfl
theorem offers_filter_callers (h : v.Tidy x) (c : Nat) :
    ((v.offers.filter (fun o => o.caller != c)).map (·.caller)).Nodup := h.callers.sublist (List.filter_sublist.map _)
theorem removeOffer_tidy (h : s.view.Tidy x) (c : Nat) : (s.removeOffer c).view.Tidy x := by
  rw [removeOffer_view]
  exact { h with
    callers := offers_filter_callers h c
    offers := fun o ho => h.offers o (List.mem_filter.mp ho).1
    loading := fun e => ⟨(h.loading e).1, by simp [(h.loading e).2.1], (h.loading e).2.2⟩ }
/-- A hold for a caller that has no offer is released. -/
theorem releaseHold_tidy (h : s.view.Tidy x) (n : Nat) (k : OfferHold) (hk : ∀ o ∈ s.view.offers, o.caller ≠ k.caller) :
    (s.releaseHold n k).view.Tidy x := by
  rw [releaseHold_view]
  exact h.unhold n k s.view.offers h.callers (fun o ho _ => ⟨ho, fun e => hk o ho (congrArg OfferHold.caller e)⟩)
    (fun e => (h.loading e).2.1)
theorem offerOf_caller {c : Nat} {o : OfferRecord} (h : s.offerOf c = some o) : o ∈ s.alloc.offers ∧ o.caller = c :=
  ⟨List.mem_of_find?_eq_some h, by simpa using List.find?_some h⟩
theorem mem_removeOffer {c : Nat} {o : OfferMark} (h : o ∈ (s.removeOffer c).view.offers) : o ∈ s.view.offers ∧ o.caller ≠ c := by
  rw [removeOffer_view] at h
  simpa using h
theorem dropOffer_tidy (h : s.view.Tidy x) (c : Nat) : (s.dropOffer c).view.Tidy x := by
  unfold State.dropOffer
  split
  · rename_i o ho
    obtain ⟨-, rfl⟩ := offerOf_caller ho
    rw [removeOffer_view, releaseHold_view]
    refine h.unhold _ _ _ (offers_filter_callers h _) (fun p hp _ => ?_) (fun e => by simp [(h.loading e).2.1])
    obtain ⟨hp, hn⟩ := List.mem_filter.mp hp
    exact ⟨hp, fun e => by simp [show p.caller = o.caller from congrArg OfferHold.caller e] at hn⟩
  · exact h
theorem dropOffer_gone (c : Nat) : ∀ o ∈ (s.dropOffer c).view.offers, o.caller ≠ c := by
  intro o ho
  unfold State.dropOffer at ho
  split at ho
  · exact (mem_removeOffer ho).2
  · rename_i hn
    obtain ⟨a, ha, rfl⟩ := List.mem_map.mp ho
    exact fun e => List.find?_eq_none.mp hn a ha (by simpa [OfferRecord.mark] using e)
theorem endCall_tidy (h : s.view.Tidy x) : s.endCall.view.Tidy x :=
  dropOffer_tidy (s := s.callerIdle) (by simpa using h) _
theorem dropAllOffers_tidy (h : s.view.Tidy x) : s.dropAllOffers.view.Tidy x := by
  unfold State.dropAllOffers
  generalize s.alloc.offers.map (·.caller) = cs
  induction cs generalizing s with
  | nil => exact h
  | cons c cs ih => exact ih (dropOffer_tidy h c)

/-! ### The room test (R14) -/

theorem promised_site (l : Lane) : l.site.promised = l.promisedCount := rfl

/-- One promise more than none is cancelled (R14). -/
theorem cancelOne_tidy (h : s.view.Tidy x) {l : Lane} (hl : l ∈ s.lanes) (hp : 0 < l.promisedCount) :
    (s.cancelOne l).view.Tidy (x.ease l.number) := by
  have cancelled : ∀ r ∈ l.reservations, (s.releaseReservation l.number r).view.Tidy (x.ease l.number) :=
    fun r hr => consumeReservation_tidy h (site_mem hl) r (by simpa [Lane.site] using hr)
  unfold State.cancelOne
  split
  · rename_i r hr
    simpa using cancelled r (List.mem_of_find?_eq_some hr)
  · rename_i k _ _ hk
    have e : ((s.releaseHold l.number k).markWithdrawn k).view =
        { s.view with
          sites := s.view.sites.map (atSite l.number (Site.unhold k))
          offers := s.view.offers.map (fun o => if o.caller == k.caller && o.seq == k.seq then { o with withdrawn := true } else o) } := by
      unfold State.markWithdrawn
      rw [setAlloc_view, releaseHold_view]
      simp only [State.view, List.map_map]
      congr 1
      refine List.map_congr_left fun o _ => ?_
      dsimp only [Function.comp]
      change _ = if (o.caller == k.caller && o.call.seq == k.seq) = true then _ else _
      split <;> rfl
    rw [e]
    refine h.promise _ _ _ (atSite_fixed l.number _ fun _ => ⟨rfl, rfl, rfl⟩) (fun m hm => ?_) ?_ (fun o ho hw => ?_)
      (fun e => by simp [(h.loading e).2.1])
    · refine roomFor_mono ?_ (fun _ => id) (h.rooms m hm)
      have hle := atSite_unhold_promised l.number k m
      by_cases hn : m.number = l.number
      · have := h.site_same hm (site_mem hl) hn
        subst this
        have hlen := removeFirst_length (fun y => y == k) l.holds (by simp [hk])
        simp only [Lane.site, atSite, Site.unhold, Site.promised, beq_self_eq_true, if_true]
        omega
      · simp only [hn, if_false]
        omega
    · rw [List.map_map]
      refine Eq.mp (congrArg List.Nodup (List.map_congr_left fun o _ => ?_)) h.callers
      dsimp only [Function.comp]
      split <;> rfl
    · obtain ⟨a, ha, rfl⟩ := List.mem_map.mp ho
      split at hw
      · cases hw
      · rename_i hne
        obtain ⟨m, hm, hn, hh⟩ := h.offers a ha hw
        rw [if_neg hne]
        refine ⟨m, hm, hn, ?_⟩
        unfold atSite
        split
        · refine mem_removeFirst_of_ne _ hh ?_
          refine Bool.eq_false_iff.mpr fun e => hne ?_
          simp [← show (⟨a.caller, a.seq⟩ : OfferHold) = k by simpa using e]
        · exact hh
  · rename_i r _ _ _ hr
    simpa using cancelled r (by simp [hr])
  · rename_i hk hr
    simp [Lane.promisedCount, hk, hr] at hp

/-- The room test leaves its lane less crowded by one (R14). -/
theorem roomTest_tidy (h : s.view.Tidy x) (n : Nat) : (s.roomTest n).view.Tidy (x.ease n) := by
  have eased : (∀ l ∈ s.lanes, l.number = n → l.promisedCount ≤ s.entryRoom l) → s.view.Tidy (x.ease n) := fun hr =>
    { h with
      rooms := fun m hm => by
        obtain ⟨l, hl, rfl⟩ := List.mem_map.mp hm
        by_cases hn : l.number = n
        · exact roomFor_mono (Nat.sub_le _ _) (fun _ => id) ((le_entryRoom_iff l _).mp (hr l hl hn))
        · have := h.rooms _ hm
          simpa [Slack.ease, Lane.site, hn] using this }
  unfold State.roomTest
  split
  · rename_i l hl
    have hn := laneOf_number hl
    split
    · exact hn ▸ cancelOne_tidy h (laneOf_mem hl) (by omega)
    · refine eased fun m hm hmn => ?_
      have : m.site = l.site := h.site_same (site_mem hm) (site_mem (laneOf_mem hl)) (hmn.trans hn.symm)
      have hc : m.promisedCount = l.promisedCount := congrArg Site.promised this
      have hk : m.kind = l.kind := congrArg Site.kind this
      have hs : m.size = l.size := congrArg Site.size this
      have hle : l.promisedCount ≤ s.entryRoom l := by omega
      rw [le_entryRoom_iff] at hle ⊢
      rw [hc, hk, hs, hmn, ← hn]
      exact hle
  · rename_i hn
    exact eased fun l hl e => absurd (by simpa using e) (List.find?_eq_none.mp hn l hl)

theorem Slack.ease_crowd (n : Nat) (x : Slack) : (x.crowd n).ease n = x := by
  obtain ⟨e, b, l⟩ := x
  simp only [Slack.ease, Slack.crowd, Slack.mk.injEq, and_true]
  funext m
  split <;> simp

end Sys2Proof.Machine
end

section
/-! SUPPORT. Offers, shunt orders, deletion, creation and the tests that follow a command keep the yard. -/

namespace Sys2Proof.Machine

variable {s : State} {x : Slack} {v : View}

/-- The yard is sound, with nothing left undone. -/
def State.Yard (s : State) : Prop := s.view.Tidy Slack.none

/-- A state with the view of a sound yard has a sound yard. -/
theorem Yard.of_view {t : State} (e : t.view = s.view) (h : s.Yard) : t.Yard := by
  unfold State.Yard
  rwa [e]

theorem View.Tidy.done (h : v.Tidy x) (he : ∀ n, x.excess n = 0) (hb : ∀ n, ¬ x.broken n) (hl : ∀ f, ¬ x.loose f) :
    v.Tidy Slack.none :=
  h.weaken (fun n => Nat.le_of_eq (he n)) (fun n k => absurd k (hb n)) (fun f k => absurd k (hl f))

theorem loading_of_active (h : s.active = true) : s.view.loading = false := by
  unfold State.active at h
  simp only [State.view]
  cases hs : s.node.state <;> simp_all
theorem loading_of_inRun (h : s.inRun = true) : s.view.loading = false := by
  simp only [State.inRun, beq_iff_eq] at h
  simp [State.view, h]

theorem Holds.loading {t : State} (h : Holds s t) : t.view.loading = s.view.loading := by
  simp only [State.view, h.node]

/-! ### Lanes that fit -/

theorem mem_firstBy {α : Type} {f : α → α → Bool} {as : List α} {a : α} (h : firstBy f as = some a) : a ∈ as := by
  induction as generalizing a with
  | nil => cases h
  | cons b bs ih =>
    simp only [firstBy] at h
    split at h
    · simp [Option.some.inj h]
    · rename_i c hc
      split at h
      · exact List.mem_cons_of_mem _ (Option.some.inj h ▸ ih hc)
      · simp [Option.some.inj h]
/-- The best lane is one that fits (R72, R172). -/
theorem bestLane_fits {n : Need} {skip : Option Nat} {cost lane : Nat} (h : s.bestLane n skip = some (cost, lane)) :
    ∃ l ∈ s.lanes, l.number = lane ∧ s.laneFits l n = true := by
  obtain ⟨l, hl, e⟩ := List.mem_map.mp (mem_firstBy h)
  obtain ⟨hm, hf⟩ := List.mem_filter.mp hl
  exact ⟨l, hm, congrArg Prod.snd e, (Bool.and_eq_true _ _ ▸ hf).2⟩
theorem laneFits_room {l : Lane} {n : Need} (h : s.laneFits l n = true) : l.promisedCount < s.entryRoom l := by
  simp only [State.laneFits, Bool.and_eq_true, decide_eq_true_eq] at h
  exact h.1.2

/-- One promise more in a lane that has the room for it keeps the rooms (R8). -/
theorem View.Tidy.room_promise (h : s.view.Tidy x) {l : Lane} (hl : l ∈ s.lanes) (hr : l.promisedCount < s.entryRoom l)
    (g : Site → Site) (hg : ∀ m, (g m).promised = m.promised + 1) {m : Site} (hm : m ∈ s.view.sites) :
    roomFor m.kind m.size ((atSite l.number g m).promised - x.excess m.number) (stands s.view.spots m.number) := by
  by_cases hn : m.number = l.number
  · have := h.site_same hm (site_mem hl) hn
    subst this
    refine roomFor_mono (Nat.sub_le _ _) (fun _ => id) ?_
    simp only [atSite, show l.site.number = l.number from rfl, beq_self_eq_true, if_true, hg]
    exact (le_entryRoom_iff l _).mp hr
  · simpa [atSite, hn] using h.rooms m hm

theorem addReservation_tidy (h : s.view.Tidy x) {l : Lane} (hl : l ∈ s.lanes) (hr : l.promisedCount < s.entryRoom l)
    (r : Reservation) : (s.addReservation l.number r).view.Tidy x := by
  rw [addReservation_view]
  refine h.promise x.excess _ _ (atSite_fixed _ _ fun _ => ⟨rfl, rfl, rfl⟩)
    (fun m hm => h.room_promise hl hr _ (fun m => ?_) hm) h.callers (fun o ho hw => ?_) (fun e => (h.loading e).2.1)
  · simp [Site.promised, Site.reserve]; omega
  · obtain ⟨m, hm, hn, hh⟩ := h.offers o ho hw
    exact ⟨m, hm, hn, by unfold atSite; split <;> exact hh⟩

/-! ### Calls and offers -/

theorem evaluateCall_tidy (h : s.view.Tidy x) (ha : s.view.loading = false) (n : Nat) (c : Call) :
    (s.evaluateCall n c).view.Tidy x := by
  have hk := dropOffer_tidy h n
  have hgone := dropOffer_gone (s := s) n
  have ha' : (s.dropOffer n).view.loading = false := by
    rw [← ha]
    simp only [State.view, (dropOffer_keeps n (Keeps.refl s)).node]
  unfold State.evaluateCall
  generalize s.dropOffer n = t at hk hgone ha'
  dsimp only
  split
  · split
    · rename_i cost lane hb
      obtain ⟨l, hl, rfl, hf⟩ := bestLane_fits hb
      rw [send_view, setAlloc_view, addHold_view, List.map_append]
      refine hk.promise x.excess _ _ (atSite_fixed _ _ fun _ => ⟨rfl, rfl, rfl⟩)
        (fun m hm => hk.room_promise hl (laneFits_room hf) _ (fun m => ?_) hm) ?_ (fun o ho hw => ?_) (fun e => ?_)
      · simp [Site.promised, Site.hold]; omega
      · have hnew : ∀ o ∈ t.alloc.offers, o.caller ≠ n := fun o ho => hgone o.mark (List.mem_map_of_mem ho)
        have hold := hk.callers
        simp only [State.view, List.map_map] at hold
        simp only [List.map_append, List.map_map, List.map_cons, List.map_nil, List.nodup_append]
        refine ⟨hold, by simp, ?_⟩
        rintro a hm b hb rfl
        obtain ⟨o, ho, rfl⟩ := List.mem_map.mp hm
        exact hnew o ho (by simpa [OfferRecord.mark] using hb)
      · rcases List.mem_append.mp ho with ho | ho
        · obtain ⟨m, hm, hn, hh⟩ := hk.offers o ho hw
          refine ⟨m, hm, hn, ?_⟩
          unfold atSite
          split
          · exact List.mem_append_left _ hh
          · exact hh
        · obtain rfl := by simpa using ho
          exact ⟨l.site, site_mem hl, rfl, by simp [atSite, Lane.site, Site.hold, OfferRecord.mark]⟩
      · exact absurd (ha'.symm.trans e) (by simp)
    · exact hk
  · exact hk
theorem makeCall_tidy (h : s.view.Tidy x) (ha : s.view.loading = false) (b : Bus) (f n : Nat) :
    (s.makeCall b f n).view.Tidy x := by
  unfold State.makeCall
  dsimp only
  exact evaluateCall_tidy (by simpa using h) (by simpa using ha) _ _
theorem callTest_tidy (h : s.view.Tidy x) : s.callTest.view.Tidy x := by
  unfold State.callTest
  split
  · rename_i hc
    split
    · exact makeCall_tidy h (loading_of_inRun (Bool.and_eq_true _ _ ▸ hc).1) _ _ _
    · exact h
  · exact h

/-! ### Shunt orders -/

theorem removeShunt_view (f : Nat) : (s.removeShunt f).view =
    { s.view with shunts := s.view.shunts.filter (fun o => o.fleet != f) } := by
  unfold State.removeShunt
  rw [setDepartures_view]
  simp only [State.view, List.filter_map]
  rfl
theorem removeShunt_tidy (h : s.view.Tidy x) (f : Nat) : (s.removeShunt f).view.Tidy (x.settled f) := by
  rw [removeShunt_view]
  exact { h with
    orders := h.orders.sublist (List.filter_sublist.map _)
    shunts := fun o ho hl => by
      obtain ⟨ho, hn⟩ := List.mem_filter.mp ho
      exact h.shunts o ho fun hx => hl ⟨hx, by simpa using hn⟩
    loading := fun e => ⟨(h.loading e).1, (h.loading e).2.1, by simp [(h.loading e).2.2]⟩ }
/-- A fleet without a shunt order leaves none loose. -/
theorem View.Tidy.settle (h : v.Tidy x) (f : Nat) (hn : ∀ o ∈ v.shunts, o.fleet ≠ f) : v.Tidy (x.settled f) :=
  { h with shunts := fun o ho hl => h.shunts o ho fun hx => hl ⟨hx, hn o ho⟩ }
theorem dropShunt_tidy (h : s.view.Tidy x) (f : Nat) : (s.dropShunt f).view.Tidy (x.settled f) := by
  unfold State.dropShunt
  split
  · exact removeShunt_tidy (releaseReservation_tidy h _ _) f
  · rename_i hn
    refine h.settle f fun o ho e => ?_
    obtain ⟨a, ha, rfl⟩ := List.mem_map.mp ho
    exact List.find?_eq_none.mp hn a ha (by simpa [ShuntOrder.mark] using e)
/-- What a fleet's lost shunt order leaves loose is settled when the order goes. -/
theorem View.Tidy.found (h : v.Tidy ((x.lose (some f)).settled f)) : v.Tidy x :=
  h.weaken (fun _ => Nat.le_refl _) (fun _ => id) (fun _ hg => hg.1.resolve_right fun e => hg.2 (Option.some.inj e).symm)

/-! ### Deletion (R34) -/

theorem dropped_view (s : State) (b : Bus) (hp : b.place ≠ .queued) : (s.leaveWash b).view = s.view := by
  unfold State.leaveWash
  dsimp only
  split
  · exact absurd ‹_› hp
  · split <;> simp
  · split <;> simp
  · rfl
/-- The called record's call ends when the record leaves the queue (R54). -/
theorem leaveWash_view (s : State) (b : Bus) (hp : b.place = .queued) : (s.leaveWash b).view =
    { s.view with called := if s.wash.called = b.fleet then none else s.wash.called } := by
  unfold State.leaveWash
  rw [hp]
  dsimp only
  by_cases hc : s.wash.called = b.fleet
  · simp [hc, setWash_view]
  · rw [if_neg (by simpa using hc), if_neg hc]
    rfl

theorem deleteBus_tidy (h : s.view.Tidy x) (i : Nat)
    (hf : ∀ b ∈ s.buses.records, b.id = i → ∀ n q, b.berth? = some (n, q) → x.broken n ∨
      ∀ l ∈ s.view.sites, l.number = n → firstAt l.size (stands s.view.spots n) q) : (s.deleteBus i).view.Tidy x := by
  unfold State.deleteBus
  split
  · exact h
  · rename_i b hb
    have hm : b ∈ s.buses.records := List.mem_of_find?_eq_some hb
    obtain rfl : b.id = i := by simpa using List.find?_some hb
    have hs : ∀ l ∈ s.view.sites, ¬ x.broken l.number →
        unbroken l.kind l.size (stands (s.view.remove b.id).spots l.number) := by
      intro l hl hnb
      have hst := View.stands_remove h (spot_mem hm) l.number
      by_cases hk : ∃ q, b.berth? = some (l.number, q)
      · obtain ⟨q, hq⟩ := hk
        have hw := h.whole_left (k := b.spot.stance.berth?) (by simpa using hq)
          ((hf b hm rfl _ _ hq).resolve_left hnb) hl hnb
        exact unbroken_congr (fun p => (hst p).symm) hw
      · refine unbroken_congr (fun p => ?_) (h.whole l hl hnb)
        rw [show b.id = b.spot.id from rfl, hst, spot_berth?]
        exact ⟨fun a => ⟨a, fun e => hk ⟨p, e⟩⟩, And.left⟩
    have gone : ∀ called, (∀ f, called = some f → b.fleet ≠ some f ∧ s.view.called = some f) →
        View.Tidy (x.lose b.fleet) { s.view.remove b.id with called := called } := fun called hc =>
      h.remove (spot_mem hm) _ called (fun _ => Nat.le_refl _) hs (fun o _ hl => by
        simp only [Slack.lose, not_or] at hl
        exact hl) hc
    have plain : ∀ called, b.place.stance.shunted = false →
        (∀ f, called = some f → b.fleet ≠ some f ∧ s.view.called = some f) →
        View.Tidy x { s.view.remove b.id with called := called } := fun called hsh hc =>
      h.remove (spot_mem hm) _ called (fun _ => Nat.le_refl _) hs
        (fun o ho hl => ⟨hl, h.unshunted (spot_mem hm) hsh ho hl⟩) hc
    have same : b.place ≠ .queued → ∀ f, s.view.called = some f → b.fleet ≠ some f ∧ s.view.called = some f :=
      fun hp f e => ⟨h.uncalled (spot_mem hm) (by cases hb : b.place <;> simp_all [Bus.spot, Place.stance]) f e, e⟩
    have whole : ∀ t : State, t.view.Tidy x →
        (match b.run with | some n => t.runLosesRecord n (b.fleet.getD 0) | none => t).view.Tidy x := by
      intro t ht
      split
      · simpa using ht
      · exact ht
    have off : b.place ≠ .queued → b.place.stance.shunted = false → (s.removeBus b.id).view.Tidy x := fun hp hsh => by
      rw [removeBus_view]
      exact plain s.view.called hsh (same hp)
    have shunt : b.place ≠ .queued → ((s.removeBus b.id).dropShunt (b.fleet.getD 0)).view.Tidy x := fun hp => by
      have ht : (s.removeBus b.id).view.Tidy (x.lose b.fleet) := by
        rw [removeBus_view]
        exact gone s.view.called (same hp)
      have hd := dropShunt_tidy ht (b.fleet.getD 0)
      cases hbf : b.fleet with
      | some f =>
        rw [hbf] at hd
        exact hd.found
      | none =>
        rw [hbf] at hd
        exact hd.weaken (fun _ => Nat.le_refl _) (fun _ => id) (fun _ hg => hg.1.resolve_right (by simp))
    dsimp only
    refine whole _ ?_
    cases hp : b.place with
    | queued =>
      simp only
      rw [leaveWash_view _ _ hp, removeBus_view]
      refine plain _ (by simp [hp, Place.stance, Stance.shunted]) fun f e => ?_
      split at e
      · cases e
      · rename_i hne
        exact ⟨fun hbf => hne (e.trans hbf.symm), e⟩
    | washing _ =>
      simp only
      rw [dropped_view _ _ (by simp [hp])]
      exact off (by simp [hp]) (by simp [hp, Place.stance, Stance.shunted])
    | apron _ _ =>
      simp only
      rw [dropped_view _ _ (by simp [hp])]
      exact off (by simp [hp]) (by simp [hp, Place.stance, Stance.shunted])
    | transit lane _ lost _ =>
      have ht := off (by simp [hp]) (by simp [hp, Place.stance, Stance.shunted])
      simp only
      split
      · exact ht
      · exact releaseReservation_tidy ht _ _
    | parked _ _ => exact off (by simp [hp]) (by simp [hp, Place.stance, Stance.shunted])
    | shunting _ _ => exact shunt (by simp [hp])
    | shuntingBetween => exact shunt (by simp [hp])
    | released _ _ =>
      have ht := off (by simp [hp]) (by simp [hp, Place.stance, Stance.shunted])
      simp only
      split
      · rw [failRelease_view ht.distinct]
        exact ht
      · exact ht
/-- A record of the view is deleted: the stack that it leaves is excused, or it was the first of it. -/
theorem deleteSpot_tidy (h : s.view.Tidy x) {c : Spot} (hc : c ∈ s.view.spots)
    (hf : ∀ n q, c.stance.berth? = some (n, q) → x.broken n ∨
      ∀ l ∈ s.view.sites, l.number = n → firstAt l.size (stands s.view.spots n) q) : (s.deleteBus c.id).view.Tidy x :=
  deleteBus_tidy h _ fun b hb e n q hq => by
    have : b.spot = c := h.same (spot_mem hb) hc e
    exact hf n q (by rw [← this, spot_berth?, hq])
/-- A record at no position is deleted. -/
theorem deleteBus_off_tidy (h : s.view.Tidy x) {c : Spot} (hc : c ∈ s.view.spots) (hk : c.stance.berth? = none) :
    (s.deleteBus c.id).view.Tidy x :=
  deleteSpot_tidy h hc fun n q hq => by
    rw [hq] at hk
    cases hk

/-- The lanes of a view with promises given up. -/
def View.Eased (v w : View) : Prop := ∃ g : Site → Site,
  (∀ l, (g l).number = l.number ∧ (g l).kind = l.kind ∧ (g l).size = l.size ∧ (g l).promised ≤ l.promised) ∧
    w.sites = v.sites.map g
theorem View.Eased.refl (v : View) : v.Eased v := ⟨id, fun _ => ⟨rfl, rfl, rfl, Nat.le_refl _⟩, by simp⟩
theorem View.Eased.trans {u w : View} (h : u.Eased v) (k : v.Eased w) : u.Eased w := by
  obtain ⟨f, hf, ef⟩ := h
  obtain ⟨g, hg, eg⟩ := k
  refine ⟨g ∘ f, fun l => ?_, by rw [eg, ef, List.map_map]⟩
  obtain ⟨a, b, c, d⟩ := hf l
  obtain ⟨a', b', c', d'⟩ := hg (f l)
  exact ⟨a'.trans a, b'.trans b, c'.trans c, Nat.le_trans d' d⟩
theorem releaseReservation_eased (s : State) (n : Nat) (r : Reservation) : s.view.Eased (s.releaseReservation n r).view := by
  rw [releaseReservation_view]
  refine ⟨_, fun l => ?_, rfl⟩
  obtain ⟨a, b, c⟩ := atSite_fixed n (Site.unreserve r) (fun _ => ⟨rfl, rfl, rfl⟩) l
  exact ⟨a, b, c, atSite_unreserve_promised n r l⟩
theorem leaveWash_same (s : State) (b : Bus) :
    (s.leaveWash b).view.spots = s.view.spots ∧ (s.leaveWash b).view.sites = s.view.sites := by
  by_cases hp : b.place = .queued
  · rw [leaveWash_view _ _ hp]
    exact ⟨rfl, rfl⟩
  · rw [dropped_view _ _ hp]
    exact ⟨rfl, rfl⟩
/-- A deletion takes one record out of the view, and no promise is made by it. -/
theorem deleteBus_view (d : s.distinct) (i : Nat) :
    (s.deleteBus i).view.spots = (s.view.remove i).spots ∧ s.view.Eased (s.deleteBus i).view := by
  unfold State.deleteBus
  split
  · rename_i hn
    refine ⟨?_, View.Eased.refl _⟩
    symm
    refine List.filter_eq_self.mpr fun c hc => ?_
    obtain ⟨b, hb, rfl⟩ := List.mem_map.mp hc
    simpa [Bus.spot] using List.find?_eq_none.mp hn b hb
  · rename_i b hb
    obtain rfl : b.id = i := by simpa using List.find?_some hb
    have base : ∀ t : State, t.view.spots = (s.removeBus b.id).view.spots → (s.removeBus b.id).view.Eased t.view →
        (match b.run with | some n => t.runLosesRecord n (b.fleet.getD 0) | none => t).view.spots
            = (s.view.remove b.id).spots ∧
          s.view.Eased (match b.run with | some n => t.runLosesRecord n (b.fleet.getD 0) | none => t).view := by
      intro t h1 h2
      have e : (match b.run with | some n => t.runLosesRecord n (b.fleet.getD 0) | none => t).view = t.view := by
        split <;> simp
      have r : s.view.Eased (s.removeBus b.id).view := by rw [removeBus_view]; exact View.Eased.refl _
      rw [e]
      exact ⟨by rw [h1, removeBus_view], r.trans h2⟩
    have dr : (s.removeBus b.id).distinct := d.sublist (List.filter_sublist.map _)
    have wash : ∀ b' : Bus, ((s.removeBus b.id).leaveWash b').view.spots = (s.removeBus b.id).view.spots ∧
        (s.removeBus b.id).view.Eased ((s.removeBus b.id).leaveWash b').view := fun b' => by
      obtain ⟨h1, h2⟩ := leaveWash_same (s.removeBus b.id) b'
      exact ⟨h1, id, fun _ => ⟨rfl, rfl, rfl, Nat.le_refl _⟩, by rw [h2, List.map_id]⟩
    have shunt : ∀ f, ((s.removeBus b.id).dropShunt f).view.spots = (s.removeBus b.id).view.spots ∧
        (s.removeBus b.id).view.Eased ((s.removeBus b.id).dropShunt f).view := fun f => by
      unfold State.dropShunt
      split
      · rw [removeShunt_view]
        exact ⟨by rw [releaseReservation_view], releaseReservation_eased _ _ _⟩
      · exact ⟨rfl, View.Eased.refl _⟩
    dsimp only
    refine base _ ?_ ?_
    all_goals
      cases b.place
      all_goals simp only
    · exact (wash b).1
    · exact (wash b).1
    · exact (wash b).1
    · split
      · rfl
      · rw [releaseReservation_view]
    · exact (shunt _).1
    · exact (shunt _).1
    · split
      · rw [failRelease_view dr]
      · rfl
    · exact (wash b).2
    · exact (wash b).2
    · exact (wash b).2
    · split
      · exact View.Eased.refl _
      · exact releaseReservation_eased _ _ _
    · exact View.Eased.refl _
    · exact (shunt _).2
    · exact (shunt _).2
    · split
      · rw [failRelease_view dr]
        exact View.Eased.refl _
      · exact View.Eased.refl _

/-! ### Creation (R32) -/

theorem busOf_none {f : Nat} (h : s.busOf f = none) : ∀ b ∈ s.view.spots, b.fleet ≠ some f := by
  rintro b hb e
  obtain ⟨a, ha, rfl⟩ := List.mem_map.mp hb
  exact List.find?_eq_none.mp h a ha (by simpa [Bus.spot] using e)

/-- A record made at no position keeps the yard (R32). -/
theorem addBus_off_tidy (h : s.view.Tidy x) (ha : s.view.loading = false) {f : Nat} (hf : s.busOf f = none)
    (k : PlaceholderKind) (c : BusClass) (p : Place) (w : Bool) (hp : p.stance.berth? = none) :
    (s.addBus (some f) k c p w).view.Tidy x := by
  rw [addBus_view]
  have hst : ∀ n q, stands (s.view.add (some f) p.stance).spots n q ↔ stands s.view.spots n q := fun n q => by
    simp [View.stands_add, hp]
  refine h.add _ _ x ha (fun b hb g e => Option.some.inj e ▸ busOf_none hf b hb) (by simp [hp])
    (fun l hl => ?_) (fun l hl hn => unbroken_congr (fun q => (hst _ q).symm) (h.whole l hl hn)) (fun _ => id)
  exact roomFor_mono (Nat.le_refl _) (fun q => (hst _ q).mp) (h.rooms l hl)

/-! ### The tests that follow a command -/

theorem washQueue_uncalled {b : Bus} (h : b ∈ s.washQueue) : b.fleet ≠ s.wash.called := by
  unfold State.washQueue at h
  rw [mem_sortBy] at h
  have := (List.mem_filter.mp h).2
  simp only [Bool.and_eq_true, bne_iff_ne] at this
  exact this.2

/-- A record in the queue that is not called leaves it for the apron or the wash. -/
theorem View.Tidy.unqueue (h : s.view.Tidy x) {b : Bus} (hb : b ∈ s.buses.records) (hp : b.place = .queued)
    (called : Option Nat) (hq : ∀ f, called = some f → b.fleet ≠ some f ∧ s.wash.called = some f) :
    View.Tidy x { s.view.setStance b.id .away with called := called } := by
  have hsh : b.spot.stance.shunted = false := by simp [Bus.spot, hp, Place.stance, Stance.shunted]
  exact h.standing (spot_mem hb) .away s.view.shunts called (Or.inl (by simp [Bus.spot, hp, Place.stance])) h.orders
    (fun o ho hl => Or.inr ⟨h.unshunted (spot_mem hb) hsh ho hl, h.shunts o ho hl⟩) hq

theorem joinUnwashed_yard (h : s.Yard) {b : Bus} (hb : b ∈ s.buses.records) (hp : b.place = .queued)
    (hc : b.fleet ≠ s.wash.called) (f : Nat) : (s.joinUnwashed b.id f).Yard := by
  unfold State.Yard
  rw [joinUnwashed_view]
  exact h.unqueue hb hp s.wash.called fun g e => ⟨fun hg => hc (hg.trans e.symm), e⟩

theorem spill_yard (n : Nat) : ∀ {s : State}, s.Yard → (State.spill n s).Yard := by
  induction n with
  | zero => exact fun h => h
  | succ n ih =>
    intro s h
    unfold State.spill
    split
    · split
      · rename_i b _ hq
        have hb : b ∈ s.washQueue := by rw [hq]; exact List.mem_cons_self ..
        obtain ⟨hm, hp⟩ := washQueue_mem hb
        split
        · exact ih (joinUnwashed_yard h hm hp (washQueue_uncalled hb) _)
        · exact h
      · exact h
    · exact h
theorem testEntryCall_yard (h : s.Yard) : s.testEntryCall.Yard := by
  unfold State.testEntryCall
  split
  · split
    · rename_i b _ hq
      obtain ⟨hm, hp⟩ := washQueue_mem (s := s) (b := b) (by rw [hq]; exact List.mem_cons_self ..)
      unfold State.Yard
      rw [setWash_view]
      exact { h with called := fun f e => ⟨b.spot, spot_mem hm, e, by simp [Bus.spot, hp, Place.stance]⟩ }
    · exact h
  · exact h
theorem washTests_yard (h : s.Yard) : s.washTests.Yard := by
  unfold State.washTests
  split
  · refine testEntryCall_yard (spill_yard 4 ?_)
    unfold State.Yard
    rwa [testStages_view]
  · exact h
theorem settleWash_yard (h : s.Yard) : s.settleWash.Yard := callTest_tidy (washTests_yard h)

/-- The target of a shunt is a lane that fits (R172). -/
theorem shuntTarget_fits {b : Bus} {n target toBerth : Nat} (h : s.shuntTarget b n = some (target, toBerth)) :
    ∃ m ∈ s.lanes, m.number = target ∧ s.laneFits m (s.shuntNeed b) = true := by
  unfold State.shuntTarget at h
  split at h
  · rename_i hbest
    have := bestLane_fits hbest
    split at h
    · split at h
      · cases h
        exact this
      · cases h
    · cases h
  · cases h
/-- A parked record is ordered to a lane that fits, a place there reserved for it (R172). -/
theorem issueShunt_yard (h : s.Yard) (n : Nat) {b : Bus} (hb : b ∈ s.buses.records) {lane pos fleet : Nat}
    (hp : b.place = .parked lane pos) (hf : b.fleet = some fleet) (l : Lane) : (s.issueShunt n b fleet lane pos l).Yard := by
  unfold State.issueShunt
  split
  · exact Yard.of_view (by simp) h
  · rename_i target toBerth ht
    obtain ⟨m, hm, rfl, hfit⟩ := shuntTarget_fits ht
    have k := addReservation_tidy h hm (laneFits_room hfit) ⟨.shunt, fleet⟩
    have hsh : b.spot.stance.shunted = false := by simp [Bus.spot, hp, Place.stance, Stance.shunted]
    have free : ∀ o ∈ s.view.shunts, b.fleet ≠ some o.fleet := fun o ho => h.unshunted (spot_mem hb) hsh ho id
    dsimp only
    unfold State.Yard
    rw [setDepartures_view, setPlace_view, List.map_append]
    refine k.standing (c := b.spot) (spot_mem hb) _ _ (s.addReservation m.number ⟨.shunt, fleet⟩).view.called
      (Or.inl (by simp [Bus.spot, hp, Place.stance])) ?_ (fun o ho _ => ?_)
      (fun f e => ⟨k.uncalled (spot_mem hb) (by simp [Bus.spot, hp, Place.stance]) f e, e⟩)
    · have hold := h.orders
      simp only [State.view, List.map_map] at hold
      simp only [List.map_append, List.map_map, List.map_cons, List.map_nil, List.nodup_append]
      refine ⟨hold, by simp, ?_⟩
      rintro a ha c hc rfl
      obtain ⟨o, ho, rfl⟩ := List.mem_map.mp ha
      refine free o.mark (List.mem_map_of_mem ho) (hf.trans (congrArg some ?_))
      simpa [ShuntOrder.mark, eq_comm] using hc
    · rcases List.mem_append.mp ho with ho | ho
      · exact Or.inr ⟨free o ho, k.shunts o ho id⟩
      · obtain rfl := by simpa using ho
        exact Or.inl ⟨hf, rfl⟩
theorem shuntTest_yard (n : Nat) (h : s.Yard) : (s.shuntTest n).Yard := by
  unfold State.shuntTest
  split
  · split
    · split
      · exact h
      · rename_i hl
        split
        · exact h
        · rename_i b hb
          obtain ⟨hm, p, hp⟩ := leavingBus_spec hb
          rw [laneOf_number hl] at hp
          split
          · rename_i hc
            have hpk : b.isParked = true := by simp_all
            split
            · rename_i hf hq
              have := hq.symm.trans hp
              simp only [Option.some.injEq, Prod.mk.injEq] at this
              exact issueShunt_yard h n hm (by rw [this.2]; exact parked_berth hpk hp) hf _
            · exact Yard.of_view (by simp) h
          · exact h
    · exact h
  · exact h
theorem foldl_yard {α : Type} (f : State → α → State) (hf : ∀ {u : State} x, u.Yard → (f u x).Yard) (l : List α)
    (h : s.Yard) : (l.foldl f s).Yard := by
  induction l generalizing s with
  | nil => exact h
  | cons a as ih => exact ih (hf a h)
theorem departureTests_yard (h : s.Yard) : s.departureTests.Yard := by
  have exits : ∀ {t : State}, t.Yard → t.exitTests.Yard := fun ht => Yard.of_view (exitTests_view ht.distinct) ht
  exact exits (foldl_yard _ (fun n => shuntTest_yard n) _
    (Yard.of_view (clearFailed_view _) (exits (Yard.of_view (lapseRuns_view _) h))))
theorem settle_yard (h : s.Yard) (before : State) (extra : List Nat) : (s.settle before extra).Yard := by
  unfold State.settle
  split
  · have bound : (s.raiseFront before).bindAll.withdrawClaims.Yard := Yard.of_view (by simp) h
    exact callTest_tidy (washTests_yard (Yard.of_view (by simp) (departureTests_yard bound)))
  · exact h

/-- A command answered with a next state has kept the yard. -/
def Kept (o : Host.Outcome State Fault Refusal) : Prop := ∀ t, o = .next t → t.Yard

theorem kept {t : State} (h : t.Yard) : Kept (.next t) := fun _ e => by
  cases e
  exact h
theorem kept_view {t : State} (h : s.Yard) (e : t.view = s.view) : Kept (.next t) := kept (Yard.of_view e h)

end Sys2Proof.Machine
end

section
/-! SUPPORT. The commands of the Lane Monitor keep the yard: entries, leaving, surveys (R10 to R16, R21, R22). -/

namespace Sys2Proof.Machine

variable {s : State} {x : Slack} {v : View}

/-! ### Entries (R10 to R14) -/

/-- A record taken from the wash is not called. -/
theorem leaveWash_tidy (h : s.view.Tidy x) {b : Bus} (hb : b ∈ s.buses.records) :
    (s.leaveWash b).view.Tidy x ∧ ∀ f, (s.leaveWash b).view.called = some f → b.fleet ≠ some f := by
  by_cases hp : b.place = .queued
  · rw [leaveWash_view _ _ hp]
    refine ⟨{ h with
      called := fun f e => ?_ }, fun f e hf => ?_⟩
    · split at e
      · cases e
      · exact h.called f e
    · split at e
      · cases e
      · rename_i hn
        exact hn (e.trans hf.symm)
  · rw [dropped_view _ _ hp]
    exact ⟨h, h.uncalled (spot_mem hb) (by cases hb : b.place <;> simp_all [Bus.spot, Place.stance])⟩

/-- A record without a shunt order parked at the entry position, and the room test made: only the stack that it has left is
undone (R12, R14). -/
theorem enterTested_tidy {u t : State} (h : u.view.Tidy x) {c : Spot} (hc : c ∈ u.view.spots) {m : Site}
    (hm : m ∈ u.view.sites) {pos : Nat} (e : entryAt m.kind m.size (stands u.view.spots m.number) pos)
    (hq : ∀ f, u.view.called = some f → c.fleet ≠ some f) {f : Nat} (hf : c.fleet = some f)
    (hn : ∀ o ∈ u.view.shunts, o.fleet ≠ f)
    (ht : t.view = u.view.setStance c.id (.berthed m.number pos false)) :
    (t.roomTest m.number).view.Tidy (((x.gap c.stance.berth?).lose (some f)).settled f) := by
  have k := roomTest_tidy (s := t) (ht ▸ (hf ▸ h.enter hc hm e hq).settle f hn) m.number
  have eq : ((((x.crowd m.number).gap c.stance.berth?).lose (some f)).settled f).ease m.number =
      ((((x.crowd m.number).ease m.number).gap c.stance.berth?).lose (some f)).settled f := rfl
  rwa [eq, Slack.ease_crowd] at k

/-- A record that stood at no position, parked and tested, its shunt order gone, leaves nothing undone. -/
theorem View.Tidy.arrived {n f : Nat} (h : v.Tidy (((((Slack.none.crowd n).gap none).lose (some f)).settled f).ease n)) :
    v.Tidy Slack.none :=
  h.done (fun m => by simp only [Slack.ease, Slack.settled, Slack.lose, Slack.gap, Slack.crowd, Slack.none]; split <;> rfl)
    (by simp [Slack.ease, Slack.settled, Slack.lose, Slack.gap, Slack.crowd, Slack.none])
    (by simp [Slack.ease, Slack.settled, Slack.lose, Slack.gap, Slack.crowd, Slack.none])

/-- An expected bus arrives (R11, R14, R173). -/
theorem arrive_yard (h : s.Yard) {l : Lane} (hl : l ∈ s.lanes) {pos fleet : Nat} (he : s.entryPos l = some pos) {b : Bus}
    (hb : b ∈ s.buses.records) (hf : b.fleet = some fleet) (hk : b.berth? = none) (hq : b.place ≠ .queued)
    (kind : ReservationKind) : (s.arrive l pos fleet b kind).Yard := by
  have hs : l.site ∈ s.view.sites := site_mem hl
  have hc := h.uncalled (spot_mem hb) (by cases hb : b.place <;> simp_all [Bus.spot, Place.stance])
  have k := h.enter (spot_mem hb) hs (entryPos_entryAt (h.sizes _ hs) he) hc
  rw [spot_berth?, hk, show b.spot.fleet = some fleet from hf] at k
  have ev : ((s.parkAt b.id l.number pos).keepTake b fleet).view = s.view.setStance b.id (.berthed l.number pos false) := by
    simp
  have ks := removeShunt_tidy (s := (s.parkAt b.id l.number pos).keepTake b fleet) (ev ▸ k) fleet
  unfold State.arrive
  dsimp only
  split
  · rename_i hr
    have hs' : l.site ∈ (((s.parkAt b.id l.number pos).keepTake b fleet).removeShunt fleet).view.sites := by
      rw [removeShunt_view, ev]
      exact hs
    exact (consumeReservation_tidy ks hs' ⟨kind, fleet⟩ hr).arrived
  · exact (roomTest_tidy ks l.number).arrived

/-- A record that stood at no position is moved to the lane that read it (R12, R59, R70). -/
theorem moveIn_yard (h : s.Yard) {l : Lane} (hl : l ∈ s.lanes) {pos fleet : Nat} (he : s.entryPos l = some pos) {b : Bus}
    (hb : b ∈ s.buses.records) (hf : b.fleet = some fleet) (hk : b.berth? = none) : (s.moveIn l pos fleet b).Yard := by
  obtain ⟨h1, hq⟩ := leaveWash_tidy h hb
  have h2 := dropReservations_tidy h1 fleet
  have h3 := removeShunt_tidy h2 fleet
  obtain ⟨es, et⟩ := leaveWash_same s b
  have ev : (((s.leaveWash b).dropReservations fleet).removeShunt fleet).view.spots = s.view.spots := by
    rw [removeShunt_view, dropReservations_view]
    exact es
  have hm : (⟨l.number, l.kind, l.size, l.reservations.filter (fun r => r.fleet != fleet), l.holds⟩ : Site) ∈
      (((s.leaveWash b).dropReservations fleet).removeShunt fleet).view.sites := by
    rw [removeShunt_view, dropReservations_view]
    refine List.mem_map.mpr ⟨l.site, ?_, rfl⟩
    rw [et]
    exact site_mem hl
  have hr := enterTested_tidy (c := b.spot) (pos := pos) (f := fleet)
    (t := ((((s.leaveWash b).dropReservations fleet).removeShunt fleet).parkAt b.id l.number pos).keepTake b fleet) h3
    (ev ▸ spot_mem hb) hm (by rw [ev]; exact entryPos_entryAt (h.sizes _ (site_mem hl)) he)
    (by rw [removeShunt_view, dropReservations_view]; exact hq) hf (by rw [removeShunt_view]; simp) (by simp; rfl)
  rw [spot_berth?, hk] at hr
  have done := View.Tidy.done (v := State.view _) hr (fun _ => rfl) (by simp [Slack.settled, Slack.lose, Slack.gap, Slack.none])
    (by simp [Slack.settled, Slack.lose, Slack.gap, Slack.none])
  unfold State.moveIn
  dsimp only
  split
  · exact Yard.of_view (send_view _ _) (endCall_tidy done)
  · exact done

/-- A record taken from a position has lost its reservations and its shunt order (R12, R164, R173). -/
theorem endStanding_tidy (h : s.view.Tidy x) (f : Nat) (b : Bus) : (s.endStanding f b).view.Tidy (x.settled f) := by
  have k := removeShunt_tidy (dropReservations_tidy h f) f
  unfold State.endStanding
  dsimp only
  split
  · rwa [failRelease_view k.distinct]
  · exact k

/-- The stack that a record has left from its leaving position is unbroken, also where it has entered it again. -/
theorem View.Tidy.left_whole (h : v.Tidy Slack.none) {c : Spot} (hc : c ∈ v.spots) {m : Site} (hm : m ∈ v.sites) {pos : Nat}
    (e : entryAt m.kind m.size (stands v.spots m.number) pos) {l : Site} (hl : l ∈ v.sites) {q : Nat}
    (hk : c.stance.berth? = some (l.number, q)) (hf : firstAt l.size (stands v.spots l.number) q)
    (hle : l.number = m.number → q ≤ pos) :
    unbroken l.kind l.size (stands (v.setStance c.id (.berthed m.number pos false)).spots l.number) := by
  have first : firstAt l.size (fun p => l.number = m.number ∧ p = pos ∨ stands v.spots l.number p) q := by
    rintro p h1 h2 (⟨hn, rfl⟩ | hp)
    · exact hle hn
    · exact hf p h1 h2 hp
  refine unbroken_congr (fun p => ?_) (unbroken_leave first (h.whole_entered hm e hl id))
  rw [View.stands_setStance h hc, hk]
  simp only [Stance.berth?_berthed, Option.some.injEq, Prod.mk.injEq, true_and, ne_eq]
  constructor
  · rintro ⟨⟨hn, rfl⟩ | hp, hne⟩
    · exact Or.inl ⟨hn.symm, rfl⟩
    · exact Or.inr ⟨hp, fun a => hne a.symm⟩
  · rintro (⟨hn, rfl⟩ | ⟨hp, hne⟩)
    · refine ⟨Or.inl ⟨hn.symm, rfl⟩, ?_⟩
      rintro rfl
      exact entryAt_free e ⟨c, hc, hn ▸ hk⟩
    · exact ⟨Or.inr hp, fun a => hne a.symm⟩

/-- A bus that does not stand at the entry-most position enters behind the place from which it can leave. -/
theorem leaving_before_entry (h : s.Yard) {l m : Lane} (hl : l ∈ s.lanes) (hm : m ∈ s.lanes) (hn : m.number = l.number)
    {pos q fleet : Nat} (he : s.entryPos l = some pos) {b : Bus} (hb : b ∈ s.buses.records) (hf : b.fleet = some fleet)
    (hk : b.berth? = some (m.number, q)) (hq : s.leavingPos m = some q) (hs : s.standsAtEntry l fleet = false) : q ≤ pos := by
  have hsite : m.site = l.site := h.site_same (site_mem hm) (site_mem hl) hn
  have hsize : m.size = l.size := congrArg Site.size hsite
  have hent := entryPos_entryAt (h.sizes _ (site_mem hl)) he
  rw [leavingPos_iff, hn, hsize, ← leavingPos_iff] at hq
  obtain ⟨⟨h1, h2, h3⟩, -⟩ := (leavingPos_iff l q).mp hq
  cases hkind : l.kind with
  | through =>
    rw [hkind] at hent
    exact Nat.le_of_lt (hent.2.2.1 q h1 h2 h3)
  | deadEnd =>
    obtain ⟨a, ha⟩ := Option.isSome_iff_exists.mp ((occupant_isSome_iff _ _).mpr h3)
    obtain ⟨hma, hka⟩ := occupant_spec ha
    have hab : a = b := id_unique h.distinct hma hb
      (h.apart _ (spot_mem hma) _ (spot_mem hb) _ (by rw [spot_berth?, hka]) (by rw [spot_berth?, hk, hn]))
    simp [State.standsAtEntry, State.entryMost, hkind, hq, ha, hab, hf] at hs

/-- A record that stood at the leaving position of its old lane is moved (R12). -/
theorem moveFromLeaving_yard (h : s.Yard) {l m : Lane} (hl : l ∈ s.lanes) (hm : m ∈ s.lanes) {pos q fleet : Nat}
    (he : s.entryPos l = some pos) {b : Bus} (hb : b ∈ s.buses.records) (hf : b.fleet = some fleet)
    (hk : b.berth? = some (m.number, q)) (hq : s.leavingPos m = some q) (hs : s.standsAtEntry l fleet = false) :
    (s.moveFromLeaving l pos fleet m.number q b).Yard := by
  have hent := entryPos_entryAt (h.sizes _ (site_mem hl)) he
  have hck : b.spot.stance.berth? = some (m.number, q) := by rw [spot_berth?, hk]
  have k := h.enter (spot_mem hb) (site_mem hl) hent
    (h.uncalled (spot_mem hb) (by cases hp : b.place <;> simp_all [Bus.spot, Place.stance, Bus.berth?]))
  have kw := k.mend (fun _ => False) fun t ht hbr _ => by
    have hn : t.number = m.number := by
      simpa [Slack.lose, Slack.gap, Slack.crowd, Slack.none, hck, eq_comm] using hbr
    have htm : t = m.site := h.site_same ht (site_mem hm) hn
    subst htm
    exact h.left_whole (spot_mem hb) (site_mem hl) hent (site_mem hm) hck (((leavingPos_iff m q).mp hq).2)
      fun hnl => leaving_before_entry h hl hm hnl he hb hf hk hq hs
  have ke := endStanding_tidy (s := ((s.parkAt b.id l.number pos).settleBerth true m.number q).suspectLane m.number)
    (x := { ((Slack.none.crowd l.number).gap (some (m.number, q))).lose (some fleet) with broken := fun _ => False })
    (by rw [suspectLane_view, settleBerth_view, parkAt_view]; exact hck ▸ hf ▸ kw) fleet b
  unfold State.moveFromLeaving
  exact View.Tidy.arrived ((roomTest_tidy ke l.number).weaken (fun _ => Nat.le_refl _)
    (by simp [Slack.ease, Slack.settled]) (fun _ => id))

/-- A record that stood at any other position is moved, a placeholder standing in for it (R12). -/
theorem View.Tidy.replaced (h : v.Tidy Slack.none) {c : Spot} (hc : c ∈ v.spots) {m : Site} (hm : m ∈ v.sites) {pos : Nat}
    (e : entryAt m.kind m.size (stands v.spots m.number) pos) {k : Nat × Nat} (hk : c.stance.berth? = some k)
    (hq : ∀ f, v.called = some f → c.fleet ≠ some f) :
    View.Tidy ((Slack.none.crowd m.number).lose c.fleet)
      ((v.setStance c.id (.berthed m.number pos false)).add none (.berthed k.1 k.2 false)) := by
  have hmv := h.enter hc hm e hq
  have hst := View.stands_setStance h hc (.berthed m.number pos false)
  have hall : ∀ n p, stands ((v.setStance c.id (.berthed m.number pos false)).add none (.berthed k.1 k.2 false)).spots n p ↔
      n = m.number ∧ p = pos ∨ stands v.spots n p := by
    intro n p
    rw [View.stands_add, hst, hk]
    simp only [Stance.berth?_berthed, Option.some.injEq, Prod.mk.injEq, ne_eq]
    constructor
    · rintro ((⟨rfl, rfl⟩ | ⟨hp, -⟩) | ⟨rfl, rfl⟩)
      · exact Or.inl ⟨rfl, rfl⟩
      · exact Or.inr hp
      · exact Or.inr ⟨c, hc, hk⟩
    · rintro (⟨rfl, rfl⟩ | hp)
      · exact Or.inl (Or.inl ⟨rfl, rfl⟩)
      · by_cases hkp : k = (n, p)
        · subst hkp
          exact Or.inr ⟨rfl, rfl⟩
        · exact Or.inl (Or.inr ⟨hp, hkp⟩)
  refine hmv.add none _ _ (h.awake hc) (fun _ _ _ hg => by cases hg) ⟨fun n p hp => ?_, fun j hj b hb hbj => ?_⟩
    (fun l hl => ?_) (fun l hl _ => ?_) (fun _ => id)
  · obtain ⟨rfl, rfl⟩ := by simpa using hp
    exact h.homes c hc _ _ hk
  · obtain rfl : k = j := by simpa using hj
    rcases (hst k.1 k.2).mp ⟨b, hb, hbj⟩ with hp | ⟨-, hne⟩
    · exact entryAt_free e ⟨c, hc, hk.trans hp.symm⟩
    · exact hne hk
  · exact roomFor_mono (Nat.le_refl _) (fun p => (hall _ p).mp) (h.room_entered hm e hl)
  · exact unbroken_congr (fun p => (hall _ p).symm) (h.whole_entered hm e hl id)
theorem moveFromInside_yard (h : s.Yard) {l : Lane} (hl : l ∈ s.lanes) {pos n q fleet : Nat} (he : s.entryPos l = some pos)
    {b : Bus} (hb : b ∈ s.buses.records) (hf : b.fleet = some fleet) (hk : b.berth? = some (n, q)) :
    (s.moveFromInside l pos fleet n q b).Yard := by
  unfold State.moveFromInside
  split
  · have k := h.replaced (spot_mem hb) (site_mem hl) (entryPos_entryAt (h.sizes _ (site_mem hl)) he)
      ((spot_berth? b).trans hk)
      (h.uncalled (spot_mem hb) (by cases hp : b.place <;> simp_all [Bus.spot, Place.stance, Bus.berth?]))
    have ke := endStanding_tidy (s := ((s.parkAt b.id l.number pos).addPlaceholder n q).suspectLane n)
      (x := (Slack.none.crowd l.number).lose (some fleet)) (by simpa using hf ▸ k) fleet b
    exact View.Tidy.arrived ((roomTest_tidy ke l.number).weaken (fun _ => Nat.le_refl _)
      (by simp [Slack.ease, Slack.settled, Slack.lose, Slack.crowd, Slack.none]) (fun _ => id))
  · exact Yard.of_view (by simp) h

/-- A record made at the entry position of a lane leaves it crowded by one (R13, R14). -/
theorem View.Tidy.add_entry (h : v.Tidy x) (ha : v.loading = false) (f : Option Nat) (hn : ∀ b ∈ v.spots, ∀ g, f = some g → b.fleet ≠ some g)
    {m : Site} (hm : m ∈ v.sites) {pos : Nat} (e : entryAt m.kind m.size (stands v.spots m.number) pos) :
    View.Tidy (x.crowd m.number) (v.add f (.berthed m.number pos false)) := by
  have hall : ∀ n p, stands (v.add f (.berthed m.number pos false)).spots n p ↔ n = m.number ∧ p = pos ∨ stands v.spots n p := by
    intro n p
    rw [View.stands_add, or_comm]
    simp [eq_comm]
  refine h.add f _ _ ha hn ⟨fun n p hp => ?_, fun j hj b hb hbj => ?_⟩ (fun l hl => ?_) (fun l hl hb => ?_) (fun _ => id)
  · obtain ⟨rfl, rfl⟩ := by simpa using hp
    exact ⟨m, hm, rfl, e.1, e.2.1⟩
  · obtain rfl := by simpa using hj
    exact entryAt_free e ⟨b, hb, hbj⟩
  · exact roomFor_mono (Nat.le_refl _) (fun p => (hall _ p).mp) (h.room_entered hm e hl)
  · exact unbroken_congr (fun p => (hall _ p).symm) (h.whole_entered hm e hl hb)
theorem strayEntry_yard (h : s.Yard) (ha : s.view.loading = false) {l : Lane} (hl : l ∈ s.lanes) {pos fleet : Nat}
    (he : s.entryPos l = some pos) (hf : s.busOf fleet = none) : (s.strayEntry l pos fleet).Yard := by
  unfold State.strayEntry
  refine Yard.of_view ((raise_view _ _ _).trans (send_view _ _)) ?_
  split
  · have k := h.add_entry ha (some fleet) (fun b hb g e => Option.some.inj e ▸ busOf_none hf b hb) (site_mem hl)
      (entryPos_entryAt (h.sizes _ (site_mem hl)) he)
    have kr := roomTest_tidy (x := Slack.none.crowd l.number)
      (s := ((s.addNamed fleet (.parked l.number pos)).repeatNeed l.number pos).settleBerth true l.number pos)
      (by rw [settleBerth_view, repeatNeed_view, addNamed_view]; exact k) l.number
    rwa [Slack.ease_crowd] at kr
  · exact Yard.of_view (by simp) h

theorem expectedAt_off {b : Bus} {k : Nat × ReservationKind} (h : s.expectedAt b = some k) :
    b.berth? = none ∧ b.place ≠ .queued := by
  unfold State.expectedAt at h
  unfold Bus.berth?
  cases hp : b.place <;> simp_all
theorem atLeaving_lane {b : Bus} {n q : Nat} (hk : b.berth? = some (n, q)) (h : s.atLeaving b = true) :
    ∃ m ∈ s.lanes, m.number = n ∧ s.leavingPos m = some q := by
  unfold State.atLeaving at h
  rw [hk] at h
  dsimp only at h
  split at h
  · rename_i m hm
    exact ⟨m, laneOf_mem hm, laneOf_number hm, by simpa using h⟩
  · cases h

theorem knownEntry_yard (h : s.Yard) {l : Lane} (hl : l ∈ s.lanes) {pos fleet : Nat} (he : s.entryPos l = some pos)
    {b : Bus} (hb : s.busOf fleet = some b) (hs : s.standsAtEntry l fleet = false) : (s.knownEntry l pos fleet b).Yard := by
  have hm := busOf_mem hb
  have hf : b.fleet = some fleet := by simpa using List.find?_some hb
  unfold State.knownEntry
  split
  · rename_i he'
    obtain ⟨hk, hq⟩ := expectedAt_off he'
    split
    · exact arrive_yard h hl he hm hf hk hq _
    · exact moveIn_yard h hl he hm hf hk
  · rename_i hk
    split
    · rename_i ha
      obtain ⟨m, hml, rfl, hlv⟩ := atLeaving_lane hk ha
      exact moveFromLeaving_yard h hl hml he hm hf hk hlv hs
    · exact moveFromInside_yard h hl he hm hf hk
  · exact moveIn_yard h hl he hm hf ‹_›
theorem laneEntry_yard (h : s.Yard) (ha : s.view.loading = false) {l : Lane} (hl : l ∈ s.lanes) (fleet : Nat) :
    (s.laneEntry l fleet).Yard := by
  unfold State.laneEntry
  split
  · exact h
  · rename_i hs
    split
    · exact Yard.of_view (by simp) h
    · rename_i he
      split
      · exact strayEntry_yard h ha hl he ‹_›
      · exact knownEntry_yard h hl he ‹_› (by simpa using hs)

/-! ### Leaving (R15, R161) -/

/-- A departure is a deletion, as the view sees it (R161). -/
theorem departRelease_view (s : State) (r : Release) (i : Nat) :
    ∃ u : State, u.view = s.view ∧ s.departRelease r i = u.deleteBus i := ⟨_, by simp, rfl⟩

/-- The record at the leaving position is read out (R15, R161, R173). -/
theorem leaveLane_yard (h : s.Yard) {l : Lane} (hl : l ∈ s.lanes) {pos : Nat} (hp : s.leavingPos l = some pos) {b : Bus}
    (hb : b ∈ s.buses.records) (hk : b.berth? = some (l.number, pos)) : (s.leaveLane l pos b).Yard := by
  have first : ∀ n q, b.spot.stance.berth? = some (n, q) → ∀ m ∈ s.view.sites, m.number = n →
      firstAt m.size (stands s.view.spots n) q := by
    intro n q hq m hm hn
    rw [spot_berth?, hk] at hq
    obtain ⟨rfl, rfl⟩ := by simpa using hq
    have hml : m = l.site := h.site_same hm (site_mem hl) hn
    rw [hml]
    exact ((leavingPos_iff l pos).mp hp).2
  have uncalled : ∀ f, s.view.called = some f → b.spot.fleet ≠ some f ∧ s.view.called = some f := fun f e =>
    ⟨h.uncalled (spot_mem hb) (by cases hq : b.place <;> simp_all [Bus.spot, Place.stance, Bus.berth?]) f e, e⟩
  unfold State.leaveLane
  split
  · split
    · rename_i rel _
      obtain ⟨u, hu, e⟩ := departRelease_view s rel b.id
      refine Yard.of_view (settleBerth_view _ _ _ _) ?_
      rw [e]
      exact deleteSpot_tidy (c := b.spot) (hu ▸ h) (hu ▸ spot_mem hb) fun n q hq => Or.inr (hu ▸ first n q hq)
    · exact h
  · unfold State.Yard
    rw [settleBerth_view, setPlace_view, setDepartures_view]
    refine h.standing (spot_mem hb) .between _ s.view.called (Or.inr ⟨rfl, first⟩) ?_ (fun o ho _ => ?_) uncalled
    · refine Eq.mp (congrArg List.Nodup ?_) h.orders
      simp only [State.view, List.map_map]
      refine List.map_congr_left fun o _ => ?_
      dsimp only [Function.comp]
      split <;> rfl
    · obtain ⟨a, ha, rfl⟩ := List.mem_map.mp ho
      obtain ⟨o, hs, rfl⟩ := List.mem_map.mp ha
      split
      · rename_i e
        exact Or.inl ⟨by simpa [Bus.spot, ShuntOrder.mark] using e, rfl⟩
      · rename_i e
        exact Or.inr ⟨by simpa [Bus.spot, ShuntOrder.mark] using e, h.shunts o.mark (List.mem_map_of_mem hs) id⟩
  · rename_i hq
    unfold State.Yard
    rw [settleBerth_view, setPlace_view]
    exact h.standing (spot_mem hb) .away s.view.shunts s.view.called (Or.inr ⟨rfl, first⟩) h.orders
      (fun o ho hn => Or.inr ⟨h.unshunted (spot_mem hb) (by simp [Bus.spot, hq, Place.stance, Stance.shunted]) ho hn,
        h.shunts o ho hn⟩) uncalled
  · exact h
theorem laneExit_yard (h : s.Yard) {l : Lane} (hl : l ∈ s.lanes) (fleet : Nat) : (s.laneExit l fleet).Yard := by
  unfold State.laneExit
  split
  · rename_i pos b hp hb
    split
    · have ho : s.occupant l.number pos = some b := by simpa [State.leavingBus, hp] using hb
      obtain ⟨hm, hk⟩ := occupant_spec ho
      exact leaveLane_yard h hl hp hm hk
    · exact Yard.of_view (suspectLane_view _ _) h
  · exact Yard.of_view (suspectLane_view _ _) h

/-- LANE_READER_READING keeps the yard. -/
theorem laneReaderReading_kept (h : s.Yard) (n : Nat) (i : ReaderInput) (f : Nat) (d : Direction) :
    Kept (execLaneReaderReading n i f d s) := by
  unfold execLaneReaderReading
  split
  · rename_i ha hl
    have hm := laneOf_mem hl
    have hw := loading_of_active (Bool.and_eq_true _ _ ▸ ha).1
    split
    · exact kept h
    · exact kept_view h (suspectLane_view _ _)
    · exact kept (settle_yard (laneEntry_yard h hw hm f) _ _)
    · exact kept (settle_yard (laneExit_yard h hm f) _ _)
  · exact kept h

end Sys2Proof.Machine
end

section
/-! SUPPORT. A survey brings a lane to its detectors and keeps the yard (R21, R22). -/

namespace Sys2Proof.Machine

variable {s : State} {x : Slack} {v : View}

theorem shownPositions_ascend (s : State) (l : Lane) : (s.shownPositions l).Pairwise (· < ·) := (positions_ascend l).filter _
theorem mem_shownPositions (s : State) (l : Lane) (p : Nat) :
    p ∈ s.shownPositions l ↔ (1 ≤ p ∧ p ≤ l.size) ∧ s.detector l.number p = true := by
  rw [State.shownPositions, List.mem_filter, mem_positions]

/-- The covering run: from the first position shown, to the deep end of a DEAD_END lane or the last position shown (R21). -/
theorem mem_coveringRun (s : State) (l : Lane) (p : Nat) : p ∈ s.coveringRun l ↔ (1 ≤ p ∧ p ≤ l.size) ∧
    (∃ lo ∈ l.positions, s.detector l.number lo = true ∧ lo ≤ p) ∧
    (l.kind = .deadEnd ∨ ∃ hi ∈ l.positions, s.detector l.number hi = true ∧ p ≤ hi) := by
  have empty : (s.shownPositions l = []) → ¬ ∃ lo ∈ l.positions, s.detector l.number lo = true ∧ lo ≤ p := by
    rintro hn ⟨lo, hm, hd, -⟩
    have := (mem_shownPositions s l lo).mpr ⟨(mem_positions l lo).mp hm, hd⟩
    rw [hn] at this
    cases this
  unfold State.coveringRun
  cases hlo : (s.shownPositions l).head? with
  | none => simp [empty (List.head?_eq_none_iff.mp hlo)]
  | some lo =>
    cases hhi : (s.shownPositions l).getLast? with
    | none => simp [empty (List.getLast?_eq_none_iff.mp hhi)]
    | some hi =>
      obtain ⟨hlom, hmin⟩ := (head?_ascending (shownPositions_ascend s l) lo).mp hlo
      obtain ⟨hhim, hmax⟩ := (getLast?_ascending (shownPositions_ascend s l) hi).mp hhi
      rw [mem_shownPositions] at hlom hhim
      have low : lo ≤ p ↔ ∃ q ∈ l.positions, s.detector l.number q = true ∧ q ≤ p := by
        constructor
        · exact fun h => ⟨lo, (mem_positions l lo).mpr hlom.1, hlom.2, h⟩
        · rintro ⟨q, hq, hd, hle⟩
          exact Nat.le_trans (hmin q ((mem_shownPositions s l q).mpr ⟨(mem_positions l q).mp hq, hd⟩)) hle
      have high : p ≤ hi ↔ ∃ q ∈ l.positions, s.detector l.number q = true ∧ p ≤ q := by
        constructor
        · exact fun h => ⟨hi, (mem_positions l hi).mpr hhim.1, hhim.2, h⟩
        · rintro ⟨q, hq, hd, hle⟩
          exact Nat.le_trans hle (hmax q ((mem_shownPositions s l q).mpr ⟨(mem_positions l q).mp hq, hd⟩))
      rw [← low, ← high]
      simp only [List.mem_filter, mem_positions, Bool.and_eq_true, decide_eq_true_eq]
      cases l.kind
      · simp only [true_or, and_true]
        omega
      · simp only [reduceCtorEq, false_or]

theorem coveringRun_unbroken (s : State) (l : Lane) : unbroken l.kind l.size (· ∈ s.coveringRun l) := by
  intro p q h1 hpq hq hp hr
  simp only [mem_coveringRun] at hp hr ⊢
  obtain ⟨-, ⟨lo, hm, hd, hle⟩, -⟩ := hp
  refine ⟨⟨by omega, hq⟩, ⟨lo, hm, hd, by omega⟩, hr.elim Or.inl ?_⟩
  rintro ⟨r, hqr, hrn, -, -, hk⟩
  refine hk.imp_right ?_
  rintro ⟨hi, hhm, hhd, hhi⟩
  exact ⟨hi, hhm, hhd, by omega⟩

/-! ### The steps of a survey -/

/-- Records of one lane are deleted, its stack excused. -/
theorem deletions_tidy (is : List Nat) (n : Nat) : ∀ {s : State}, s.view.Tidy x → x.broken n →
    (∀ c ∈ s.view.spots, c.id ∈ is → ∃ q, c.stance.berth? = some (n, q)) →
    (is.foldl (fun s i => s.deleteBus i) s).view.Tidy x ∧ s.view.Eased (is.foldl (fun s i => s.deleteBus i) s).view ∧
      ∀ c, c ∈ (is.foldl (fun s i => s.deleteBus i) s).view.spots ↔ c ∈ s.view.spots ∧ c.id ∉ is := by
  induction is with
  | nil => exact fun h _ _ => ⟨h, View.Eased.refl _, fun c => by simp⟩
  | cons i is ih =>
    intro s h hb hc
    obtain ⟨hsp, heased⟩ := deleteBus_view h.distinct i
    have hmem : ∀ c, c ∈ (s.deleteBus i).view.spots ↔ c ∈ s.view.spots ∧ c.id ≠ i := fun c => by
      rw [hsp, View.mem_remove]
    have hd : (s.deleteBus i).view.Tidy x := deleteBus_tidy h i fun b hm e m q hq => Or.inl (by
      obtain ⟨q', hq'⟩ := hc b.spot (spot_mem hm) (by simp [Bus.spot, e])
      rw [spot_berth?, hq] at hq'
      obtain ⟨rfl, -⟩ := by simpa using hq'
      exact hb)
    obtain ⟨h1, h2, h3⟩ := ih hd hb fun c hm hi => hc c ((hmem c).mp hm).1 (List.mem_cons_of_mem _ hi)
    refine ⟨h1, heased.trans h2, fun c => ?_⟩
    rw [List.foldl_cons, h3, hmem, List.mem_cons, not_or, and_assoc]

/-- Placeholders are put at free positions of one lane, its stack and its promises excused. -/
theorem placeholders_tidy (ps : List Nat) {m : Site} : ∀ {s : State}, s.view.Tidy x → s.view.loading = false →
    m ∈ s.view.sites → x.broken m.number → m.promised ≤ x.excess m.number → ps.Nodup →
    (∀ p ∈ ps, (1 ≤ p ∧ p ≤ m.size) ∧ ¬ stands s.view.spots m.number p) →
    (ps.foldl (fun s p => s.addPlaceholder m.number p) s).view.Tidy x ∧
      (ps.foldl (fun s p => s.addPlaceholder m.number p) s).view.sites = s.view.sites ∧
      ∀ p, stands (ps.foldl (fun s p => s.addPlaceholder m.number p) s).view.spots m.number p ↔
        stands s.view.spots m.number p ∨ p ∈ ps := by
  induction ps with
  | nil => exact fun h _ _ _ _ _ _ => ⟨h, rfl, fun p => by simp⟩
  | cons q ps ih =>
    intro s h ha hm hb hx hn hp
    obtain ⟨hq, hn⟩ := List.nodup_cons.mp hn
    obtain ⟨hsz, hfree⟩ := hp q (List.mem_cons_self ..)
    have hst : ∀ n p, stands (s.addPlaceholder m.number q).view.spots n p ↔
        stands s.view.spots n p ∨ m.number = n ∧ q = p := fun n p => by
      rw [addPlaceholder_view, View.stands_add]
      simp
    have hadd : (s.addPlaceholder m.number q).view.Tidy x := by
      rw [addPlaceholder_view] at hst ⊢
      refine h.add none _ x ha (fun _ _ _ e => by cases e) ⟨fun n p e => ?_, fun k e b hbm hbk => ?_⟩ (fun l hl => ?_)
        (fun l hl hbr => unbroken_congr (fun p => ?_) (h.whole l hl hbr)) (fun _ => id)
      · obtain ⟨rfl, rfl⟩ := by simpa using e
        exact ⟨m, hm, rfl, hsz⟩
      · obtain rfl := by simpa using e
        exact hfree ⟨b, hbm, hbk⟩
      · by_cases hl' : l.number = m.number
        · have := h.site_same hl hm hl'
          subst this
          rw [Nat.sub_eq_zero_of_le hx]
          refine ⟨Nat.zero_le _, fun p h1 h2 _ => ?_⟩
          cases l.kind
          · exact h1
          · exact Nat.le_trans (Nat.le_of_eq (Nat.zero_add p)) h2
        · refine roomFor_mono (Nat.le_refl _) (fun p hp => ?_) (h.rooms l hl)
          exact ((hst _ _).mp hp).resolve_right fun e => hl' e.1.symm
      · have hl' : m.number ≠ l.number := fun e => hbr (e ▸ hb)
        rw [hst]
        simp [hl']
    have hsites : (s.addPlaceholder m.number q).view.sites = s.view.sites := by
      rw [addPlaceholder_view]
      rfl
    have free : ∀ p ∈ ps, (1 ≤ p ∧ p ≤ m.size) ∧ ¬ stands (s.addPlaceholder m.number q).view.spots m.number p := by
      intro p hpm
      obtain ⟨hr, hs⟩ := hp p (List.mem_cons_of_mem _ hpm)
      refine ⟨hr, fun hs' => ?_⟩
      rcases (hst _ _).mp hs' with hs' | ⟨-, rfl⟩
      · exact hs hs'
      · exact hq hpm
    obtain ⟨h1, h2, h3⟩ := ih hadd (by rw [addPlaceholder_view]; exact ha) (hsites ▸ hm) hb hx hn free
    refine ⟨h1, h2.trans hsites, fun p => ?_⟩
    rw [List.foldl_cons, h3, hst, List.mem_cons, or_assoc]
    simp [eq_comm]

/-- The slack of a lane with up to `k` promises too many. -/
def Slack.crowded (n k : Nat) : Slack := { Slack.none with excess := fun m => if m = n then k else 0 }

/-- The room test repeated clears the promises over the room (R14, R21). -/
theorem roomTests_yard (n k : Nat) : ∀ {s : State}, s.view.Tidy (Slack.crowded n k) → (State.roomTests n k s).Yard := by
  induction k with
  | zero => exact fun h => h.done (fun m => by simp [Slack.crowded]) (fun _ => id) (fun _ => id)
  | succ k ih =>
    intro s h
    refine ih ((roomTest_tidy h n).weaken (fun m => ?_) (fun _ => id) (fun _ => id))
    simp only [Slack.ease, Slack.crowded]
    split <;> simp

theorem View.Tidy.home (h : s.view.Tidy x) {l : Lane} (hl : l ∈ s.lanes) {c : Spot} (hc : c ∈ s.view.spots) {q : Nat}
    (hq : c.stance.berth? = some (l.number, q)) : 1 ≤ q ∧ q ≤ l.size := by
  obtain ⟨m, hm, hn, hh⟩ := h.homes c hc _ _ hq
  have hml : m = l.site := h.site_same hm (site_mem hl) hn
  rwa [hml] at hh

/-- The records that a survey deletes are those of the lane at positions whose detectors show clear (R21). -/
theorem goneRecords_iff (h : s.Yard) {l : Lane} (hl : l ∈ s.lanes) {c : Spot} (hc : c ∈ s.view.spots) :
    c.id ∈ (s.goneRecords l).map (·.id) ↔ ∃ q, c.stance.berth? = some (l.number, q) ∧ s.detector l.number q = false := by
  obtain ⟨b, hb, rfl⟩ := List.mem_map.mp hc
  constructor
  · intro hi
    obtain ⟨a, ha, e⟩ := List.mem_map.mp hi
    obtain ⟨p, -, hp⟩ := List.mem_filterMap.mp ha
    split at hp
    · cases hp
    · rename_i hd
      obtain ⟨hm, hk⟩ := occupant_spec hp
      have hab : a = b := id_unique h.distinct hm hb e
      exact ⟨p, by rw [spot_berth?, ← hab, hk], by simpa using hd⟩
  · rintro ⟨q, hq, hd⟩
    obtain ⟨a, ha⟩ := Option.isSome_iff_exists.mp ((occupant_isSome_iff l.number q).mpr ⟨_, hc, hq⟩)
    obtain ⟨hm, hk⟩ := occupant_spec ha
    refine List.mem_map.mpr ⟨a, List.mem_filterMap.mpr ⟨q, (mem_positions l q).mpr (h.home hl hc hq), ?_⟩, ?_⟩
    · simp [hd, ha]
    · exact h.apart a.spot (spot_mem hm) b.spot hc _ (by rw [spot_berth?, hk]) hq

theorem placeholderPositions_ascend (s : State) (l : Lane) : (s.placeholderPositions l).Pairwise (· < ·) := by
  have : (s.coveringRun l).Pairwise (· < ·) := by
    unfold State.coveringRun
    split
    · exact (positions_ascend l).filter _
    · exact List.Pairwise.nil
  exact this.filter _

/-- A survey brings its lane to its detectors and keeps the yard (R21). -/
theorem surveyLane_yard (h : s.Yard) (ha : s.view.loading = false) {l : Lane} (hl : l ∈ s.lanes) :
    (s.surveyLane l).1.Yard := by
  unfold State.surveyLane
  dsimp only
  split
  · refine Yard.of_view (surveySettle_view _ _) ?_
    have h0 : s.view.Tidy { Slack.crowded l.number l.promisedCount with broken := fun n => n = l.number } :=
      h.weaken (fun _ => Nat.zero_le _) (fun _ => False.elim) (fun _ => id)
    obtain ⟨h1, ⟨g, hg, hgs⟩, hs1⟩ := deletions_tidy _ l.number h0 rfl fun c hc hi => by
      obtain ⟨q, hq, -⟩ := (goneRecords_iff h hl hc).mp hi
      exact ⟨q, hq⟩
    have hw := (foldl_delete_keeps ((s.goneRecords l).map (·.id)) s).toHolds.loading.trans ha
    generalize ((s.goneRecords l).map (·.id)).foldl (fun s i => s.deleteBus i) s = t at h1 hgs hs1 hw ⊢
    obtain ⟨hnum, hkind, hsize, hprom⟩ := hg l.site
    have hm : g l.site ∈ t.view.sites := hgs ▸ List.mem_map_of_mem (site_mem hl)
    have left : ∀ p, stands t.view.spots l.number p ↔ stands s.view.spots l.number p ∧ s.detector l.number p = true := by
      intro p
      constructor
      · rintro ⟨c, hc, hk⟩
        obtain ⟨hcs, hci⟩ := (hs1 c).mp hc
        refine ⟨⟨c, hcs, hk⟩, ?_⟩
        by_contra hd
        exact hci ((goneRecords_iff h hl hcs).mpr ⟨p, hk, by simpa using hd⟩)
      · rintro ⟨⟨c, hc, hk⟩, hd⟩
        refine ⟨c, (hs1 c).mpr ⟨hc, fun hi => ?_⟩, hk⟩
        obtain ⟨q, hq, hd'⟩ := (goneRecords_iff h hl hc).mp hi
        rw [hk] at hq
        obtain rfl : p = q := by simpa using hq
        rw [hd] at hd'
        cases hd'
    have holes : ∀ p, p ∈ s.placeholderPositions l ↔ p ∈ s.coveringRun l ∧ ¬ stands t.view.spots l.number p := by
      intro p
      rw [left, ← occupant_isSome_iff, State.placeholderPositions, List.mem_filter]
      change _ ∧ _ ↔ _ ∧ ¬ (s.recorded l.number p = true ∧ _)
      cases s.detector l.number p <;> cases s.recorded l.number p <;> simp
    obtain ⟨h2, hs, hst⟩ := placeholders_tidy (s.placeholderPositions l) (m := g l.site) h1 hw hm hnum
      (Nat.le_trans hprom (Nat.le_of_eq (if_pos hnum).symm)) ((placeholderPositions_ascend s l).imp Nat.ne_of_lt)
      fun p hp => by
        obtain ⟨hc, hn⟩ := (holes p).mp hp
        rw [hnum, hsize]
        exact ⟨((mem_coveringRun s l p).mp hc).1, hn⟩
    rw [show (g l.site).number = l.number from hnum] at h2 hs hst
    generalize (s.placeholderPositions l).foldl (fun s p => s.addPlaceholder l.number p) t = u at h2 hs hst ⊢
    have stack : ∀ p, p ∈ s.coveringRun l ↔ stands u.view.spots l.number p := by
      intro p
      rw [hst, holes]
      constructor
      · intro hp
        by_cases hs : stands t.view.spots l.number p
        · exact Or.inl hs
        · exact Or.inr ⟨hp, hs⟩
      · rintro (hp | hp)
        · obtain ⟨⟨c, hc, hk⟩, hd⟩ := (left p).mp hp
          have hr := h.home hl hc hk
          have hm := (mem_positions l p).mpr hr
          exact (mem_coveringRun s l p).mpr ⟨hr, ⟨p, hm, hd, Nat.le_refl _⟩, Or.inr ⟨p, hm, hd, Nat.le_refl _⟩⟩
        · exact hp.1
    refine roomTests_yard l.number l.promisedCount (h2.mend (fun _ => False) fun m hmu hb _ => ?_)
    have hmg : m = g l.site := h2.site_same hmu (hs ▸ hm) (Eq.trans hb hnum.symm)
    rw [hmg, hkind, hsize, hnum]
    exact unbroken_congr stack (coveringRun_unbroken s l)
  · exact Yard.of_view ((raise_view _ _ _).trans (updateLane_view _ _ fun _ => rfl)) h

/-- SURVEY_PERIOD_END keeps the yard. -/
theorem surveyPeriodEnd_kept (h : s.Yard) (n : Nat) : Kept (execSurveyPeriodEnd n s) := by
  unfold execSurveyPeriodEnd
  split
  · rename_i l ha hl
    have hk := surveyLane_yard h (loading_of_active ha) (laneOf_mem hl)
    split
    · generalize s.surveyLane l = o at hk ⊢
      dsimp only
      refine kept (Yard.of_view (reportOutcome_view _ _) (settle_yard ?_ _ _))
      split
      · exact hk
      · exact Yard.of_view (tellSuspect_view _ _) hk
    · exact kept h
  · exact kept h

end Sys2Proof.Machine
end

section
/-! SUPPORT. The commands of the Wash Sequencer and of the Berth Allocator keep the yard. -/

namespace Sys2Proof.Machine

variable {s : State} {x : Slack} {v : View}

/-- A record that takes the stance it has leaves the view as it is. -/
theorem View.Tidy.setStance_self (h : v.Tidy x) {c : Spot} (hc : c ∈ v.spots) : v.setStance c.id c.stance = v := by
  have : v.spots.map (fun b => if b.id == c.id then { b with stance := c.stance } else b) = v.spots := by
    conv_rhs => rw [← List.map_id v.spots]
    refine List.map_congr_left fun b hb => ?_
    split
    · rename_i e
      rw [h.same hb hc (by simpa using e)]
      rfl
    · rfl
  unfold View.setStance
  rw [this]
theorem setStance_away (h : s.view.Tidy x) {b : Bus} (hb : b ∈ s.buses.records) (hp : b.place.stance = .away) :
    s.view.setStance b.id .away = s.view := hp ▸ h.setStance_self (spot_mem hb)

/-! ### The wash lane -/

theorem createQueued_yard (h : s.Yard) (ha : s.view.loading = false) {f : Nat} (hf : s.busOf f = none) :
    (s.createQueued f).Yard := by
  unfold State.createQueued
  split
  · exact addBus_off_tidy h ha hf _ _ _ _ rfl
  · exact Yard.of_view (raise_view _ _ _) h
theorem createApron_yard (h : s.Yard) (ha : s.view.loading = false) {f : Nat} (hf : s.busOf f = none) :
    (s.createApron f).Yard := by
  unfold State.createApron
  split
  · exact Yard.of_view (setWash_view_same _ _ rfl) (addBus_off_tidy h ha hf _ _ _ _ rfl)
  · exact Yard.of_view (raise_view _ _ _) h
theorem takeEntry_yard (h : s.Yard) (ha : s.view.loading = false) {f : Nat} (hf : s.busOf f = none) :
    (s.takeEntry f).Yard := by
  unfold State.takeEntry
  split
  · exact createQueued_yard h ha hf
  · split
    · exact createApron_yard h ha hf
    · exact Yard.of_view (raise_view _ _ _) h
theorem takeBypass_yard (h : s.Yard) (ha : s.view.loading = false) {f : Nat} (hf : s.busOf f = none) :
    (s.takeBypass f).Yard := by
  unfold State.takeBypass
  split
  · exact createApron_yard h ha hf
  · exact Yard.of_view (raise_view _ _ _) h

/-- The call ends: none is called. -/
theorem View.Tidy.uncall (h : v.Tidy x) : View.Tidy x { v with called := none } := { h with
  called := fun _ e => by cases e }
theorem stageBus_spec {n : Nat} {b : Bus} (h : s.stageBus n = some b) : b ∈ s.buses.records ∧ b.place = .washing n :=
  ⟨List.mem_of_find?_eq_some h, by simpa using List.find?_some h⟩

/-- A record confirmed in a stage was the called one, or it stood in the stage behind (R54, R56). -/
theorem confirmInto_yard (h : s.Yard) {n m : Nat} {b : Bus} (hc : s.comingInto n = some (b, m)) :
    (s.confirmInto b m n).Yard := by
  unfold State.comingInto at hc
  unfold State.confirmInto
  split at hc
  · split at hc
    · rename_i f hcf
      obtain ⟨a, ha, e⟩ := Option.map_eq_some_iff.mp hc
      obtain ⟨rfl, rfl⟩ := by simpa using e
      obtain ⟨c, hcm, hcfl, hcs⟩ := h.called f hcf
      have hm := busOf_mem ha
      have hf : a.fleet = some f := by simpa using List.find?_some ha
      have hac : a.spot = c := h.same (spot_mem hm) hcm (h.fleets _ (spot_mem hm) _ hcm f hf hcfl)
      have hst : a.place.stance = .queued := by rw [show a.place.stance = c.stance from congrArg Spot.stance hac, hcs]
      have hp : a.place = .queued := by cases hp : a.place <;> simp_all [Place.stance]
      simp only [beq_self_eq_true, if_true]
      unfold State.Yard
      rw [setWash_view, receiveInto_view]
      exact h.unqueue hm hp none fun _ e => by cases e
    · cases hc
  · split at hc
    · obtain ⟨a, ha, e⟩ := Option.map_eq_some_iff.mp hc
      obtain ⟨rfl, rfl⟩ := by simpa using e
      obtain ⟨hm, hp⟩ := stageBus_spec ha
      have k : (s.receiveInto a.id n).Yard := by
        unfold State.Yard
        rw [receiveInto_view, setStance_away h hm (by rw [hp]; rfl)]
        exact h
      dsimp only
      split
      · unfold State.Yard
        rw [setWash_view]
        exact k.uncall
      · exact Yard.of_view (vacate_view _ _) k
    · cases hc
theorem stageShown_yard (h : s.Yard) (n : Nat) : (s.stageShown n).Yard := by
  unfold State.stageShown
  split
  · exact confirmInto_yard h ‹_›
  · exact Yard.of_view (by simp) h
theorem stageCleared_yard (h : s.Yard) (n : Nat) : (s.stageCleared n).Yard := by
  unfold State.stageCleared
  split
  · rename_i b hb
    obtain ⟨hm, hp⟩ := stageBus_spec hb
    split
    · unfold State.confirmApron
      have hu := updateBus_view (s := s) b.id (fun y => { y with washed := true }) fun _ => rfl
      refine Yard.of_view ((vacate_view _ _).trans (setWash_view_same _ _ rfl)) ?_
      unfold State.Yard
      rw [joinApron_view, hu, setStance_away h hm (by rw [hp]; rfl)]
      exact h
    · exact h
  · split
    · exact Yard.of_view (setStage_view _ _ _ _) h
    · exact h
theorem stageChanged_yard (h : s.Yard) (n : Nat) (o : Bool) : (s.stageChanged n o).Yard := by
  unfold State.stageChanged
  split
  · split
    · exact h
    · exact stageShown_yard h n
  · exact stageCleared_yard h n

theorem entryReaderReading_kept (h : s.Yard) (f : Nat) : Kept (execEntryReaderReading f s) := by
  unfold execEntryReaderReading
  split
  · rename_i hc
    simp only [Bool.and_eq_true, State.washes, Option.isNone_iff_eq_none] at hc
    exact kept (settle_yard (takeEntry_yard h (loading_of_active hc.1.1.1) hc.2) _ _)
  · exact kept h
theorem bypassReaderReading_kept (h : s.Yard) (f : Nat) : Kept (execBypassReaderReading f s) := by
  unfold execBypassReaderReading
  split
  · rename_i hc
    simp only [Bool.and_eq_true, Option.isNone_iff_eq_none] at hc
    exact kept (settle_yard (takeBypass_yard h (loading_of_active hc.1.1.1) hc.2) _ _)
  · exact kept h
theorem stageDetectorChange_kept (h : s.Yard) (n : Nat) (o : Bool) : Kept (execStageDetectorChange n o s) := by
  unfold execStageDetectorChange
  split
  · exact kept h
  · have k : (s.setStageDetector n o).Yard := Yard.of_view (setInputs_view _ _) h
    dsimp only
    refine kept ?_
    split
    · exact settleWash_yard (stageChanged_yard k n o)
    · exact k
theorem entryCallTimeout_kept (h : s.Yard) : Kept (execEntryCallTimeout s) := by
  unfold execEntryCallTimeout
  split
  · refine kept (settleWash_yard (Yard.of_view (s := s.setWash _) ((enterStopped_view _).trans (raise_view _ _ _)) ?_))
    unfold State.Yard
    rw [setWash_view]
    exact h.uncall
  · exact kept h
theorem spinupExpiry_kept (h : s.Yard) (n : Nat) : Kept (execSpinupExpiry n s) := by
  unfold execSpinupExpiry
  split
  · exact kept_view h (enterDwell_view _ _)
  · exact kept h
theorem dwellExpiry_kept (h : s.Yard) (n : Nat) : Kept (execDwellExpiry n s) := by
  unfold execDwellExpiry
  split
  · exact kept (settleWash_yard (Yard.of_view (setStage_view _ _ _ _) h))
  · exact kept h
theorem runonExpiry_kept (h : s.Yard) (n : Nat) : Kept (execRunonExpiry n s) := by
  unfold execRunonExpiry
  split
  · exact kept (settleWash_yard (Yard.of_view (setStage_view _ _ _ _) h))
  · exact kept h
theorem advanceTimeout_kept (h : s.Yard) (n : Nat) : Kept (execAdvanceTimeout n s) := by
  unfold execAdvanceTimeout
  split
  · exact kept_view h (by simp)
  · exact kept h
theorem stopInputAsserted_kept (h : s.Yard) : Kept (execStopInputAsserted s) := by
  unfold execStopInputAsserted
  dsimp only
  split
  · exact kept_view h (by simp)
  · exact kept_view h (setInputs_view _ _)
theorem temperatureReading_kept (h : s.Yard) (d : Int) : Kept (execTemperatureReading d s) := by
  unfold execTemperatureReading
  dsimp only
  split
  · exact kept (settleWash_yard (Yard.of_view ((enterFrostHold_view _).trans (setWash_view_same _ _ rfl))
      (Yard.of_view (setInputs_view _ _) h)))
  · exact kept_view h (setInputs_view _ _)
theorem frostClearExpiry_kept (h : s.Yard) : Kept (execFrostClearExpiry s) := by
  unfold execFrostClearExpiry
  split
  · exact kept (settleWash_yard (Yard.of_view (setWash_view_same _ _ rfl) h))
  · exact kept h

/-! ### Calls and takes -/

/-- A frame taken and acted on keeps the yard where the act does (R184). -/
theorem hear_yard (h : s.Yard) (a : Bool) (f : State → State)
    (hf : ∀ v : State, v.Yard → v.view.loading = false → (f v).Yard) : (s.hear a f).Yard := by
  have k : s.frameEnded.Yard := Yard.of_view (frameEnded_view _) h
  unfold State.hear
  split
  · split
    · rename_i hc
      refine hf _ k ?_
      simp only [Bool.and_eq_true, State.takesFrame, State.hears] at hc
      rw [frameEnded_view]
      exact loading_of_active (by simp_all)
    · exact k
  · exact h
theorem transit_away {b : Bus} (h : b.isTransit = true) : b.place.stance = .away := by
  unfold Bus.isTransit at h
  cases hp : b.place <;> simp_all [Place.stance]
theorem apron_away {b : Bus} (h : b.isApron = true) : b.place.stance = .away := by
  unfold Bus.isApron at h
  cases hp : b.place <;> simp_all [Place.stance]
theorem apronBus_spec {f : Nat} {b : Bus} (h : s.apronBus f = some b) : b ∈ s.buses.records ∧ b.place.stance = .away := by
  obtain ⟨hb, ha⟩ := Option.filter_eq_some_iff.mp h
  exact ⟨busOf_mem hb, apron_away ha⟩

theorem endSeries_yard (h : s.Yard) (f : Nat) : (s.endSeries f).Yard := by
  have k : ((s.raise .noBerth f).callerIdle).Yard := Yard.of_view (by simp) h
  unfold State.endSeries
  dsimp only
  split
  · rename_i b hb
    obtain ⟨hm, hp⟩ := apronBus_spec hb
    exact Yard.of_view (setPlace_view_at k.distinct hm _ (by rw [hp]; rfl)) k
  · exact k
theorem callTimerExpiry_kept (h : s.Yard) : Kept (execCallTimerExpiry s) := by
  unfold execCallTimerExpiry
  split
  · split
    · exact kept h
    · split
      · split
        · rename_i hb
          exact kept (makeCall_tidy h (h.awake (spot_mem (apronBus_spec hb).1)) _ _ _)
        · exact kept (settleWash_yard (Yard.of_view (callerIdle_view _) h))
      · exact kept (settleWash_yard (endSeries_yard h _))
  · exact kept h
  · exact kept h
theorem unplacedRetryExpiry_kept (h : s.Yard) (f : Nat) : Kept (execUnplacedRetryExpiry f s) := by
  unfold execUnplacedRetryExpiry
  split
  · rename_i b hb
    split
    · rename_i hp
      split
      · exact kept (settleWash_yard (Yard.of_view (setPlace_view_at h.distinct (busOf_mem hb) _ (by rw [hp]; rfl)) h))
      · exact kept h
    · exact kept h
  · exact kept h
theorem takeWaitExpiry_kept (h : s.Yard) : Kept (execTakeWaitExpiry s) := by
  unfold execTakeWaitExpiry
  split
  · split
    · exact kept h
    · exact kept (settleWash_yard (Yard.of_view (callerIdle_view _) h))
  · exact kept h
  · exact kept h

/-- A hold converted keeps what is promised: with its offer gone, the yard is kept (R8, R76). -/
theorem convertHold_tidy (h : s.view.Tidy x) {l : Site} (hl : l ∈ s.view.sites) {k : OfferHold} (hk : k ∈ l.holds)
    (gone : ∀ o ∈ s.view.offers, o.caller ≠ k.caller) (f : Nat) : (s.convertHold l.number k f).view.Tidy x := by
  unfold State.convertHold
  rw [addReservation_view, releaseHold_view, List.map_map]
  refine h.promise x.excess _ _ (fun m => ?_) (fun m hm => ?_) h.callers (fun o ho hw => ?_) (fun e => (h.loading e).2.1)
  · obtain ⟨a, b, c⟩ := atSite_fixed l.number (Site.unhold k) (fun _ => ⟨rfl, rfl, rfl⟩) m
    obtain ⟨a', b', c'⟩ := atSite_fixed l.number (Site.reserve ⟨.transit, f⟩) (fun _ => ⟨rfl, rfl, rfl⟩)
      (atSite l.number (Site.unhold k) m)
    exact ⟨a'.trans a, b'.trans b, c'.trans c⟩
  · refine roomFor_mono (Nat.le_of_eq (congrArg (· - _) ?_)) (fun _ => id) (h.rooms m hm)
    by_cases hn : m.number = l.number
    · have := h.site_same hm hl hn
      subst this
      have hlen := removeFirst_length (fun y => y == k) m.holds (by simpa using hk)
      have hpos := List.length_pos_of_mem hk
      simp only [Function.comp, atSite, Site.unhold, Site.reserve, Site.promised, beq_self_eq_true, if_true,
        List.length_append, List.length_singleton]
      omega
    · simp [Function.comp, atSite, hn]
  · obtain ⟨m, hm, hn, hh⟩ := h.offers o ho hw
    refine ⟨m, hm, hn, ?_⟩
    have hne : (⟨o.caller, o.seq⟩ : OfferHold) ≠ k := fun e => gone o ho (congrArg OfferHold.caller e)
    by_cases hnl : m.number = l.number
    · simp only [Function.comp, atSite, Site.unhold, Site.reserve, hnl, beq_self_eq_true, if_true]
      exact mem_removeFirst_of_ne _ hh (by simpa using hne)
    · simpa [Function.comp, atSite, hnl] using hh
theorem finishTake_tidy (h : s.view.Tidy x) (o : OfferRecord)
    (hold : ∃ l ∈ s.view.sites, l.number = o.lane ∧ (⟨o.caller, o.call.seq⟩ : OfferHold) ∈ l.holds)
    (gone : ∀ p ∈ s.view.offers, p.caller ≠ o.caller) : (s.finishTake o).view.Tidy x := by
  obtain ⟨l, hl, hn, hh⟩ := hold
  have k := convertHold_tidy h hl hh gone o.call.fleet
  rw [hn] at k
  unfold State.finishTake
  dsimp only
  split
  · rwa [takeForCall_view, send_view]
  · rwa [send_view]

/-- A call won keeps the yard: its hold becomes a reservation, or goes (R76). -/
theorem winCall_yard (h : s.Yard) {o : OfferRecord} (ho : o ∈ s.alloc.offers) (hw : o.withdrawn = false) :
    (s.winCall o).Yard := by
  have hmark : o.mark ∈ s.view.offers := List.mem_map_of_mem ho
  have hold : ∃ l ∈ s.view.sites, l.number = o.lane ∧ (⟨o.caller, o.call.seq⟩ : OfferHold) ∈ l.holds := h.offers _ hmark hw
  have ha : s.view.loading = false := by
    cases hl : s.view.loading with
    | false => rfl
    | true =>
      rw [(h.loading hl).2.1] at hmark
      cases hmark
  have k := removeOffer_tidy h o.caller
  have gone : ∀ p ∈ (s.removeOffer o.caller).view.offers, p.caller ≠ o.caller := fun p hp => (mem_removeOffer hp).2
  have hold' : ∃ l ∈ (s.removeOffer o.caller).view.sites, l.number = o.lane ∧ (⟨o.caller, o.call.seq⟩ : OfferHold) ∈ l.holds := by
    rw [removeOffer_view]
    exact hold
  have ha' : (s.removeOffer o.caller).view.loading = false := by
    rw [removeOffer_view]
    exact ha
  unfold State.winCall
  generalize s.removeOffer o.caller = t at k gone hold' ha'
  dsimp only
  split
  · rename_i b hb
    split
    · rename_i hap
      have e : ((t.leaveApron o.call.fleet).setPlace b.id (t.takePlace o)).view = t.view := by
        rw [setPlace_view_at (s := t.leaveApron o.call.fleet) k.distinct (busOf_mem hb) _ (by rw [apron_away hap]; rfl)]
        exact leaveApron_view _ _
      exact finishTake_tidy (e ▸ k) o (e ▸ hold') (e ▸ gone)
    · exact releaseHold_tidy k _ _ gone
  · rename_i hb
    split
    · have kb := addBus_off_tidy k ha' hb .named o.call.cls (t.takePlace o) o.call.washed rfl
      have e := addBus_view t (some o.call.fleet) .named o.call.cls (t.takePlace o) o.call.washed
      exact finishTake_tidy kb o (by rw [e]; exact hold') (by rw [e]; exact gone)
    · exact releaseHold_tidy (by simpa using k) _ _ (by simpa using gone)
theorem offerWindowExpiry_kept (h : s.Yard) (c : Nat) : Kept (execOfferWindowExpiry c s) := by
  unfold execOfferWindowExpiry
  split
  · rename_i o ho
    split
    · exact kept h
    · split
      · exact kept (settle_yard (dropOffer_tidy h c) _ _)
      · rename_i hl
        simp only [State.lostCall, Bool.or_eq_true, not_or, Bool.not_eq_true] at hl
        exact kept (settle_yard (winCall_yard h (offerOf_caller ho).1 hl.1) _ _)
  · exact kept h
theorem takeWatchExpiry_kept (h : s.Yard) (f : Nat) : Kept (execTakeWatchExpiry f s) := by
  have k := Yard.of_view (setAlloc_view_same s { s.alloc with
    arrived := s.alloc.arrived.filter (fun a => a.fleet != f || !expired s.now a.sent.watch) } rfl) h
  unfold execTakeWatchExpiry
  dsimp only
  split
  · rename_i hb
    split
    · rename_i hp
      split
      · exact kept (Yard.of_view (setPlace_view_at k.distinct (busOf_mem hb) _ (by rw [hp]; rfl)) k)
      · exact kept k
    · exact kept k
  · exact kept k
theorem transitExpired_away {b : Bus} (h : s.transitExpired b = true) : b.place.stance = .away := by
  unfold State.transitExpired at h
  cases hp : b.place <;> simp_all [Place.stance]
theorem transitTimeout_kept (h : s.Yard) (f : Nat) : Kept (execTransitTimeout f s) := by
  unfold execTransitTimeout
  split
  · rename_i b _ hb
    split
    · rename_i he
      have k : (s.deleteBus b.id).Yard := deleteBus_off_tidy h (spot_mem (busOf_mem hb))
        (by rw [show b.spot.stance = .away from transitExpired_away he]; rfl)
      exact kept (settle_yard (Yard.of_view (raise_view _ _ _) k) _ _)
    · exact kept h
  · exact kept h
theorem parkCall_kept (h : s.Yard) (a b c : Nat) (d : BusClass) (e f : Option Nat) (g : Bool) :
    Kept (execParkCall a b c d e f g s) :=
  kept (hear_yard h _ _ fun v hv ha => by
    split
    · exact evaluateCall_tidy hv ha _ _
    · exact hv)
theorem offer_kept (h : s.Yard) (a b c d : Nat) : Kept (execOffer a b c d s) :=
  kept (hear_yard h _ _ fun v hv _ => by
    split
    · exact Yard.of_view (collectOffer_view _ _ _ _ _) hv
    · exact hv)

/-- Records at no position are deleted, those that are still there. -/
theorem deletions_off_yard (is : List Nat) : ∀ {s : State}, s.Yard →
    (∀ c ∈ s.view.spots, c.id ∈ is → c.stance.berth? = none) → (is.foldl (fun s i => s.deleteBus i) s).Yard := by
  induction is with
  | nil => exact fun h _ => h
  | cons i is ih =>
    intro s h hc
    have hd : (s.deleteBus i).Yard := deleteBus_tidy h i fun b hm e n q hq => by
      have := hc b.spot (spot_mem hm) (by simp [Bus.spot, e])
      rw [spot_berth?, hq] at this
      cases this
    refine ih hd fun c hm hi => hc c ?_ (List.mem_cons_of_mem _ hi)
    rw [(deleteBus_view h.distinct i).1, View.mem_remove] at hm
    exact hm.1
theorem compareTakes_yard (h : s.Yard) (a b c d : Nat) : (s.compareTakes a b c d).Yard := by
  unfold State.compareTakes
  refine Yard.of_view (foldl_view _ (fun u y => foundArrived_view u y) _) (deletions_off_yard _ h fun t ht hi => ?_)
  obtain ⟨y, hy, e⟩ := List.mem_map.mp hi
  obtain ⟨hm, hp⟩ := List.mem_filter.mp hy
  rw [← h.same (spot_mem hm) ht e, spot_berth?]
  unfold Bus.berth?
  cases hq : y.place <;> simp_all
theorem callerTake_yard (h : s.Yard) (a b c d e : Nat) : (s.callerTake a b c d e).Yard := by
  unfold State.callerTake
  have k : ∀ {u : State}, u.Yard → ∀ p q r t, (u.takeForCall p q r t).Yard := fun hu p q r t =>
    Yard.of_view (takeForCall_view _ _ _ _ _) hu
  split
  · split
    · split
      · dsimp only
        split
        · rename_i hb
          obtain ⟨hm, hp⟩ := apronBus_spec hb
          exact deleteBus_off_tidy (k h _ _ _ _) ((takeForCall_view s a c d e) ▸ spot_mem hm)
            (by rw [show Spot.stance _ = .away from hp]; rfl)
        · exact k h _ _ _ _
      · exact h
    · exact k h _ _ _ _
    · exact h
  · exact h
theorem take_kept (h : s.Yard) (a b c d e : Nat) : Kept (execTake a b c d e s) :=
  kept (hear_yard h _ _ fun v hv _ => by
    split
    · exact settle_yard (callerTake_yard (compareTakes_yard (Yard.of_view (collectOffer_view _ _ _ _ _) hv) _ _ _ _) _ _ _ _ _) _ _
    · exact hv)
theorem foundElsewhere_yard (h : s.Yard) (f : Nat) : (s.foundElsewhere f).Yard := by
  unfold State.foundElsewhere
  split
  · rename_i b hb
    have hm := spot_mem (busOf_mem hb)
    split
    · rename_i ht
      exact deleteBus_off_tidy h hm (by rw [show b.spot.stance = .away from transit_away ht]; rfl)
    · split
      · rename_i ht
        have off : b.spot.stance.berth? = none := by rw [show b.spot.stance = .away from apron_away ht]; rfl
        split
        · refine deleteBus_off_tidy (c := b.spot) (endCall_tidy h) ?_ off
          unfold State.endCall State.dropOffer
          split
          · rw [removeOffer_view, releaseHold_view, callerIdle_view]
            exact hm
          · rw [callerIdle_view]
            exact hm
        · exact deleteBus_off_tidy h hm off
      · exact h
  · exact h
theorem found_kept (h : s.Yard) (a b c : Nat) : Kept (execFound a b c s) :=
  kept (hear_yard h _ _ fun _ hv _ => settle_yard (foundElsewhere_yard hv _) _ _)

end Sys2Proof.Machine
end

section
/-! SUPPORT. The commands of the Charge Scheduler, the Feeder Budget Unit, the Run List and the Departure Controller keep the
yard. -/

namespace Sys2Proof.Machine

variable {s : State} {x : Slack} {v : View}

/-! ### Chargers and feeders -/

theorem connectionReport_kept (h : s.Yard) (b e : Nat) : Kept (execConnectionReport b e s) := by
  unfold execConnectionReport
  split
  · dsimp only
    split
    · exact kept_view h (reported_view _ _)
    · exact kept (settle_yard (Yard.of_view (by simp) h) _ _)
  · exact kept h
theorem disconnectReport_kept (h : s.Yard) (b : Nat) : Kept (execDisconnectReport b s) := by
  unfold execDisconnectReport
  split
  · dsimp only
    split
    · exact kept_view h (reported_view _ _)
    · exact kept_view h (by simp)
  · exact kept h
theorem faultReport_kept (h : s.Yard) (b : Nat) : Kept (execFaultReport b s) := by
  unfold execFaultReport
  split
  · dsimp only
    split
    · exact kept_view h (reported_view _ _)
    · exact kept_view h (by simp)
  · exact kept h
theorem meterPulse_kept (h : s.Yard) (b : Nat) : Kept (execMeterPulse b s) := by
  unfold execMeterPulse
  split
  · split
    · exact kept h
    · exact kept (settle_yard (Yard.of_view (by simp) h) _ _)
  · exact kept h
theorem chargerSettleExpiry_kept (h : s.Yard) (b : Nat) : Kept (execChargerSettleExpiry b s) := by
  unfold execChargerSettleExpiry
  split
  · split
    · split
      · exact kept h
      · exact kept_view h (updateCharger_view _ _ _)
    all_goals exact kept h
  · exact kept h
theorem rampTimerExpiry_kept (h : s.Yard) (b : Nat) : Kept (execRampTimerExpiry b s) := by
  unfold execRampTimerExpiry
  split
  · split
    · exact kept_view h (updateCharger_view _ _ _)
    · exact kept h
  · exact kept h
theorem turnBoundary_kept (h : s.Yard) : Kept (execTurnBoundary s) := by
  unfold execTurnBoundary
  split
  · exact kept_view h (takeBoundary_view _)
  · exact kept h
theorem planHoldExpiry_kept (h : s.Yard) : Kept (execPlanHoldExpiry s) := by
  unfold execPlanHoldExpiry
  split
  · exact kept_view h (endPlanHold_view _)
  · exact kept h
theorem drawTimerExpiry_kept (h : s.Yard) : Kept (execDrawTimerExpiry s) := by
  unfold execDrawTimerExpiry
  split
  · exact kept_view h (by simp)
  · exact kept h
theorem freshnessTimerExpiry_kept (h : s.Yard) (n : Nat) : Kept (execFreshnessTimerExpiry n s) := by
  unfold execFreshnessTimerExpiry
  split
  · split
    · exact kept_view h (by simp)
    · exact kept h
  · exact kept h
theorem feederInputChange_kept (h : s.Yard) (g : Group) (st : FeederState) (hot : Bool) :
    Kept (execFeederInputChange g st hot s) := by
  unfold execFeederInputChange
  split
  · exact kept h
  · dsimp only
    split
    · exact kept_view h (by simp)
    · split
      · exact kept_view h (by simp)
      · exact kept_view h (setInputs_view _ _)
theorem feederRefreshExpiry_kept (h : s.Yard) (g : Group) : Kept (execFeederRefreshExpiry g s) := by
  unfold execFeederRefreshExpiry
  split
  · exact kept_view h (announce_view _ _)
  · exact kept h
theorem feeder_kept (h : s.Yard) (n : Nat) (g : Group) (st : FeederState) (hot : Bool) : Kept (execFeeder n g st hot s) :=
  kept (hear_yard h _ _ fun _ hv _ => Yard.of_view (applyFeeder_view _ _ _ _) hv)

/-- The entry to MUTE drops the open offers with their holds, and moves no record (R85, R191). -/
theorem enterMute_yard (h : s.Yard) : s.enterMute.Yard := by
  unfold State.enterMute
  dsimp only
  have hn : (s.setNode { s.node with state := .mute, listenTimer := none }).Yard := by
    unfold State.Yard
    rw [setNode_view]
    exact { h with
      loading := fun e => by cases e }
  exact Yard.of_view ((setLink_view _ _).trans ((emptyQueue_view _).trans ((storeAlert_view _ _ _).trans
    ((setRuns_view _ _).trans ((setAlloc_view_same _ _ rfl).trans (endWatches_view _))))))
    (dropAllOffers_tidy (Yard.of_view ((setCharging_view _ _).trans ((zeroChargers_view _).trans (muteFeeders_view _))) hn))
theorem clash_yard (h : s.Yard) : s.clash.Yard := by
  unfold State.clash
  split
  · exact settle_yard (enterMute_yard h) _ _
  · exact h
theorem roll_kept (h : s.Yard) (a : Nat) (b c d : Bool) (e f g i j k : Nat) : Kept (execRoll a b c d e f g i j k s) :=
  kept (hear_yard h _ _ fun v hv _ => by
    split
    · exact clash_yard hv
    · split
      · exact Yard.of_view (answerAsk_view _ _) hv
      · exact Yard.of_view (by simp) hv)
theorem draw_kept (h : s.Yard) (a b c d e f g : Nat) : Kept (execDraw a b c d e f g s) :=
  kept (hear_yard h _ _ fun v hv _ => by
    split
    · exact clash_yard hv
    · split
      · exact hv
      · exact Yard.of_view (takeDraw_view _ _ _ _) hv)

/-! ### Runs and claims -/

theorem clock_kept (h : s.Yard) (a b : Nat) : Kept (execClock a b s) :=
  kept (hear_yard h _ _ fun _ hv _ => settle_yard (Yard.of_view (setClock_view _ _) hv) _ _)
theorem run_kept (h : s.Yard) (a b c d : Nat) (e : Demand) (f : Nat) : Kept (execRun a b c d e f s) :=
  kept (hear_yard h _ _ fun _ hv _ => settle_yard (Yard.of_view (takeRun_view _ _) hv) _ _)
theorem cancelRun_yard (h : s.Yard) (n : Nat) : (s.cancelRun n).Yard := by
  unfold State.cancelRun
  dsimp only
  split
  · exact Yard.of_view ((updateRun_view _ _ _).trans ((freeBound_view _ _).trans (endRelease_view h.distinct))) h
  · exact Yard.of_view ((updateRun_view _ _ _).trans (freeBound_view _ _)) h
theorem takeCancel_yard (h : s.Yard) (n : Nat) : (s.takeCancel n).Yard := by
  unfold State.takeCancel
  split
  · split
    · exact h
    · exact cancelRun_yard h n
  · exact h
theorem runCancel_kept (h : s.Yard) (a b : Nat) : Kept (execRunCancel a b s) :=
  kept (hear_yard h _ _ fun _ hv _ => settle_yard (takeCancel_yard hv _) _ _)
theorem clearRuns_yard (h : s.Yard) : s.clearRuns.Yard :=
  Yard.of_view ((setRuns_view _ _).trans ((mapBuses_view (fun b => { b with run := none, pullOut := none, route := none }) fun _ => rfl).trans (endRelease_view h.distinct))) h
theorem clearRuns_kept (h : s.Yard) (a : Nat) : Kept (execClearRuns a s) :=
  kept (hear_yard h _ _ fun _ hv _ => settle_yard (clearRuns_yard hv) _ _)
theorem claim_kept (h : s.Yard) (a b c d : Nat) : Kept (execClaim a b c d s) :=
  kept (hear_yard h _ _ fun _ hv _ => settle_yard (Yard.of_view (takeClaim_view _ _ _ _ _) hv) _ _)
theorem claimWindowExpiry_kept (h : s.Yard) (n : Nat) : Kept (execClaimWindowExpiry n s) := by
  unfold execClaimWindowExpiry
  split
  · split
    · split
      · exact kept (settle_yard (Yard.of_view (winRun_view _ _ _) h) _ _)
      · exact kept (settle_yard (Yard.of_view (updateRun_view _ _ _) h) _ _)
    · exact kept h
  · exact kept h
theorem claimRefreshExpiry_kept (h : s.Yard) (n : Nat) : Kept (execClaimRefreshExpiry n s) := by
  unfold execClaimRefreshExpiry
  split
  · split
    · exact kept (settle_yard (Yard.of_view (updateRun_view _ _ _) h) _ _)
    · exact kept h
  · exact kept h
theorem claimPeriodEntry_kept (h : s.Yard) (n : Nat) : Kept (execClaimPeriodEntry n s) :=
  kept (settle_yard (Yard.of_view (startRefresh_view _ _) h) _ _)

/-! ### Departures -/

theorem releaseTimerExpiry_kept (h : s.Yard) : Kept (execReleaseTimerExpiry s) := by
  unfold execReleaseTimerExpiry
  split
  · exact kept (settle_yard (Yard.of_view (failRelease_view h.distinct _ _) h) _ _)
  · exact kept h
theorem departHeard_yard (h : s.Yard) (r : Run) : (s.departHeard r).Yard := by
  have here : (s.departedElsewhere r.run).Yard := Yard.of_view (departedElsewhere_view _ _) h
  have double : ((s.endRelease.departedElsewhere r.run).raise .doubleDeparture r.run).Yard :=
    Yard.of_view ((raise_view _ _ _).trans ((departedElsewhere_view _ _).trans (endRelease_view h.distinct))) h
  unfold State.departHeard
  split
  · split
    · exact Yard.of_view (raise_view _ _ _) h
    · exact h
  · exact h
  · split
    · exact double
    · exact here
  · split
    · exact double
    · exact here
  all_goals exact here
theorem depart_kept (h : s.Yard) (a b c d : Nat) : Kept (execDepart a b c d s) :=
  kept (hear_yard h _ _ fun v hv _ => by
    have k : (v.offerExit d).Yard := Yard.of_view (offerExit_view _ _) hv
    dsimp only
    refine settle_yard ?_ _ _
    split
    · exact departHeard_yard k _
    · exact k)
theorem late_kept (h : s.Yard) (a b : Nat) : Kept (execLate a b s) :=
  kept (hear_yard h _ _ fun v hv _ => by
    refine settle_yard ?_ _ _
    split
    · exact Yard.of_view (lateHeard_view _ _) hv
    · exact hv)

/-! ### Shunt timers (R174) -/

theorem releaseShunt_tidy (h : s.view.Tidy x) (o : ShuntOrder) : (s.releaseShunt o).view.Tidy x := by
  unfold State.releaseShunt
  split
  · exact releaseReservation_tidy h _ _
  · exact h
theorem releaseShunt_same (s : State) (o : ShuntOrder) :
    (s.releaseShunt o).view.spots = s.view.spots ∧ (s.releaseShunt o).view.shunts = s.view.shunts := by
  unfold State.releaseShunt
  split
  · rw [releaseReservation_view]
    exact ⟨rfl, rfl⟩
  · exact ⟨rfl, rfl⟩

/-- The record of a shunt order stands as the order says. -/
theorem shunt_stance (h : s.Yard) {f : Nat} {o : ShuntOrder} {b : Bus} (ho : s.shuntOf f = some o) (hb : s.busOf f = some b) :
    b ∈ s.buses.records ∧ b.fleet = some o.fleet ∧ b.place.stance = o.mark.stance ∧ o.mark ∈ s.view.shunts := by
  have hf : o.fleet = f := by simpa using List.find?_some ho
  have hm : o.mark ∈ s.view.shunts := List.mem_map_of_mem (List.mem_of_find?_eq_some ho)
  have hbf : b.fleet = some f := by simpa using List.find?_some hb
  obtain ⟨c, hc, hcf, hcs⟩ := h.shunts _ hm id
  have hbc : b.spot = c := h.same (spot_mem (busOf_mem hb)) hc
    (h.fleets _ (spot_mem (busOf_mem hb)) _ hc f hbf (hcf.trans (congrArg some hf)))
  exact ⟨busOf_mem hb, hbf.trans (congrArg some hf.symm), (congrArg Spot.stance hbc).trans hcs, hm⟩

/-- A shunt order goes and its record takes another stance at its position, or at none from between the lanes (R174). -/
theorem View.Tidy.unshunt (h : v.Tidy Slack.none) {c : Spot} (hc : c ∈ v.spots) {f : Nat} (hf : c.fleet = some f)
    (hsh : c.stance.shunted = true) {st : Stance} (hk : st.berth? = c.stance.berth?) :
    View.Tidy Slack.none { v.setStance c.id st with shunts := v.shunts.filter (fun o => o.fleet != f) } :=
  h.standing hc st _ v.called (Or.inl hk) (h.orders.sublist (List.filter_sublist.map _))
    (fun o ho _ => by
      obtain ⟨ho, hn⟩ := List.mem_filter.mp ho
      exact Or.inr ⟨fun e => by simp [Option.some.inj (hf.symm.trans e)] at hn, h.shunts o ho id⟩)
    (fun g e => ⟨h.uncalled hc (by rintro e; rw [e] at hsh; cases hsh) g e, e⟩)

/-- A shunt order put last with a new target keeps the yard (R174, R176). -/
theorem reissue_tidy (h : s.Yard) {o o' : ShuntOrder} (ho : o.mark ∈ s.view.shunts) (hm : o'.mark = o.mark) :
    (s.reissue o').Yard := by
  have e : (s.reissue o').view = { s.view with
      shunts := s.view.shunts.filter (fun m => m.fleet != o.mark.fleet) ++ [o.mark] } := by
    have hf : o'.fleet = o.mark.fleet := congrArg ShuntMark.fleet hm
    unfold State.reissue
    rw [setDepartures_view, removeShunt_view, List.map_append]
    rw [← hm]
    simp only [State.view, List.filter_map]
    rfl
  unfold State.Yard
  rw [e]
  exact { h with
    orders := by
      rw [List.map_append, List.nodup_append]
      refine ⟨h.orders.sublist (List.filter_sublist.map _), by simp, ?_⟩
      rintro a ha b hb rfl
      obtain ⟨m, hmm, rfl⟩ := List.mem_map.mp ha
      simp at hb hmm
      exact hmm.2 hb
    shunts := fun m hmm hl => by
      rcases List.mem_append.mp hmm with hmm | hmm
      · exact h.shunts m (List.mem_filter.mp hmm).1 hl
      · rw [List.mem_singleton.mp hmm]
        exact h.shunts _ ho hl
    loading := fun e => by
      have := (h.loading e).2.2
      rw [this] at ho
      cases ho }

theorem giveUpAt_yard (h : s.Yard) {o : ShuntOrder} {b : Bus} (hb : b ∈ s.buses.records) (hf : b.fleet = some o.fleet)
    (hst : b.place.stance = o.mark.stance) (hp : o.phase = .atFrom) : (s.giveUpAt o b).Yard := by
  have k := releaseShunt_tidy h o
  have hs := (releaseShunt_same s o).1
  have hst' : b.spot.stance = .berthed o.fromLane o.fromPos true := by
    refine hst.trans ?_
    simp [ShuntOrder.mark, hp]
  unfold State.giveUpAt
  dsimp only
  refine Yard.of_view ((raise_view _ _ _).trans (markFailed_view _ _ _)) ?_
  unfold State.Yard
  rw [setPlace_view, removeShunt_view]
  exact k.unshunt (c := b.spot) (hs ▸ spot_mem hb) hf (by rw [hst']; rfl) (st := .berthed o.fromLane o.fromPos false)
    (by rw [hst']; rfl)
theorem giveUpBetween_yard (h : s.Yard) {o : ShuntOrder} {b : Bus} (hb : b ∈ s.buses.records) (hf : b.fleet = some o.fleet)
    (hst : b.place.stance = o.mark.stance) (hp : o.phase = .between) : (s.giveUpBetween o b).Yard := by
  have k := releaseShunt_tidy h o
  have hs := (releaseShunt_same s o).1
  have hst' : b.spot.stance = .between := by
    refine hst.trans ?_
    simp [ShuntOrder.mark, hp]
  unfold State.giveUpBetween
  dsimp only
  refine Yard.of_view (raise_view _ _ _) ?_
  unfold State.Yard
  rw [setPlace_view, removeShunt_view]
  exact k.unshunt (c := b.spot) (hs ▸ spot_mem hb) hf (by rw [hst']; rfl) (st := .away) (by rw [hst']; rfl)
theorem shuntExpired_yard (h : s.Yard) {f : Nat} {o : ShuntOrder} {b : Bus} (ho : s.shuntOf f = some o)
    (hb : s.busOf f = some b) : (s.shuntExpired o b).Yard := by
  obtain ⟨hm, hf, hst, hom⟩ := shunt_stance h ho hb
  unfold State.shuntExpired
  dsimp only
  split
  · rename_i hp
    split
    · unfold State.reissueAt
      dsimp only
      split
      · rename_i ht
        obtain ⟨m, hml, rfl, hfit⟩ := shuntTarget_fits ht
        have k := addReservation_tidy (releaseShunt_tidy h o) hml (laneFits_room hfit) ⟨.shunt, o.fleet⟩
        refine reissue_tidy (o := o) k ?_ rfl
        rw [addReservation_view]
        exact (releaseShunt_same s o).2 ▸ hom
      · exact giveUpAt_yard h hm hf hst hp
    · exact giveUpAt_yard h hm hf hst hp
  · rename_i hp
    split
    · exact reissue_tidy h hom rfl
    · exact giveUpBetween_yard h hm hf hst hp
theorem shuntTimerExpiry_kept (h : s.Yard) (f : Nat) : Kept (execShuntTimerExpiry f s) := by
  unfold execShuntTimerExpiry
  split
  · rename_i ho hb
    split
    · exact kept h
    · exact kept (settle_yard (shuntExpired_yard h ho hb) _ _)
  · exact kept h

end Sys2Proof.Machine
end

section
/-! SUPPORT. The orders and the starts keep the yard. -/

namespace Sys2Proof.Machine

variable {s : State} {x : Slack} {v : View}

/-! ### Orders (R206 to R208) -/

/-- A verdict leaves a sound yard. -/
def Verdict.Kept : Verdict → Prop
  | .no _ => True
  | .done t _ _ => t.Yard
  | .later t => t.Yard

theorem takeOrder_kept {α : Type} (h : s.Yard) (a b : Nat) (l : List Byte) (p : Option α) (judge : α → State → Verdict)
    (hj : ∀ y v, v.Yard → (judge y v).Kept) : Kept (.next (s.takeOrder a b l p judge)) := by
  refine kept (hear_yard h _ _ fun v hv _ => ?_)
  split
  · exact Yard.of_view (answerCode_view _ _ _ _) hv
  · exact Yard.of_view (answerCode_view _ _ _ _) hv
  · have := hj ‹_› v hv
    split
    · exact Yard.of_view (answerCode_view _ _ _ _) hv
    · rename_i e
      rw [e] at this
      exact Yard.of_view (answer_view _ _ _ _ _ _) this
    · rename_i e
      rw [e] at this
      exact this

theorem survey_kept (h : s.Yard) (a b : Nat) (l : List Byte) : Kept (execSurvey a b l s) :=
  takeOrder_kept h _ _ _ _ _ fun _ _ hv => by
    split
    · trivial
    · exact Yard.of_view (beginSurvey_view _ _ _ _) hv

/-- A record without a fleet takes one that no record has (R23). -/
theorem View.Tidy.name (h : v.Tidy x) {c : Spot} (hc : c ∈ v.spots) (hn : c.fleet = none) {f : Nat}
    (hf : ∀ b ∈ v.spots, b.fleet ≠ some f) :
    View.Tidy x { v with spots := v.spots.map (fun b => if b.id == c.id then { b with fleet := some f } else b) } := by
  have hmem : ∀ b, b ∈ v.spots.map (fun b => if b.id == c.id then { b with fleet := some f } else b) ↔
      b = { c with fleet := some f } ∨ b ∈ v.spots ∧ b.id ≠ c.id := by
    intro b
    simp only [List.mem_map]
    constructor
    · rintro ⟨a, ha, rfl⟩
      split
      · rename_i e
        exact Or.inl (by rw [h.same ha hc (by simpa using e)])
      · rename_i e
        exact Or.inr ⟨ha, by simpa using e⟩
    · rintro (rfl | ⟨hb, hn⟩)
      · exact ⟨c, hc, by simp⟩
      · exact ⟨b, hb, by simp [hn]⟩
  have hst : ∀ n p, stands (v.spots.map (fun b => if b.id == c.id then { b with fleet := some f } else b)) n p ↔
      stands v.spots n p := by
    intro n p
    simp only [stands, hmem]
    constructor
    · rintro ⟨b, rfl | ⟨hb, -⟩, hp⟩
      · exact ⟨c, hc, hp⟩
      · exact ⟨b, hb, hp⟩
    · rintro ⟨b, hb, hp⟩
      by_cases e : b.id = c.id
      · exact ⟨_, Or.inl rfl, h.same hb hc e ▸ hp⟩
      · exact ⟨b, Or.inr ⟨hb, e⟩, hp⟩
  have named : ∀ b ∈ v.spots, b.fleet ≠ none →
      b ∈ v.spots.map (fun b => if b.id == c.id then { b with fleet := some f } else b) := fun b hb hbf =>
    (hmem b).mpr (Or.inr ⟨hb, fun e => hbf (h.same hb hc e ▸ hn)⟩)
  have old : ∀ b ∈ v.spots.map (fun b => if b.id == c.id then { b with fleet := some f } else b),
      ∃ a ∈ v.spots, a.id = b.id ∧ a.stance = b.stance ∧ (b.fleet = a.fleet ∨ a = c ∧ b.fleet = some f) := by
    intro b hb
    rcases (hmem b).mp hb with rfl | ⟨hb, -⟩
    · exact ⟨c, hc, rfl, rfl, Or.inr ⟨rfl, rfl⟩⟩
    · exact ⟨b, hb, rfl, rfl, Or.inl rfl⟩
  exact { h with
    ids := by
      have e : (v.spots.map (fun b => if b.id == c.id then { b with fleet := some f } else b)).map (·.id)
          = v.spots.map (·.id) := by
        rw [List.map_map]
        refine List.map_congr_left fun b _ => ?_
        dsimp only [Function.comp]
        split <;> rfl
      exact e ▸ h.ids
    fresh := fun b hb => by
      obtain ⟨a, ha, e, -⟩ := old b hb
      exact e ▸ h.fresh a ha
    fleets := fun p hp q hq g hpg hqg => by
      obtain ⟨a, ha, ea, -, fa⟩ := old p hp
      obtain ⟨b, hb, eb, -, fb⟩ := old q hq
      rw [← ea, ← eb]
      rcases fa with fa | ⟨rfl, fa⟩ <;> rcases fb with fb | ⟨rfl, fb⟩
      · exact h.fleets a ha b hb g (fa ▸ hpg) (fb ▸ hqg)
      · exact absurd (fa.symm.trans (hpg.trans (hqg.symm.trans fb))) (hf a ha)
      · exact absurd (fb.symm.trans (hqg.trans (hpg.symm.trans fa))) (hf b hb)
      · rfl
    apart := fun p hp q hq k hpk hqk => by
      obtain ⟨a, ha, ea, sa, -⟩ := old p hp
      obtain ⟨b, hb, eb, sb, -⟩ := old q hq
      rw [← ea, ← eb]
      exact h.apart a ha b hb k (sa ▸ hpk) (sb ▸ hqk)
    homes := fun p hp n q hq => by
      obtain ⟨a, ha, -, sa, -⟩ := old p hp
      exact h.homes a ha n q (sa ▸ hq)
    rooms := fun l hl => roomFor_mono (Nat.le_refl _) (fun p => (hst _ p).mp) (h.rooms l hl)
    whole := fun l hl hb => unbroken_congr (fun p => (hst _ p).symm) (h.whole l hl hb)
    shunts := fun o ho hl => by
      obtain ⟨b, hb, hbf, hbs⟩ := h.shunts o ho hl
      exact ⟨b, named b hb (by simp [hbf]), hbf, hbs⟩
    called := fun g hg => by
      obtain ⟨b, hb, hbf, hbs⟩ := h.called g hg
      exact ⟨b, named b hb (by simp [hbf]), hbf, hbs⟩
    loading := fun e => by
      rw [h.awake hc] at e
      cases e }

theorem identified_view (i f : Nat) (o : Option Bus) : (s.updateBus i (Bus.identified f o)).view =
    { s.view with spots := s.view.spots.map (fun b => if b.id == i then { b with fleet := some f } else b) } := by
  have hb : ∀ b : Bus, (Bus.identified f o b).spot = { b.spot with fleet := some f } := fun b => by cases o <;> rfl
  have : (s.buses.records.map (fun b => if b.id == i then Bus.identified f o b else b)).map Bus.spot
      = (s.buses.records.map Bus.spot).map (fun b => if b.id == i then { b with fleet := some f } else b) := by
    rw [List.map_map, List.map_map]
    refine List.map_congr_left fun b _ => ?_
    dsimp only [Function.comp]
    have e : b.spot.id = b.id := rfl
    rw [e]
    split
    · exact hb b
    · rfl
  simp only [State.view, State.updateBus, State.setBuses, this]

theorem endCall_spots (s : State) : s.endCall.view.spots = s.view.spots := by
  unfold State.endCall State.dropOffer
  split
  · rw [removeOffer_view, releaseHold_view, callerIdle_view]
  · rw [callerIdle_view]
/-- The other record of an identified bus goes, and no other (R23, R40). -/
theorem mergeAway_tidy (h : s.Yard) (n f : Nat) {o : Bus} (ho : o ∈ s.buses.records) (ha : o.place.stance = .away) :
    (s.mergeAway n f o).Yard ∧ ∀ c, c ∈ (s.mergeAway n f o).view.spots ↔ c ∈ s.view.spots ∧ c.id ≠ o.id := by
  have hfree : (s.freeBus o.id).Yard := Yard.of_view (freeBus_view _ _) h
  have hsp : o.spot ∈ (s.freeBus o.id).view.spots := by
    rw [freeBus_view]
    exact spot_mem ho
  have hd : ((s.freeBus o.id).deleteBus o.id).Yard :=
    deleteBus_off_tidy hfree hsp (by rw [show o.spot.stance = .away from ha]; rfl)
  have hk : (((s.freeBus o.id).deleteBus o.id).keepTake o f).Yard := Yard.of_view (keepTake_view _ _ _) hd
  have hks : ∀ c, c ∈ (((s.freeBus o.id).deleteBus o.id).keepTake o f).view.spots ↔ c ∈ s.view.spots ∧ c.id ≠ o.id := by
    intro c
    rw [keepTake_view, (deleteBus_view hfree.distinct o.id).1, View.mem_remove, freeBus_view]
  unfold State.mergeAway
  dsimp only
  split
  · refine ⟨Yard.of_view (send_view _ _) (endCall_tidy hk), fun c => ?_⟩
    rw [send_view, endCall_spots, hks]
  · exact ⟨hk, hks⟩
theorem identify_yard (h : s.Yard) (n : Nat) {f : Nat} {b : Bus} (hb : b ∈ s.buses.records) (hn : b.fleet = none)
    {other : Option Bus} (ho : s.busOf f = other) (ha : ∀ o, other = some o → o.place.stance = .away) :
    (s.identify n f b other).Yard := by
  unfold State.identify
  dsimp only
  refine Yard.of_view (clearSuspect_view _ _) ?_
  unfold State.Yard
  rw [identified_view]
  cases other with
  | none => exact h.name (spot_mem hb) hn (busOf_none ho)
  | some o =>
    have hom := busOf_mem ho
    have hof : o.fleet = some f := by simpa using List.find?_some ho
    obtain ⟨k, ks⟩ := mergeAway_tidy h n f hom (ha o rfl)
    refine View.Tidy.name (c := b.spot) k ((ks _).mpr ⟨spot_mem hb, fun e => ?_⟩) hn fun c hc hcf => ?_
    · rw [id_unique h.distinct hb hom e, hof] at hn
      cases hn
    · obtain ⟨hcs, hci⟩ := (ks c).mp hc
      exact hci (h.fleets c hcs o.spot (spot_mem hom) f hcf hof)
theorem identify_kept (h : s.Yard) (a b : Nat) (l : List Byte) : Kept (execIdentify a b l s) :=
  takeOrder_kept h _ _ _ _ _ fun _ v hv => by
    dsimp only
    split
    · rename_i b _ hb
      have hm := (occupant_spec hb).1
      split
      · rename_i ho
        split
        · rename_i hp
          exact settle_yard (identify_yard hv _ hm (by simpa [Bus.isPlaceholder] using hp) ho (by simp)) _ _
        · trivial
      · rename_i o ho
        split
        · rename_i hp
          simp only [Bool.and_eq_true, Bool.or_eq_true] at hp
          exact settle_yard (identify_yard hv _ hm (by simpa [Bus.isPlaceholder] using hp.1) ho fun o' e => by
            cases e
            exact hp.2.elim apron_away transit_away) _ _
        · trivial
    · trivial
theorem laneOpen_kept (h : s.Yard) (a b : Nat) (l : List Byte) : Kept (execLaneOpen a b l s) :=
  takeOrder_kept h _ _ _ _ _ fun _ v hv => by
    split
    · exact Yard.of_view (updateLane_view _ _ fun _ => rfl) hv
    · trivial
theorem laneClose_kept (h : s.Yard) (a b : Nat) (l : List Byte) : Kept (execLaneClose a b l s) :=
  takeOrder_kept h _ _ _ _ _ fun _ v hv => by
    split
    · exact Yard.of_view (updateLane_view _ _ fun _ => rfl) hv
    · trivial

def Site.turn (k : LaneKind) (l : Site) : Site := { l with kind := k }

/-- A lane without records and promises takes either kind. -/
theorem View.Tidy.turn (h : v.Tidy x) {l : Site} (hl : l ∈ v.sites) (hp : l.promised = 0)
    (hst : ∀ p, 1 ≤ p → p ≤ l.size → ¬ stands v.spots l.number p) (k : LaneKind) :
    View.Tidy x { v with sites := v.sites.map (atSite l.number (Site.turn k)) } := by
  have keep : ∀ m, (atSite l.number (Site.turn k) m).number = m.number ∧ (atSite l.number (Site.turn k) m).size = m.size ∧
      (atSite l.number (Site.turn k) m).holds = m.holds := fun m => by
    unfold atSite
    split <;> exact ⟨rfl, rfl, rfl⟩
  have cases_on : ∀ n ∈ v.sites.map (atSite l.number (Site.turn k)), n = l.turn k ∨ n ∈ v.sites := by
    intro n hn
    obtain ⟨m, hm, rfl⟩ := List.mem_map.mp hn
    unfold atSite
    split
    · rename_i e
      exact Or.inl (by rw [h.site_same hm hl (by simpa using e)])
    · exact Or.inr hm
  exact { h with
    homes := fun b hb n p hbp => by
      obtain ⟨m, hm, hn, h1, h2⟩ := h.homes b hb n p hbp
      exact ⟨_, List.mem_map_of_mem hm, (keep m).1.trans hn, h1, Nat.le_trans h2 (Nat.le_of_eq (keep m).2.1.symm)⟩
    numbers := by
      refine Eq.mp (congrArg List.Nodup ?_) h.numbers
      rw [List.map_map]
      exact List.map_congr_left fun m _ => (keep m).1.symm
    sizes := fun m hm => by
      rcases cases_on m hm with rfl | hm
      · exact h.sizes l hl
      · exact h.sizes m hm
    rooms := fun m hm => by
      rcases cases_on m hm with rfl | hm
      · refine ⟨Nat.le_trans (Nat.sub_le _ _) (Nat.le_trans (Nat.le_of_eq hp) (Nat.zero_le _)), fun p h1 h2 hs => ?_⟩
        exact absurd hs (hst p h1 h2)
      · exact h.rooms m hm
    whole := fun m hm hb => by
      rcases cases_on m hm with rfl | hm
      · exact fun p q h1 hpq hq hs _ => absurd hs (hst p h1 (Nat.le_trans (Nat.le_of_lt hpq) hq))
      · exact h.whole m hm hb
    offers := fun o ho hw => by
      obtain ⟨m, hm, hn, hh⟩ := h.offers o ho hw
      exact ⟨_, List.mem_map_of_mem hm, (keep m).1.trans hn, (keep m).2.2 ▸ hh⟩ }
/-- LANE_KIND is taken of an empty lane (R25). -/
theorem laneKind_yard (h : s.Yard) {l : Lane} (hl : l ∈ s.lanes) (hf : s.kindFree l = true) (k : LaneKind) :
    (s.updateLane l.number (fun l => { l with kind := k })).Yard := by
  simp only [State.kindFree, Bool.and_eq_true, List.isEmpty_iff, occupiedPositions_nil_iff] at hf
  obtain ⟨⟨⟨-, hp⟩, hr⟩, hh⟩ := hf
  unfold State.Yard
  rw [updateLane_site s l.number _ (Site.turn k) fun _ => rfl]
  exact h.turn (site_mem hl) (by simp [Site.promised, Lane.site, hr, hh]) hp k
theorem laneKind_kept (h : s.Yard) (a b : Nat) (l : List Byte) : Kept (execLaneKind a b l s) :=
  takeOrder_kept h _ _ _ _ _ fun _ v hv => by
    dsimp only
    split
    · rename_i l hl
      split
      · rename_i hf
        have := laneKind_yard hv (laneOf_mem hl) hf
        rw [laneOf_number hl] at this
        exact this _
      · trivial
    · trivial
theorem washSkip_kept (h : s.Yard) (a b : Nat) (l : List Byte) : Kept (execWashSkip a b l s) :=
  takeOrder_kept h _ _ _ _ _ fun f v hv => by
    split
    · rename_i b hb
      split
      · rename_i hc
        simp only [Bool.and_eq_true, beq_iff_eq, bne_iff_ne] at hc
        have hf : b.fleet = some f := by simpa using List.find?_some hb
        exact settle_yard (joinUnwashed_yard hv (busOf_mem hb) hc.1.1 (fun e => hc.1.2 (e.symm.trans hf)) _) _ _
      · trivial
    · trivial
theorem resumeWash_yard (h : s.Yard) : s.resumeWash.Yard := by
  unfold State.resumeWash
  dsimp only
  exact settleWash_yard (Yard.of_view ((enterFrostHold_view _).trans ((setWash_view_same _ _ rfl).trans
    (foldl_view _ (fun u i => resumeStage_view u (i + 1)) _))) h)
theorem washResume_kept (h : s.Yard) (a b : Nat) (l : List Byte) : Kept (execWashResume a b l s) :=
  takeOrder_kept h _ _ _ _ _ fun _ v hv => by
    split
    · trivial
    · split
      · exact hv
      · split
        · trivial
        · exact resumeWash_yard hv
theorem holdBus_yard (h : s.Yard) (f : Nat) (b : Bus) : (s.holdBus f b).Yard := by
  have k : (s.updateBus b.id (fun x => { x with hold := true })).Yard := Yard.of_view (updateBus_view _ _ fun _ => rfl) h
  unfold State.holdBus
  dsimp only
  split
  · exact Yard.of_view (failRelease_view k.distinct _ _) k
  · exact k
theorem hold_kept (h : s.Yard) (a b : Nat) (l : List Byte) : Kept (execHold a b l s) :=
  takeOrder_kept h _ _ _ _ _ fun _ v hv => by
    split
    · exact settle_yard (holdBus_yard hv _ _) _ _
    · trivial
theorem unhold_kept (h : s.Yard) (a b : Nat) (l : List Byte) : Kept (execUnhold a b l s) :=
  takeOrder_kept h _ _ _ _ _ fun _ v hv => by
    split
    · rename_i b _
      have k : (v.updateBus b.id (fun x => { x with hold := false })).Yard := Yard.of_view (updateBus_view _ _ fun _ => rfl) hv
      exact settle_yard k _ _
    · trivial
theorem feed_kept (h : s.Yard) (a b : Nat) (l : List Byte) : Kept (execFeed a b l s) :=
  takeOrder_kept h _ _ _ _ _ fun _ v hv => by
    dsimp only
    split
    · split
      · exact Yard.of_view (feed_view _ _ _) hv
      · trivial
    · trivial
theorem forget_kept (h : s.Yard) (a b : Nat) (l : List Byte) : Kept (execForget a b l s) :=
  takeOrder_kept h _ _ _ _ _ fun _ v hv => by
    split
    · split
      · trivial
      · exact Yard.of_view ((followGrants_view _).trans (setFeeders_view _ _)) hv
    · trivial
theorem ack_kept (h : s.Yard) (a b : Nat) (l : List Byte) : Kept (execAck a b l s) :=
  takeOrder_kept h _ _ _ _ _ fun _ v hv => by
    dsimp only
    split
    · trivial
    · exact Yard.of_view (setAlerts_view _ _) hv
theorem report_kept (h : s.Yard) (a b : Nat) (l : List Byte) : Kept (execReport a b l s) :=
  takeOrder_kept h _ _ _ _ _ fun _ _ hv => hv
theorem restart_kept (h : s.Yard) (a b : Nat) (l : List Byte) : Kept (execRestart a b l s) :=
  takeOrder_kept h _ _ _ _ _ fun _ _ hv => Yard.of_view ((offerFrame_view _ _).trans (setOrder_view _ _)) hv
theorem orderUnknownKind_kept (h : s.Yard) (a b c : Nat) (l : List Byte) : Kept (execOrderUnknownKind a b c l s) := by
  unfold execOrderUnknownKind
  split
  · exact kept (hear_yard h _ _ fun _ hv _ => hv)
  · exact takeOrder_kept h _ _ _ _ _ fun _ _ _ => trivial

/-! ### Starts (R200 to R205) -/

/-- A yard without records, offers, shunt orders and promises is sound. -/
theorem View.Tidy.empty (hs : v.spots = []) (ho : v.offers = []) (hsh : v.shunts = []) (hc : v.called = none)
    (hb : v.berthed = true) (hn : (v.sites.map (·.number)).Nodup) (hl : ∀ l ∈ v.sites, 1 ≤ l.size ∧ l.promised = 0) :
    v.Tidy x where
  ids := by simp [hs]
  fresh := by simp [hs]
  fleets := by simp [hs]
  apart := by simp [hs]
  homes := by simp [hs]
  numbers := hn
  berthed := hb
  sizes := fun l hm => (hl l hm).1
  rooms := fun l hm => ⟨by have := (hl l hm).2; omega, fun p _ _ hp => by simp [hs, stands] at hp⟩
  whole := fun l _ _ p q _ _ _ hp => by simp [hs, stands] at hp
  callers := by simp [ho]
  offers := by simp [ho]
  orders := by simp [hsh]
  shunts := by simp [hsh]
  called := by simp [hc]
  loading := fun _ => ⟨hs, ho, hsh⟩

theorem setCfg_view (c : NodeConfig) : (s.setCfg c).view =
    { s.view with berthed := c.lanes.all (fun c => !c.berths.isEmpty) } := rfl
theorem freshWash_view (b : Bool) : (s.freshWash b).view = { s.view with called := none } := by
  unfold State.freshWash
  dsimp only
  rw [enterFrostHold_view, setWash_view]
theorem coldStart_yard (s : State) : s.coldStart.Yard :=
  View.Tidy.empty rfl rfl rfl rfl rfl List.nodup_nil (fun _ h => by cases h)
/-- The lanes of a configuration are numbered apart, and hold no promise. -/
theorem freshLanes_sites (hb : s.view.berthed = true) : ((s.freshLanes.map Lane.site).map (·.number)).Nodup ∧
    ∀ l ∈ s.freshLanes.map Lane.site, 1 ≤ l.size ∧ l.promised = 0 := by
  constructor
  · have : (s.freshLanes.map Lane.site).map (·.number) = (List.range s.cfg.lanes.length).map (· + 1) := by
      simp only [State.freshLanes, List.map_map]
      rw [List.range_eq_range', ← List.zipIdx_map_snd 0, List.map_map]
      rfl
    rw [this]
    exact List.nodup_range.map (fun _ _ h => Nat.succ.inj h)
  · intro l hl
    obtain ⟨m, hm, rfl⟩ := List.mem_map.mp hl
    obtain ⟨p, hp, rfl⟩ := List.mem_map.mp hm
    have hc := List.all_eq_true.mp hb p.1 (List.fst_mem_of_mem_zipIdx hp)
    refine ⟨?_, rfl⟩
    simp only [Bool.not_eq_true', List.isEmpty_eq_false_iff] at hc
    exact List.length_pos_of_ne_nil hc
/-- Every lane of an image has one to six berths (R196, R197). -/
theorem configOf_berthed (im : List Byte) : (configOf im).lanes.all (fun c => !c.berths.isEmpty) = true := by
  refine List.all_eq_true.mpr fun c hc => ?_
  obtain ⟨i, -, rfl⟩ := List.mem_map.mp hc
  have h1 : 1 ≤ (berthCountField i).value im := by
    unfold Field.value clamp berthCountField
    dsimp only
    split
    · exact Nat.le_refl _
    · split <;> omega
  have h2 : (laneConfigOf im i).berths.length = (berthCountField i).value im := by simp [laneConfigOf, berthFields]
  rw [Bool.not_eq_true', List.isEmpty_eq_false_iff]
  exact List.ne_nil_of_length_pos (by omega)
theorem beginListen_yard (h : s.Yard) : s.beginListen.Yard := Yard.of_view (beginListen_view _) h
theorem startFrom_yard (h : s.Yard) (hl : s.view.loading = true) (im : List Byte) : (s.startFrom im).Yard := by
  obtain ⟨hs, ho, hsh⟩ := h.loading hl
  unfold State.startFrom
  dsimp only
  have hb : ((s.setCfg (configOf im)).toListen).view.berthed = true := configOf_berthed im
  have k : ((((s.setCfg (configOf im)).toListen.setLanes ((s.setCfg (configOf im)).toListen.freshLanes)).setCharging
      ⟨((s.setCfg (configOf im)).toListen.setLanes ((s.setCfg (configOf im)).toListen.freshLanes)).freshChargers, [], none⟩).freshWash
      false).Yard := by
    obtain ⟨h1, h2⟩ := freshLanes_sites hb
    unfold State.Yard
    rw [freshWash_view, setCharging_view, setLanes_view]
    exact View.Tidy.empty hs ho hsh rfl hb h1 h2
  split
  · exact Yard.of_view (raise_view _ _ _) (beginListen_yard k)
  · exact beginListen_yard k
theorem configBad_yard (h : s.Yard) (im : List Byte) (n : Nat) : (s.configBad im n).Yard := by
  have k : ∀ (a : Alerts) (c : NodeConfig), c.lanes = [] →
      (((s.setNode { s.node with state := .configFault, listenTimer := none }).setAlerts a).setCfg c).Yard := by
    intro a c hc
    unfold State.Yard
    rw [setCfg_view, setAlerts_view, setNode_view, hc]
    exact { h with
      berthed := rfl
      loading := fun e => by cases e }
  unfold State.configBad
  dsimp only
  split
  · exact Yard.of_view (setLink_view _ _) (k _ _ rfl)
  · exact k _ _ rfl

/-- What a warm restart keeps of a record's stance (R42). -/
def Stance.kept : Stance → Stance
  | .queued => .queued
  | .away => .away
  | .between => .away
  | .berthed n p _ => .berthed n p false
/-- What a warm restart keeps of a lane (R27). -/
def Site.kept (l : Site) : Site := { l with reservations := l.reservations.filter (fun r => r.kind == .transit), holds := [] }

theorem Stance.kept_berth? (st : Stance) : st.kept.berth? = st.berth? := by cases st <;> rfl
theorem keptPlace_stance (s : State) (b : Bus) : (s.keptPlace b).stance = b.place.stance.kept := by
  unfold State.keptPlace
  cases b.place <;> rfl

/-- A yard kept through a warm restart is sound (R27, R42, R66, R86). -/
theorem View.Tidy.restart (h : v.Tidy Slack.none) (hl : Bool) (hl' : hl = false) : View.Tidy Slack.none { v with
    loading := hl, called := none, offers := [], shunts := []
    spots := v.spots.map (fun b => { b with stance := b.stance.kept })
    sites := v.sites.map Site.kept } := by
  have hst : ∀ n p, stands (v.spots.map (fun b => { b with stance := b.stance.kept })) n p ↔ stands v.spots n p := by
    intro n p
    simp [stands, Stance.kept_berth?]
  have old : ∀ b ∈ v.spots.map (fun b => { b with stance := b.stance.kept }), ∃ a ∈ v.spots,
      a.id = b.id ∧ a.fleet = b.fleet ∧ a.stance.berth? = b.stance.berth? := by
    intro b hb
    obtain ⟨a, ha, rfl⟩ := List.mem_map.mp hb
    exact ⟨a, ha, rfl, rfl, (Stance.kept_berth? _).symm⟩
  have prom : ∀ l : Site, l.kept.promised ≤ l.promised := fun l =>
    Nat.add_le_add (List.length_filter_le _ _) (Nat.zero_le _)
  exact {
    ids := by simpa [List.map_map, Function.comp_def] using h.ids
    fresh := fun b hb => by
      obtain ⟨a, ha, e, -⟩ := old b hb
      exact e ▸ h.fresh a ha
    fleets := fun p hp q hq f hpf hqf => by
      obtain ⟨a, ha, ea, fa, -⟩ := old p hp
      obtain ⟨b, hb, eb, fb, -⟩ := old q hq
      rw [← ea, ← eb]
      exact h.fleets a ha b hb f (fa.trans hpf) (fb.trans hqf)
    apart := fun p hp q hq k hpk hqk => by
      obtain ⟨a, ha, ea, -, sa⟩ := old p hp
      obtain ⟨b, hb, eb, -, sb⟩ := old q hq
      rw [← ea, ← eb]
      exact h.apart a ha b hb k (sa.trans hpk) (sb.trans hqk)
    homes := fun p hp n q hq => by
      obtain ⟨a, ha, -, -, sa⟩ := old p hp
      obtain ⟨l, hm, hh⟩ := h.homes a ha n q (sa.trans hq)
      exact ⟨l.kept, List.mem_map_of_mem hm, hh⟩
    numbers := by simpa [List.map_map, Function.comp_def, Site.kept] using h.numbers
    berthed := h.berthed
    sizes := fun l hm => by
      obtain ⟨m, hmv, rfl⟩ := List.mem_map.mp hm
      exact h.sizes m hmv
    rooms := fun l hm => by
      obtain ⟨m, hmv, rfl⟩ := List.mem_map.mp hm
      exact roomFor_mono (Nat.sub_le_sub_right (prom m) _) (fun p => (hst _ p).mp) (h.rooms m hmv)
    whole := fun l hm hb => by
      obtain ⟨m, hmv, rfl⟩ := List.mem_map.mp hm
      exact unbroken_congr (fun p => (hst _ p).symm) (h.whole m hmv hb)
    callers := List.nodup_nil
    offers := fun o ho => by cases ho
    orders := List.nodup_nil
    shunts := fun o ho => by cases ho
    called := fun f e => by cases e
    loading := fun e => by simp [hl'] at e }

theorem repeatAllNeeds_view (s : State) : s.repeatAllNeeds.view = s.view := foldl_view _ (fun _ _ => repeatNeed_view _ _ _) _
theorem dropRelease_view (s : State) : s.dropRelease.view = s.view := by
  unfold State.dropRelease
  split <;> simp
theorem keepYard_view (s : State) : s.keepYard.view = { s.view with
    called := none
    spots := s.view.spots.map (fun b => { b with stance := b.stance.kept })
    sites := s.view.sites.map Site.kept } := by
  have h1 : (s.buses.records.map (fun b => { b with place := s.keptPlace b })).map Bus.spot
      = (s.buses.records.map Bus.spot).map (fun b => { b with stance := b.stance.kept }) := by
    rw [List.map_map, List.map_map]
    refine List.map_congr_left fun b _ => ?_
    simp only [Function.comp, Bus.spot, keptPlace_stance]
  have h2 : (s.lanes.map (Lane.kept (s.now + s.cfg.laneSettle))).map Lane.site = (s.lanes.map Lane.site).map Site.kept := by
    rw [List.map_map, List.map_map]
    rfl
  simp only [State.view, ← h1, ← h2]
  rfl

/-- A warm restart keeps the yard, or empties it (R204). -/
theorem warmRestart_yard (h : s.Yard) : s.warmRestart.Yard := by
  have yard : ∀ u : State, u.Yard → ∀ t : State, t.view = { (if u.cfg.keepYard then u.keepYard else u.renewYard).view with
      loading := false, offers := [], shunts := [] } → t.Yard := by
    intro u hu t ht
    unfold State.Yard
    rw [ht]
    split
    · rw [keepYard_view]
      exact hu.restart false rfl
    · obtain ⟨h1, h2⟩ := freshLanes_sites hu.berthed
      have e : u.renewYard.view = { u.view with called := none, spots := [], sites := u.freshLanes.map Lane.site } := by
        unfold State.renewYard
        dsimp only
        rw [setRuns_view, freshWash_view]
        rfl
      rw [e]
      exact View.Tidy.empty rfl rfl rfl rfl hu.berthed h1 h2
  unfold State.warmRestart
  dsimp only
  refine yard ((s.setOrder none).setLink Link.reset) h _ ?_
  rw [beginListen_view, repeatAllNeeds_view, setDepartures_view, setCharging_view, setFeeders_view, setAlloc_view,
    dropRelease_view]
  rfl

theorem resetLineAsserted_kept (h : s.Yard) : Kept (execResetLineAsserted s) := by
  unfold execResetLineAsserted
  split
  · exact kept_view h rfl
  · exact kept h
  · exact kept h
theorem resetHoldExpiry_kept (h : s.Yard) : Kept (execResetHoldExpiry s) := by
  unfold execResetHoldExpiry
  split
  · exact kept h
  · split
    · exact kept (coldStart_yard _)
    · exact kept h
  · exact kept h
theorem resetLineReleased_kept (h : s.Yard) : Kept (execResetLineReleased s) := by
  unfold execResetLineReleased
  dsimp only
  split
  · exact kept h
  · refine kept ?_
    split
    · exact warmRestart_yard (Yard.of_view (s := s) rfl h)
    · exact coldStart_yard _
  · exact kept (coldStart_yard _)
theorem configReadComplete_kept (h : s.Yard) (im : List Byte) : Kept (execConfigReadComplete im s) := by
  unfold execConfigReadComplete
  split
  · rename_i hc
    split
    · exact kept (configBad_yard h _ _)
    · exact kept (startFrom_yard h (Bool.and_eq_true _ _ ▸ hc).1 _)
  · exact kept h
theorem listenTimerExpiry_kept (h : s.Yard) : Kept (execListenTimerExpiry s) := by
  unfold execListenTimerExpiry
  split
  · refine kept (settle_yard (Yard.of_view (takeBoundary_view _) ?_) _ _)
    exact { h with
      loading := fun e => by cases e }
  · exact kept h
theorem restartAnswerLeft_kept (h : s.Yard) : Kept (execRestartAnswerLeft s) := by
  unfold execRestartAnswerLeft
  split
  · split
    · exact kept (warmRestart_yard h)
    · exact kept h
    · exact kept h
  · exact kept h

end Sys2Proof.Machine
end

section
/-! The yard stays sound. -/

namespace Sys2Proof.Machine

variable {s : State} {x : Slack} {v : View}

theorem berthDetectorChange_kept (h : s.Yard) (n p : Nat) (o : Bool) : Kept (execBerthDetectorChange n p o s) := by
  unfold execBerthDetectorChange
  split
  · exact kept h
  · dsimp only
    split
    · exact kept_view h ((settleBerth_view _ _ _ _).trans (setInputs_view _ _))
    · exact kept_view h (setInputs_view _ _)
theorem berthSettleExpiry_kept (h : s.Yard) (n p : Nat) : Kept (execBerthSettleExpiry n p s) := by
  unfold execBerthSettleExpiry
  split
  · exact kept_view h ((suspectLane_view _ _).trans (updateLane_view _ _ fun _ => rfl))
  · exact kept h
theorem frameAbandoned_kept (h : s.Yard) (c : AbandonCause) : Kept (execFrameAbandoned c s) := by
  unfold execFrameAbandoned
  split
  · split <;> exact kept_view h (setLink_view _ _)
  · exact kept h
theorem frameSendStart_kept (h : s.Yard) : Kept (execFrameSendStart s) := by
  unfold execFrameSendStart
  split
  · exact kept_view h (setLink_view _ _)
  · exact kept h
theorem frameWithdrawn_kept (h : s.Yard) : Kept (execFrameWithdrawn s) := by
  unfold execFrameWithdrawn
  split
  · exact kept_view h (withdrawFrame_view _ _ _)
  · exact kept h
theorem frameSent_kept (h : s.Yard) : Kept (execFrameSent s) := by
  unfold execFrameSent
  split
  · exact kept_view h (by simp)
  · exact kept h
theorem ackButtonPress_kept (h : s.Yard) : Kept (execAckButtonPress s) := by
  unfold execAckButtonPress
  split
  · exact kept_view h (setAlerts_view _ _)
  · exact kept h

/-- Every command but a frame given as its bytes keeps the yard. -/
theorem exec_kept (h : s.Yard) (c : Instr) (hc : ∀ bytes, c ≠ .frameRejected bytes) : Kept (exec c s) := by
  have settled : ∀ extra, Kept (.next (s.settle s extra)) := fun _ => kept (settle_yard h _ _)
  cases c with
  | powerOn => exact kept (coldStart_yard _)
  | resetLineAsserted => exact resetLineAsserted_kept h
  | resetHoldExpiry => exact resetHoldExpiry_kept h
  | resetLineReleased => exact resetLineReleased_kept h
  | configReadComplete => exact configReadComplete_kept h _
  | listenTimerExpiry => exact listenTimerExpiry_kept h
  | laneReaderReading => exact laneReaderReading_kept h _ _ _ _
  | berthDetectorChange => exact berthDetectorChange_kept h _ _ _
  | berthSettleExpiry => exact berthSettleExpiry_kept h _ _
  | surveyPeriodEnd => exact surveyPeriodEnd_kept h _
  | entryReaderReading => exact entryReaderReading_kept h _
  | bypassReaderReading => exact bypassReaderReading_kept h _
  | stageDetectorChange => exact stageDetectorChange_kept h _ _
  | entryCallTimeout => exact entryCallTimeout_kept h
  | spinupExpiry => exact spinupExpiry_kept h _
  | dwellExpiry => exact dwellExpiry_kept h _
  | runonExpiry => exact runonExpiry_kept h _
  | advanceTimeout => exact advanceTimeout_kept h _
  | stopInputAsserted => exact stopInputAsserted_kept h
  | stopInputCleared => exact kept_view h (setInputs_view _ _)
  | temperatureReading => exact temperatureReading_kept h _
  | frostClearExpiry => exact frostClearExpiry_kept h
  | callTimerExpiry => exact callTimerExpiry_kept h
  | unplacedRetryExpiry => exact unplacedRetryExpiry_kept h _
  | offerWindowExpiry => exact offerWindowExpiry_kept h _
  | takeWaitExpiry => exact takeWaitExpiry_kept h
  | takeWatchExpiry => exact takeWatchExpiry_kept h _
  | transitTimeout => exact transitTimeout_kept h _
  | connectionReport => exact connectionReport_kept h _ _
  | disconnectReport => exact disconnectReport_kept h _
  | faultReport => exact faultReport_kept h _
  | meterPulse => exact meterPulse_kept h _
  | chargerSettleExpiry => exact chargerSettleExpiry_kept h _
  | rampTimerExpiry => exact rampTimerExpiry_kept h _
  | turnBoundary => exact turnBoundary_kept h
  | planHoldExpiry => exact planHoldExpiry_kept h
  | drawTimerExpiry => exact drawTimerExpiry_kept h
  | freshnessTimerExpiry => exact freshnessTimerExpiry_kept h _
  | feederInputChange => exact feederInputChange_kept h _ _ _
  | feederRefreshExpiry => exact feederRefreshExpiry_kept h _
  | claimWindowExpiry => exact claimWindowExpiry_kept h _
  | claimRefreshExpiry => exact claimRefreshExpiry_kept h _
  | claimPeriodEntry => exact claimPeriodEntry_kept h _
  | shuntLeadReached => exact settled []
  | shuntTimerExpiry => exact shuntTimerExpiry_kept h _
  | releaseLeadReached => exact settled []
  | releaseTimerExpiry => exact releaseTimerExpiry_kept h
  | gracePassed => exact settled []
  | exitGapHolds => exact settled []
  | roll => exact roll_kept h _ _ _ _ _ _ _ _ _ _
  | draw => exact draw_kept h _ _ _ _ _ _ _
  | feeder => exact feeder_kept h _ _ _ _
  | clock => exact clock_kept h _ _
  | run => exact run_kept h _ _ _ _ _ _
  | runCancel => exact runCancel_kept h _ _
  | clearRuns => exact clearRuns_kept h _
  | parkCall => exact parkCall_kept h _ _ _ _ _ _ _
  | offer => exact offer_kept h _ _ _ _
  | take => exact take_kept h _ _ _ _ _
  | found => exact found_kept h _ _ _
  | claim => exact claim_kept h _ _ _ _
  | depart => exact depart_kept h _ _ _ _
  | late => exact late_kept h _ _
  | answerOrAlertHeard => exact kept (hear_yard h _ _ fun _ hv _ => hv)
  | frameRejected bytes => exact absurd rfl (hc bytes)
  | frameAbandoned => exact frameAbandoned_kept h _
  | frameSendStart => exact frameSendStart_kept h
  | frameWithdrawn => exact frameWithdrawn_kept h
  | frameSent => exact frameSent_kept h
  | ackButtonPress => exact ackButtonPress_kept h
  | survey => exact survey_kept h _ _ _
  | identify => exact identify_kept h _ _ _
  | laneOpen => exact laneOpen_kept h _ _ _
  | laneClose => exact laneClose_kept h _ _ _
  | laneKind => exact laneKind_kept h _ _ _
  | washSkip => exact washSkip_kept h _ _ _
  | washResume => exact washResume_kept h _ _ _
  | hold => exact hold_kept h _ _ _
  | unhold => exact unhold_kept h _ _ _
  | feed => exact feed_kept h _ _ _
  | forget => exact forget_kept h _ _ _
  | ack => exact ack_kept h _ _ _
  | report => exact report_kept h _ _ _
  | restart => exact restart_kept h _ _ _
  | restartAnswerLeft => exact restartAnswerLeft_kept h
  | orderUnknownKind => exact orderUnknownKind_kept h _ _ _ _
  | idleOf10BitTimes => exact kept_view h (idleFor_view _ _)
  | orderForAnotherStation => exact kept (hear_yard h _ _ fun _ hv _ => hv)

/-- No frame spells a rejected frame. -/
theorem readBody_ne_frameRejected (own sender kind : Nat) (body bytes : List Byte) :
    readBody own sender kind body ≠ .frameRejected bytes := by
  unfold readBody readOrder orderOfKind
  dsimp only
  repeat' split
  all_goals exact nofun
theorem frameRejected_kept (h : s.Yard) (bytes : List Byte) : Kept (exec (.frameRejected bytes) s) := by
  cases hr : readFrame s.cfg.station bytes with
  | none =>
    rw [frameRejected_discards hr]
    exact kept (hear_yard h _ _ fun _ hv _ => hv)
  | some c =>
    obtain ⟨-, sender, kind, body, rfl⟩ := readFrame_some hr
    rw [frameRejected_reads hr]
    exact exec_kept h _ (readBody_ne_frameRejected _ _ _ _)

/-- Every step keeps the yard. -/
theorem step_kept (h : s.Yard) : Kept (step s) := by
  unfold step
  split
  · rename_i c rest _
    have k : (s.setPending rest).Yard := Yard.of_view (setPending_view _ _) h
    by_cases hc : ∃ bytes, c = .frameRejected bytes
    · obtain ⟨bytes, rfl⟩ := hc
      exact frameRejected_kept k bytes
    · exact exec_kept k c fun bytes e => hc ⟨bytes, e⟩
  · exact kept_view h ((setPending_view _ _).trans ((idleFor_view _ _).trans ((setClock_view _ _).trans (setNow_view _ _))))

/-! ### The claim of the obligation, said of the view -/

/-- Elements with the same value in a list of distinct values are the same. -/
theorem eq_of_nodup_filterMap {α β : Type} {f : α → Option β} {as : List α} (h : (as.filterMap f).Nodup) {a b : α} {k : β}
    (ha : a ∈ as) (hb : b ∈ as) (hak : f a = some k) (hbk : f b = some k) : a = b := by
  by_contra hne
  have apart : ∀ a b, (∀ k, f a = some k → ∀ j, f b = some j → k ≠ j) → ∀ j, f b = some j → ∀ k, f a = some k → j ≠ k :=
    fun _ _ r j hj k hk => (r k hk j hj).symm
  have : Std.Symm fun a b => ∀ k, f a = some k → ∀ j, f b = some j → k ≠ j := ⟨apart⟩
  exact (List.pairwise_filterMap.mp h).forall ha hb hne k hak k hbk rfl
/-- Elements that are apart have distinct values. -/
theorem nodup_filterMap {α β γ : Type} {f : α → Option β} {g : α → γ} {as : List α} (h : (as.map g).Nodup)
    (hf : ∀ a ∈ as, ∀ b ∈ as, ∀ k, f a = some k → f b = some k → g a = g b) : (as.filterMap f).Nodup := by
  refine List.pairwise_filterMap.mpr ((List.pairwise_map.mp h).imp_of_mem fun ha hb hne k hk j hj e => hne ?_)
  exact hf _ ha _ hb k hk (e ▸ hj)

theorem stance_queued_iff (p : Place) : p.stance = .queued ↔ p = .queued := by cases p <;> simp [Place.stance]
/-- A record stands as its shunt order says when it is at its from-position or between lanes (R173). -/
theorem stance_mark_iff (p : Place) (o : ShuntOrder) : p.stance = o.mark.stance ↔
    p = match o.phase with | .atFrom => .shunting o.fromLane o.fromPos | .between => .shuntingBetween := by
  unfold ShuntOrder.mark
  cases o.phase <;> cases p <;> simp [Place.stance]
theorem loading_iff : s.view.loading = true ↔ s.node.state = .loading := by simp [State.view]

/-- A lane is sound where its promises are within its room and its stack is unbroken (R5, R8). -/
theorem laneSound_iff (l : Lane) : Claims.laneSound s l ↔ 1 ≤ l.size ∧
    roomFor l.kind l.size l.promisedCount (stands s.view.spots l.number) ∧
      unbroken l.kind l.size (stands s.view.spots l.number) := by
  have hst : ∀ p, s.occupant l.number p ≠ none ↔ stands s.view.spots l.number p := fun p => by
    rw [← occupant_isSome_iff, Option.ne_none_iff_isSome]
  unfold Claims.laneSound unbroken
  simp only [hst, ← le_entryRoom_iff]
  exact Iff.rfl

/-- The yard of a state within the bounds is sound exactly when its view is tidy. -/
theorem yard_of_claims (hb : Claims.bounded s) (hy : Claims.yardSound s) : s.Yard := by
  obtain ⟨-, -, -, -, -, hf, hi, hn⟩ := hb
  obtain ⟨⟨hnum, hcfg, hlane⟩, ⟨hap, hhome⟩, ⟨hcal, hoff⟩, ⟨hord, hsh⟩, hcalled, hload⟩ := hy
  exact {
    ids := by simpa [State.view, Bus.spot, Function.comp_def] using hi
    fresh := fun b hb => by
      obtain ⟨a, ha, rfl⟩ := List.mem_map.mp hb
      exact hn a ha
    fleets := fun a ha b hb f haf hbf => by
      obtain ⟨a, hma, rfl⟩ := List.mem_map.mp ha
      obtain ⟨b, hmb, rfl⟩ := List.mem_map.mp hb
      exact congrArg Bus.id (eq_of_nodup_filterMap hf hma hmb haf hbf)
    apart := fun a ha b hb k hak hbk => by
      obtain ⟨a, hma, rfl⟩ := List.mem_map.mp ha
      obtain ⟨b, hmb, rfl⟩ := List.mem_map.mp hb
      rw [spot_berth?] at hak hbk
      exact congrArg Bus.id (eq_of_nodup_filterMap hap hma hmb hak hbk)
    homes := fun b hb n p hp => by
      obtain ⟨b, hmb, rfl⟩ := List.mem_map.mp hb
      rw [spot_berth?] at hp
      obtain ⟨l, hl, hh⟩ := hhome b hmb n p hp
      exact ⟨l.site, site_mem hl, hh⟩
    numbers := by simpa [State.view, Lane.site, Function.comp_def] using hnum
    berthed := List.all_eq_true.mpr fun c hc => by simpa using hcfg c hc
    sizes := fun l hl => by
      obtain ⟨l, hml, rfl⟩ := List.mem_map.mp hl
      exact ((laneSound_iff l).mp (hlane l hml)).1
    rooms := fun l hl => by
      obtain ⟨l, hml, rfl⟩ := List.mem_map.mp hl
      exact ((laneSound_iff l).mp (hlane l hml)).2.1
    whole := fun l hl _ => by
      obtain ⟨l, hml, rfl⟩ := List.mem_map.mp hl
      exact ((laneSound_iff l).mp (hlane l hml)).2.2
    callers := by simpa [State.view, OfferRecord.mark, Function.comp_def] using hcal
    offers := fun o ho hw => by
      obtain ⟨o, hmo, rfl⟩ := List.mem_map.mp ho
      obtain ⟨l, hl, hh⟩ := hoff o hmo hw
      exact ⟨l.site, site_mem hl, hh⟩
    orders := by simpa [State.view, ShuntOrder.mark, Function.comp_def] using hord
    shunts := fun o ho _ => by
      obtain ⟨o, hmo, rfl⟩ := List.mem_map.mp ho
      obtain ⟨b, hb, hbf, hbp⟩ := hsh o hmo
      exact ⟨b.spot, spot_mem hb, hbf, (stance_mark_iff _ _).mpr hbp⟩
    called := fun f hc => by
      obtain ⟨b, hb, hbf, hbp⟩ := hcalled f hc
      exact ⟨b.spot, spot_mem hb, hbf, (stance_queued_iff _).mpr hbp⟩
    loading := fun e => by
      obtain ⟨h1, h2, h3⟩ := hload (loading_iff.mp e)
      simp [State.view, h1, h2, h3] }
theorem claims_of_yard (h : s.Yard) : Claims.yardSound s := by
  refine ⟨⟨?_, fun c hc => ?_, fun l hl => ?_⟩, ⟨?_, fun b hb n p hp => ?_⟩, ⟨?_, fun o ho hw => ?_⟩,
    ⟨?_, fun o ho => ?_⟩, fun f hf => ?_, fun e => ?_⟩
  · simpa [State.view, Lane.site, Function.comp_def] using h.numbers
  · simpa using List.all_eq_true.mp h.berthed c hc
  · exact (laneSound_iff l).mpr ⟨h.sizes _ (site_mem hl), h.rooms _ (site_mem hl), h.whole _ (site_mem hl) id⟩
  · exact nodup_filterMap h.distinct fun a ha b hb k hak hbk =>
      h.apart _ (spot_mem ha) _ (spot_mem hb) k ((spot_berth? a).trans hak) ((spot_berth? b).trans hbk)
  · obtain ⟨m, hm, hh⟩ := h.homes _ (spot_mem hb) n p ((spot_berth? b).trans hp)
    obtain ⟨l, hl, rfl⟩ := List.mem_map.mp hm
    exact ⟨l, hl, hh⟩
  · simpa [State.view, OfferRecord.mark, Function.comp_def] using h.callers
  · obtain ⟨m, hm, hh⟩ := h.offers o.mark (List.mem_map_of_mem ho) hw
    obtain ⟨l, hl, rfl⟩ := List.mem_map.mp hm
    exact ⟨l, hl, hh⟩
  · simpa [State.view, ShuntOrder.mark, Function.comp_def] using h.orders
  · obtain ⟨c, hc, hcf, hcs⟩ := h.shunts o.mark (List.mem_map_of_mem ho) id
    obtain ⟨b, hb, rfl⟩ := List.mem_map.mp hc
    exact ⟨b, hb, hcf, (stance_mark_iff _ _).mp hcs⟩
  · obtain ⟨c, hc, hcf, hcs⟩ := h.called f hf
    obtain ⟨b, hb, rfl⟩ := List.mem_map.mp hc
    exact ⟨b, hb, hcf, (stance_queued_iff _).mp hcs⟩
  · obtain ⟨h1, h2, h3⟩ := h.loading (loading_iff.mpr e)
    exact ⟨List.map_eq_nil_iff.mp h1, List.map_eq_nil_iff.mp h2, List.map_eq_nil_iff.mp h3⟩

end Sys2Proof.Machine

open Sys2Proof Sys2Proof.Machine

/-- Settles O58: the view of the yard is an invariant of the step (`step_kept`). -/
theorem everyStepKeepsTheYardSound : Obligations.EveryStepKeepsTheYardSound := by
  unfold Obligations.EveryStepKeepsTheYardSound
  intro s t hb hy e
  exact claims_of_yard (step_kept (yard_of_claims hb hy) t e)

/-- Settles O56. -/
theorem resetKeepsTheBounds : Obligations.ResetKeepsTheBounds := by
  unfold Obligations.ResetKeepsTheBounds
  have reset : State.reset.Yard := View.Tidy.empty rfl rfl rfl rfl rfl List.nodup_nil (fun _ h => by cases h)
  refine ⟨⟨?_, ?_, ?_, ?_, ?_, ?_⟩, claims_of_yard reset⟩
  · simp [tableBounded, State.reset]
  · simp [alertsBounded, State.reset]
  · simp [queueBounded, State.reset, Link.reset, Link.size]
  · simp [clockInDay, State.reset]
  · simp [runsOrdered, State.reset]
  · simp [fleetsUnique, State.reset]
end

section
/-! SUPPORT. An order taken and judged (R206, R208). -/

namespace Sys2Proof.Machine

open Sys2Proof

variable {s : State} {sender tag : Nat}

theorem takesFrame_of_hearing (h : Claims.hearing s) : s.takesFrame = true := by
  obtain ⟨ha, hr, hl⟩ := h
  simp [State.takesFrame, State.hears, ha, hr, hl]
@[simp] theorem laneOf_frameEnded (n : Nat) : s.frameEnded.laneOf n = s.laneOf n := rfl
@[simp] theorem busOf_frameEnded (n : Nat) : s.frameEnded.busOf n = s.busOf n := rfl
@[simp] theorem occupant_frameEnded (n p : Nat) : s.frameEnded.occupant n p = s.occupant n p := rfl

/-- An order whose arguments are read comes to its verdict. -/
theorem takeOrder_judged {α : Type} (h : Claims.ordered s sender tag) {args : List Byte} (hl : args.length ≤ 29)
    {p : Option α} {y : α} (hp : p = some y) (j : α → State → Verdict) :
    s.takeOrder sender tag args p j = match j y s.frameEnded with
      | .no code => Claims.answered sender tag code s.frameEnded
      | .done t next payload => t.answer sender tag .done next payload
      | .later t => t := by
  obtain ⟨hh, h1, h2, h3, h4⟩ := h
  rw [takeOrder_free p j (takesFrame_of_hearing hh) h1 h2 h3 hl h4, hp]
  rfl
/-- An order that cannot be carried out is answered with a code, and changes nothing else. -/
theorem takeOrder_no {α : Type} (h : Claims.ordered s sender tag) {args : List Byte} (hl : args.length ≤ 29) {p : Option α}
    {y : α} (hp : p = some y) {j : α → State → Verdict} {c : AnswerCode} (hj : j y s.frameEnded = .no c) :
    s.takeOrder sender tag args p j = Claims.answered sender tag c s.frameEnded := by
  rw [takeOrder_judged h hl hp, hj]
/-- An order carried out at once is answered DONE. -/
theorem takeOrder_plain {α : Type} (h : Claims.ordered s sender tag) {args : List Byte} (hl : args.length ≤ 29)
    {p : Option α} {y : α} (hp : p = some y) {j : α → State → Verdict} {t : State} (hj : j y s.frameEnded = .plain t) :
    s.takeOrder sender tag args p j = Claims.answered sender tag .done t := by
  rw [takeOrder_judged h hl hp, hj]
  rfl
/-- An order that is answered later. -/
theorem takeOrder_later {α : Type} (h : Claims.ordered s sender tag) {args : List Byte} (hl : args.length ≤ 29)
    {p : Option α} {y : α} (hp : p = some y) {j : α → State → Verdict} {t : State} (hj : j y s.frameEnded = .later t) :
    s.takeOrder sender tag args p j = t := by
  rw [takeOrder_judged h hl hp, hj]

/-! ### LANE_OPEN, LANE_CLOSE, LANE_KIND (R24, R25) -/

theorem laneKindArgs_bytes (n : Nat) (h1 : 1 ≤ n) (h2 : n ≤ 8) (k : LaneKind) :
    laneKindArgs [byte n, byte (match k with | .deadEnd => 1 | .through => 2)] = some (n, k) := by
  have hn := byte_toNat n (by omega)
  have h1' : (byte 1).toNat = 1 := rfl
  have h2' : (byte 2).toNat = 2 := rfl
  cases k <;> simp [laneKindArgs, args11, hn, h1', h2', okLane, h1, h2]

/-- An empty lane of either kind has its whole length as entry room (R5). -/
theorem entryMost_empty {l : Lane} (h : s.occupiedPositions l = []) : s.entryMost l = none := by
  unfold State.entryMost State.leavingPos State.rearPos
  rw [h]
  cases l.kind <;> rfl
theorem entryRoom_empty {l : Lane} (h : s.occupiedPositions l = []) : s.entryRoom l = l.size := by
  unfold State.entryRoom
  rw [entryMost_empty h]
theorem kindFree_iff (l : Lane) : s.kindFree l = true ↔
    l.conf.kindChange = true ∧ s.occupiedPositions l = [] ∧ l.reservations = [] ∧ l.holds = [] := by
  simp [State.kindFree, and_assoc]

end Sys2Proof.Machine

open Sys2Proof Sys2Proof.Machine

/-- Settles O10: each order is judged by the look-up of its lane. -/
theorem laneOpenAndClose : Obligations.LaneOpenAndClose := by
  unfold Obligations.LaneOpenAndClose
  intro s sender tag lane ho h1 h2
  have ha := laneArgs_byte lane h1 h2
  refine ⟨fun hl => ?_, fun hl => ⟨?_, ?_⟩, fun l => rfl⟩
  · obtain ⟨l, hl⟩ := Option.isSome_iff_exists.mp hl
    exact ⟨congrArg _ (takeOrder_plain ho (by simp) ha (by simp [hl])),
      congrArg _ (takeOrder_plain ho (by simp) ha (by simp [hl]))⟩
  · exact congrArg _ (takeOrder_no ho (by simp) ha (by simp [hl]))
  · exact congrArg _ (takeOrder_no ho (by simp) ha (by simp [hl]))

/-- Settles O11: the order is judged by `State.kindFree`; an empty lane of either kind has its whole length as entry room. -/
theorem laneKindIsSet : Obligations.LaneKindIsSet := by
  unfold Obligations.LaneKindIsSet
  intro s sender tag lane kind ho h1 h2
  have ha := laneKindArgs_bytes lane h1 h2 kind
  dsimp only
  refine ⟨fun hl => congrArg _ (takeOrder_no ho (by simp) ha (by simp [hl])), fun l hl => ⟨?_, fun hn => ?_⟩⟩
  · intro hf
    refine ⟨congrArg _ (takeOrder_plain ho (by simp) ha ?_), entryRoom_empty (l := { l with kind := kind }) hf.2.1⟩
    simp [hl, (kindFree_iff (s := s.frameEnded) l).mpr hf]
  · refine congrArg _ (takeOrder_no ho (by simp) ha ?_)
    simp [hl, mt (kindFree_iff (s := s.frameEnded) l).mp hn]
end

section
/-! SUPPORT. The readings of a lane (R4, R9 to R16): the positions of R5 as the statements say them, the reading kinds, and
the operations that a reading comes to. -/

namespace Sys2Proof.Machine

open Sys2Proof

variable {s : State}

/-! ### Positions (R5) -/

theorem occupant_none_iff (n p : Nat) : s.occupant n p = none ↔ ¬ stands s.view.spots n p := by
  rw [← occupant_isSome_iff, Bool.not_eq_true, Option.isSome_eq_false_iff, Option.isNone_iff_eq_none]
theorem leavingPos_frontMost {l : Lane} {p : Nat} (h : Claims.frontMost s l p) : s.leavingPos l = some p := by
  obtain ⟨h1, h2, h3, h4⟩ := h
  refine (leavingPos_iff l p).mpr ⟨⟨h1, h2, ?_⟩, fun q hq _ hs => ?_⟩
  · exact not_not.mp (mt (occupant_none_iff _ _).mpr h3)
  · exact Nat.le_of_not_lt fun hlt => (occupant_none_iff _ _).mp (h4 q hq hlt) hs
theorem rearPos_rearMost {l : Lane} {p : Nat} (h : Claims.rearMost s l p) : s.rearPos l = some p := by
  obtain ⟨h1, h2, h3, h4⟩ := h
  refine (rearPos_iff l p).mpr ⟨⟨h1, h2, ?_⟩, fun q _ hq hs => ?_⟩
  · exact not_not.mp (mt (occupant_none_iff _ _).mpr h3)
  · exact Nat.le_of_not_lt fun hlt => (occupant_none_iff _ _).mp (h4 q hlt hq) hs
theorem entryMost_deadEnd {l : Lane} (hk : l.kind = .deadEnd) : s.entryMost l = s.leavingPos l := by
  simp only [State.entryMost, hk]
theorem entryMost_through {l : Lane} (hk : l.kind = .through) : s.entryMost l = s.rearPos l := by
  simp only [State.entryMost, hk]
theorem entryPos_empty {l : Lane} (h : s.entryMost l = none) :
    s.entryPos l = some (match l.kind with | .deadEnd => l.size | .through => 1) := by
  unfold State.entryPos
  rw [h]
  cases l.kind <;> rfl
/-- A lane without entry room has no entry position. -/
theorem entryPos_full {l : Lane} (h : s.entryRoom l = 0) (hs : 0 < l.size) : s.entryPos l = none := by
  unfold State.entryRoom at h
  unfold State.entryPos
  cases he : s.entryMost l with
  | none =>
    rw [he] at h
    exact absurd (show l.size = 0 from h) (Nat.ne_of_gt hs)
  | some p =>
    rw [he] at h
    cases hk : l.kind <;> simp only [hk] at h ⊢ <;> exact if_neg (by omega)

/-! ### The kinds of a reading (R4, R9) -/

theorem reads_ok {l : Lane} {n fleet : Nat} (h : Claims.reads s l n fleet) :
    (s.active && okFleet fleet) = true ∧ s.laneOf n = some l ∧ l.number = n := by
  obtain ⟨ha, hl, h1, h2⟩ := h
  exact ⟨by simp [ha, okFleet, h1, h2], hl, laneOf_number hl⟩
theorem exec_reading {l : Lane} {n fleet : Nat} (h : Claims.reads s l n fleet) (i : ReaderInput) (d : Direction) :
    exec (.laneReaderReading n i fleet d) s = match readingKind l.kind i d with
      | .discarded => .next s
      | .wrongWay => .next (s.suspectLane n)
      | .entry => .next ((s.laneEntry l fleet).settle s [])
      | .leaving => .next ((s.laneExit l fleet).settle s []) := by
  obtain ⟨ha, hl, -⟩ := reads_ok h
  show execLaneReaderReading n i fleet d s = _
  unfold execLaneReaderReading
  rw [ha, hl] <;> rfl
theorem exec_entry {l : Lane} {n fleet : Nat} (h : Claims.reads s l n fleet) :
    exec (.laneReaderReading n (Claims.entryEnd l) fleet .inward) s = .next ((s.laneEntry l fleet).settle s []) := by
  have hk : readingKind l.kind (Claims.entryEnd l) .inward = .entry := by
    unfold Claims.entryEnd
    cases l.kind <;> rfl
  rw [exec_reading h, hk]
theorem exec_leaving {l : Lane} {n fleet : Nat} (h : Claims.reads s l n fleet) :
    exec (.laneReaderReading n .front fleet .outward) s = .next ((s.laneExit l fleet).settle s []) := by
  have hk : readingKind l.kind .front .outward = .leaving := by cases l.kind <;> rfl
  rw [exec_reading h, hk]

theorem suspectLane_marked {l : Lane} {n : Nat} (h : s.laneOf n = some l) : s.suspectLane n = Claims.marked l n s := by
  unfold State.suspectLane
  rw [h]
  rfl
theorem suspectLane_none {n : Nat} (h : s.laneOf n = none) : s.suspectLane n = s := by
  unfold State.suspectLane
  rw [h]
theorem standsAtEntry_iff {l : Lane} {n : Nat} (hn : l.number = n) (fleet : Nat) :
    s.standsAtEntry l fleet = true ↔ Claims.repeated s l n fleet := by
  subst hn
  unfold State.standsAtEntry Claims.repeated
  cases s.entryMost l with
  | none => simp
  | some p => cases ho : s.occupant l.number p <;> simp [ho]
theorem laneEntry_repeated {l : Lane} {n fleet : Nat} (h : Claims.reads s l n fleet) (hr : Claims.repeated s l n fleet) :
    s.laneEntry l fleet = s := by
  unfold State.laneEntry
  rw [if_pos ((standsAtEntry_iff (reads_ok h).2.2 fleet).mpr hr)]
theorem laneEntry_new {l : Lane} {n fleet : Nat} (h : Claims.reads s l n fleet) (hr : ¬ Claims.repeated s l n fleet) :
    s.laneEntry l fleet = match s.entryPos l with
      | none => (s.markSuspect n).raise .stray fleet
      | some pos =>
        match s.busOf fleet with
        | none => s.strayEntry l pos fleet
        | some b => s.knownEntry l pos fleet b := by
  have hn := (reads_ok h).2.2
  unfold State.laneEntry
  rw [if_neg (mt (standsAtEntry_iff hn fleet).mp hr), hn] <;> rfl

end Sys2Proof.Machine

open Sys2Proof Sys2Proof.Machine

/-- Settles O3. -/
theorem readingsThatMoveNoBus : Obligations.ReadingsThatMoveNoBus := by
  unfold Obligations.ReadingsThatMoveNoBus
  refine ⟨fun s l => ⟨fun he => ?_, fun p hp => ⟨leavingPos_frontMost hp, fun hk => ?_⟩, fun p hp hk => ?_⟩,
    fun s n => ⟨suspectLane_none, fun l hl => suspectLane_marked hl⟩, fun s n fleet i d => ⟨fun hd => ?_, fun l hr => ⟨?_, ?_⟩⟩,
    fun s l n fleet hr => ⟨fun hrep => ?_, fun hrep hroom hsize => ?_⟩⟩
  · have ho : s.occupiedPositions l = [] := (occupiedPositions_nil_iff l).mpr fun p h1 h2 =>
      (occupant_none_iff _ _).mp (he p h1 h2)
    exact ⟨by rw [State.leavingPos, ho]; rfl, entryMost_empty ho, entryRoom_empty ho, entryPos_empty (entryMost_empty ho)⟩
  · have hm := (entryMost_deadEnd (s := s) hk).trans (leavingPos_frontMost hp)
    exact ⟨hm, by simp [State.entryRoom, hk, hm], by simp [State.entryPos, hk, hm]⟩
  · have hm := (entryMost_through (s := s) hk).trans (rearPos_rearMost hp)
    exact ⟨hm, by simp [State.entryRoom, hk, hm], by simp [State.entryPos, hk, hm]⟩
  · show execLaneReaderReading n i fleet d s = _
    unfold execLaneReaderReading
    split
    · rename_i ha hl
      simp only [Bool.and_eq_true, okFleet, decide_eq_true_eq] at ha
      rcases hd with h | h | h | h
      · simp [h] at ha
      · simp [h] at hl
      · omega
      · omega
    · rfl
  · intro hk
    rw [exec_reading hr, hk]
    rfl
  · intro hk hid
    have : readingKind l.kind i d = .wrongWay := by
      rw [hk]
      rcases hid with ⟨rfl, rfl⟩ | ⟨rfl, rfl⟩ <;> rfl
    rw [exec_reading hr, this, suspectLane_marked hr.2.1]
  · rw [exec_entry hr, laneEntry_repeated hr hrep]
  · rw [exec_entry hr, laneEntry_new hr hrep, entryPos_full hroom hsize]
    rfl
end

section
/-! SUPPORT. The room test, leaving readings and detectors (R14 to R19, R161). -/

namespace Sys2Proof.Machine

open Sys2Proof

variable {s : State}

/-! ### The room test (R14) -/

theorem roomTest_within {l : Lane} {n : Nat} (h : s.laneOf n = some l) (hr : l.promisedCount ≤ s.entryRoom l) :
    s.roomTest n = s := by
  unfold State.roomTest
  rw [h]
  exact if_neg (Nat.not_lt.mpr hr)
theorem roomTest_beyond {l : Lane} {n : Nat} (h : s.laneOf n = some l) (hr : s.entryRoom l < l.promisedCount) :
    s.roomTest n = s.cancelOne l := by
  unfold State.roomTest
  rw [h]
  exact if_pos hr
/-- The place of a record whose reservation is lost (R84). -/
theorem markLost_eq (f : Nat) : s.markLost f = s.setBuses { s.buses with records := s.buses.records.map (fun b =>
    if b.fleet = some f then
      { b with place := match b.place with | .transit lane start _ take => .transit lane start true take | p => p }
    else b) } := by
  unfold State.markLost
  refine congrArg (fun r => s.setBuses { s.buses with records := r }) (List.map_congr_left fun b _ => ?_)
  simp only [beq_iff_eq]
  split
  · cases b with
    | mk _ _ _ _ place => cases place <;> rfl
  · rfl

end Sys2Proof.Machine

open Sys2Proof Sys2Proof.Machine

/-- Settles O6, by what `State.cancelOne` finds. -/
theorem roomTestCancelsTheOldestPromise : Obligations.RoomTestCancelsTheOldestPromise := by
  unfold Obligations.RoomTestCancelsTheOldestPromise
  intro s l n hl
  have hn := laneOf_number hl
  refine ⟨fun hr => roomTest_within hl hr, fun hr => ?_⟩
  rw [roomTest_beyond hl hr]
  refine ⟨fun r hf => ?_, fun hk => ?_⟩
  · unfold State.cancelOne
    rw [hf, hn]
    exact markLost_eq _
  · have hf : l.reservations.find? (fun r => r.kind == .transit) = none :=
      List.find?_eq_none.mpr fun r hr => by simp [hk r hr]
    refine ⟨fun h rest hh => ?_, fun r rest hh hres => ?_⟩
    · unfold State.cancelOne
      rw [hf, hh, hn]
      simp only [State.markWithdrawn, Bool.and_eq_true, beq_iff_eq]
      rfl
    · unfold State.cancelOne
      rw [hf, hh, hres, hn]
      simp only [State.markUnreserved, beq_iff_eq]
      rfl

/-- Settles O7. -/
theorem outReadingsTakeTheBusOutOrMark : Obligations.OutReadingsTakeTheBusOutOrMark := by
  unfold Obligations.OutReadingsTakeTheBusOutOrMark
  have out : ∀ {s : State} {l : Lane} {b : Bus} {n fleet pos : Nat}, Claims.reads s l n fleet → s.leavingPos l = some pos →
      s.occupant n pos = some b → b.fleet = some fleet →
      exec (.laneReaderReading n .front fleet .outward) s = .next ((s.leaveLane l pos b).settle s []) := by
    intro s l b n fleet pos hr hp ho hf
    have hn := (reads_ok hr).2.2
    have hb : s.leavingBus l = some b := by simp [State.leavingBus, hp, hn, ho]
    rw [exec_leaving hr]
    simp [State.laneExit, hp, hb, hf]
  refine ⟨⟨fun s l b n fleet pos m p hr hp ho hf => ⟨fun hpl => ?_, fun hpl => ?_⟩, fun s l n fleet hr hb => ?_⟩,
    fun s l b rel n fleet pos m p hr hp ho hf hpl hrel => ?_⟩
  · rw [out hr hp ho hf]
    simp only [State.leaveLane, hpl, (reads_ok hr).2.2]
    rfl
  · rw [out hr hp ho hf]
    simp only [State.leaveLane, hpl, (reads_ok hr).2.2, hf]
    rfl
  · have hn := (reads_ok hr).2.2
    have he : s.laneExit l fleet = s.suspectLane l.number := by
      unfold State.laneExit
      split
      · rename_i b _ hlb
        exact if_neg (by simpa using hb b hlb)
      · rfl
    rw [exec_leaving hr, he, hn, suspectLane_marked hr.2.1]
  · rw [out hr hp ho hf]
    simp only [State.leaveLane, hpl, hrel, (reads_ok hr).2.2]
    rfl
end

section
/-! SUPPORT. Detectors and settle states (R17, R18). -/

namespace Sys2Proof.Machine

open Sys2Proof

variable {s : State}

/-- The table of R18, as the statements say it. -/
theorem nextSettle_eq (agree byEvent : Bool) (expiry : Nat) :
    nextSettle agree byEvent expiry = Claims.afterChange byEvent agree expiry := by
  funext st
  cases st <;> cases agree <;> rfl
theorem settleBerth_eq (byEvent : Bool) (n pos : Nat) : s.settleBerth byEvent n pos = s.updateLane n
    (Claims.settled (Claims.afterChange byEvent (s.recorded n pos == s.detector n pos) (s.now + s.cfg.laneSettle)) pos) := by
  unfold State.settleBerth
  rw [nextSettle_eq, State.agrees, Bool.beq_comm]
  rfl

theorem updateAt_past {α : Type} (f : α → α) (l : List α) (i : Nat) (h : l.length ≤ i) : updateAt f i l = l := by
  induction l generalizing i with
  | nil => cases i <;> rfl
  | cons a as ih =>
    cases i with
    | zero => simp at h
    | succ i => exact congrArg (a :: ·) (ih i (Nat.le_of_succ_le_succ h))
theorem updateLane_id {n : Nat} {f : Lane → Lane} (h : ∀ l ∈ s.lanes, l.number = n → f l = l) : s.updateLane n f = s := by
  have : s.lanes.map (fun l => if l.number == n then f l else l) = s.lanes := by
    conv_rhs => rw [← List.map_id s.lanes]
    refine List.map_congr_left fun l hl => ?_
    split
    · rename_i e
      exact h l hl (by simpa using e)
    · rfl
  unfold State.updateLane
  rw [this]
  rfl

/-- A detector level taken in is that of its berth, and no other's. -/
theorem detector_setDetector (n pos : Nat) (o : Bool) (m q : Nat) : (s.setDetector n pos o).detector m q =
    if (m, q) = (n, pos) then o else s.detector m q := by
  unfold State.setDetector State.detector
  cases o <;> by_cases e : (m, q) = (n, pos)
  · simp [e]
  · simp only [Bool.false_eq_true, if_false, State.setInputs_inputs, List.contains_eq_mem, List.mem_filter,
      bne_iff_ne, ne_eq, e, not_false_iff, and_true]
  · simp [e]
  · simp only [if_true, State.setInputs_inputs, List.contains_eq_mem, List.mem_append, List.mem_singleton, e,
      or_false, if_false]
theorem settleExpired_of {l : Lane} {n pos e : Nat} (hl : s.laneOf n = some l) (hp : 1 ≤ pos)
    (hs : l.settle[pos - 1]? = some (.awaitEvent e) ∨ l.settle[pos - 1]? = some (.awaitDetector e)) (he : e ≤ s.now) :
    s.settleExpired n pos = true := by
  unfold State.settleExpired
  rw [hl]
  rcases hs with hs | hs <;> simp [hs, hp, BerthSettle.timer, expired, he]

end Sys2Proof.Machine

open Sys2Proof Sys2Proof.Machine

/-- Settles O8. -/
theorem detectorsMoveTheSettleStates : Obligations.DetectorsMoveTheSettleStates := by
  unfold Obligations.DetectorsMoveTheSettleStates
  refine ⟨fun s n pos o => ⟨fun h => ?_, fun h => ?_⟩, fun s i n pos => ⟨settleBerth_eq true n pos, rfl, ?_, ?_⟩,
    fun s l n pos e ha hl hp hs he => ?_⟩
  · show execBerthDetectorChange n pos o s = _
    unfold execBerthDetectorChange
    rw [if_pos (by simp [h])]
  · let taken := s.setDetector n pos o
    have hrec : taken.recorded n pos = s.recorded n pos := rfl
    have hdet : taken.detector n pos = o := (detector_setDetector n pos o n pos).trans (if_pos rfl)
    refine ⟨if taken.active && 1 ≤ pos then taken.settleBerth false n pos else taken, ?_, ?_, fun m q hne => ?_, ?_, ?_⟩
    · show execBerthDetectorChange n pos o s = _
      unfold execBerthDetectorChange
      rw [if_neg (by simpa using h)]
    · rw [apply_ite (fun t : State => t.detector n pos)]
      exact (ite_self _).trans hdet
    · rw [apply_ite (fun t : State => t.detector m q)]
      exact (ite_self _).trans ((detector_setDetector n pos o m q).trans (if_neg hne))
    · intro ha hp
      rw [if_pos (by rw [show taken.active = s.active from rfl, ha]; simpa using hp), settleBerth_eq, hrec, hdet]
      rfl
    · intro hn
      have same : (if taken.active && 1 ≤ pos then taken.settleBerth false n pos else taken) = taken := by
        split
        · rename_i hc
          simp only [Bool.and_eq_true, decide_eq_true_eq] at hc
          refine updateLane_id fun l hl hln => ?_
          have hlen : l.settle.length < pos := by
            rcases hn with ha | hz | hlen
            · exact absurd hc.1 (by rw [show taken.active = s.active from rfl, ha]; simp)
            · omega
            · exact hlen l hl hln
          rw [updateAt_past _ _ _ (by omega)]
        · rfl
      rw [same]
      rfl
  · intro c b v hc hb hp hv
    unfold State.repeatNeed
    rw [hc, hb]
    simp only [hv]
    rw [if_neg (by simpa using hp)]
    rfl
  · intro h
    unfold State.repeatNeed
    split
    · rename_i c b hc hb
      rcases h with h | h
      · simp [h] at hb
      · rcases h c hc with hi | hn
        · simp [hi]
        · simp [hn]
    · rfl
  · show execBerthSettleExpiry n pos s = _
    unfold execBerthSettleExpiry
    have hl' : (s.updateLane n (Claims.settled (fun _ => .mismatch) pos)).laneOf n
        = some (Claims.settled (fun _ => .mismatch) pos l) :=
      (laneOf_updateLane s n (Claims.settled (fun _ => .mismatch) pos) fun _ => rfl).trans (by rw [hl]; rfl)
    rw [if_pos (by rw [ha, settleExpired_of hl hp hs he]; rfl)]
    exact congrArg _ (suspectLane_marked (l := Claims.settled (fun _ => .mismatch) pos l) hl')
end

section
/-! SUPPORT. The record that a reading makes or moves, as the statements say it (R11 to R13, R28, R29, R32). -/

namespace Sys2Proof.Machine

open Sys2Proof

variable {s : State}

/-! ### Records made, promises and orders gone -/

theorem addBus_created (f : Option Nat) (k : PlaceholderKind) (c : BusClass) (p : Place) (w : Bool) (s : State) :
    s.addBus f k c p w = Claims.created f k c p w s := by
  unfold State.addBus Claims.created
  by_cases h : s.buses.counter < 65535
  · simp [h, Nat.not_le.mpr h]
  · simp [h, Nat.not_lt.mp h, renumber]
theorem addNamed_named (f : Nat) (p : Place) (s : State) : s.addNamed f p = Claims.named f p s := addBus_created _ _ _ _ _ _
theorem keepTake_watched (b : Bus) (f : Nat) (s : State) : s.keepTake b f = Claims.watched b f s := by
  unfold State.keepTake Claims.watched
  cases b.place with
  | transit _ _ _ take => cases take <;> rfl
  | _ => rfl
/-- The placeholder that stands in a lane (R12, R29). -/
theorem addPlaceholder_placeheld {l : Lane} {n : Nat} (h : s.laneOf n = some l) (p : Nat) :
    s.addPlaceholder n p = Claims.placeheld l n p s := by
  unfold State.addPlaceholder Claims.placeheld State.placeholderClassOf
  rw [h]
  dsimp only
  rw [addBus_created]
  rfl

/-- A record of the fleet at the entry-most position is the fleet's record. -/
theorem not_repeated_of_no_bus {l : Lane} {n fleet : Nat} (h : s.busOf fleet = none) : ¬ Claims.repeated s l n fleet := by
  rintro ⟨p, b, -, ho, hf⟩
  exact List.find?_eq_none.mp h b (occupant_mem ho) (by simp [hf])
theorem entry_known {l : Lane} {b : Bus} {n fleet pos : Nat} (h : Claims.reads s l n fleet)
    (hr : ¬ Claims.repeated s l n fleet) (hp : s.entryPos l = some pos) (hb : s.busOf fleet = some b) :
    exec (.laneReaderReading n (Claims.entryEnd l) fleet .inward) s = .next ((s.knownEntry l pos fleet b).settle s []) := by
  rw [exec_entry h, laneEntry_new h hr]
  simp only [hp, hb]
/-- The lane in which a record's arrival is expected (R11). -/
theorem expectedAt_transit {b : Bus} {n start : Nat} {lost : Bool} {take : Option SentTake}
    (h : b.place = .transit n start lost take) : s.expectedAt b = some (n, .transit) := by
  simp only [State.expectedAt, h]
theorem expectedAt_shunt {b : Bus} {fleet : Nat} (hf : b.fleet = some fleet) (h : b.place = .shuntingBetween) :
    s.expectedAt b = (s.shuntOf fleet).map (fun o => (o.target, .shunt)) := by
  simp only [State.expectedAt, h, hf, Option.getD_some]
  cases s.shuntOf fleet <;> rfl
theorem busOf_fleet {f : Nat} {b : Bus} (h : s.busOf f = some b) : b.fleet = some f := by simpa using List.find?_some h

end Sys2Proof.Machine

open Sys2Proof Sys2Proof.Machine

/-- Settles O4. -/
theorem expectedAndStrayEntries : Obligations.ExpectedAndStrayEntries := by
  unfold Obligations.ExpectedAndStrayEntries
  refine ⟨fun s l b n fleet pos kind hr hrep hp hb hexp => ?_, fun s l n fleet pos hr hp hb => ?_⟩
  · have hn := (reads_ok hr).2.2
    have he : s.expectedAt b = some (n, kind) := by
      rcases hexp with ⟨⟨start, lost, take, hpl⟩, rfl⟩ | ⟨hpl, ⟨o, ho, rfl⟩, rfl⟩
      · exact expectedAt_transit hpl
      · rw [expectedAt_shunt (busOf_fleet hb) hpl, ho]
        rfl
    rw [entry_known hr hrep hp hb]
    simp only [State.knownEntry, he, hn, beq_self_eq_true, if_true, State.arrive, keepTake_watched]
    rfl
  · have hn := (reads_ok hr).2.2
    rw [exec_entry hr, laneEntry_new hr (not_repeated_of_no_bus hb)]
    simp only [hp, hb, State.strayEntry, hn, addNamed_named, State.tableRoom, decide_eq_true_eq]
end

section
/-! SUPPORT. A bus read in elsewhere (R12, R59, R70). -/

namespace Sys2Proof.Machine

open Sys2Proof

variable {s : State}

theorem endStanding_movedOff (fleet : Nat) (b : Bus) (s : State) : s.endStanding fleet b = Claims.movedOff b fleet s := by
  have hr : ((s.dropReservations fleet).removeShunt fleet).releasing fleet
      = s.departures.release.any (fun rel => rel.fleet == fleet) := by
    change (match s.departures.release with | some r => r.fleet == fleet | none => false) = _
    cases s.departures.release <;> rfl
  unfold State.endStanding Claims.movedOff
  dsimp only
  rw [hr]
  rfl

theorem vacate_sentOn (k : Nat) (s : State) : s.vacate k = Claims.sentOn k s := by
  unfold State.vacate Claims.sentOn
  simp only [beq_iff_eq]
  by_cases hf : s.stageState k = .fault
  · simp only [hf, if_true]
    split <;> rfl
  · simp only [hf, if_false]
    by_cases hm : s.wash.mode = .stopped <;> simp [hm]
theorem leaveWash_outOfWash {b : Bus} {fleet : Nat} (hf : b.fleet = some fleet) (s : State) :
    s.leaveWash b = Claims.outOfWash b fleet s := by
  unfold State.leaveWash Claims.outOfWash
  rw [hf]
  cases b.place with
  | washing k =>
    simp only [vacate_sentOn, Bool.and_eq_true, Bool.or_eq_true, beq_iff_eq]
    split <;> rfl
  | queued => simp only [beq_iff_eq]
  | _ => rfl

theorem placeheld_congr {l l' : Lane} (h : l'.conf = l.conf) (n p : Nat) (s : State) :
    Claims.placeheld l' n p s = Claims.placeheld l n p s := by
  unfold Claims.placeheld
  rw [h]
theorem repeatNeed_laneOf (n p m : Nat) : (s.repeatNeed n p).laneOf m = s.laneOf m := by
  unfold State.repeatNeed
  repeat' split
  all_goals rfl
/-- A record parked changes no lane but in its settle states. -/
theorem parkAt_laneOf (i n p : Nat) {m : Nat} {l : Lane} (h : s.laneOf m = some l) :
    ∃ l', (s.parkAt i n p).laneOf m = some l' ∧ l'.conf = l.conf := by
  have hb : ((s.setPlace i (.parked n p)).repeatNeed n p).laneOf m = some l := (repeatNeed_laneOf n p m).trans h
  unfold State.parkAt
  rw [settleBerth_eq]
  generalize Claims.afterChange _ _ _ = g
  by_cases hn : m = n
  · subst hn
    refine ⟨Claims.settled g p l, ?_, rfl⟩
    rw [laneOf_updateLane _ _ (Claims.settled g p) fun _ => rfl, hb]
    rfl
  · exact ⟨l, (laneOf_updateLane_other _ _ _ (Claims.settled g p) (fun _ => rfl) hn).trans hb, rfl⟩

theorem expectedAt_berthed {b : Bus} {k : Nat × Nat} (h : b.berth? = some k) : s.expectedAt b = none := by
  unfold Bus.berth? at h
  unfold State.expectedAt
  cases hp : b.place <;> simp_all
theorem atLeaving_iff {b : Bus} {m q : Nat} {l : Lane} (hk : b.berth? = some (m, q)) (hl : s.laneOf m = some l) :
    s.atLeaving b = true ↔ s.leavingPos l = some q := by
  simp [State.atLeaving, hk, hl]
theorem knownEntry_off {l : Lane} {b : Bus} {n fleet : Nat} (hn : l.number = n) (hf : b.fleet = some fleet)
    (h : Claims.offTheLanes s b n fleet) (pos : Nat) : s.knownEntry l pos fleet b = s.moveIn l pos fleet b := by
  unfold State.knownEntry
  have hk : b.berth? = none := by
    unfold Bus.berth?
    rcases h with h | ⟨k, h⟩ | ⟨u, r, h⟩ | ⟨m, st, lo, t, h, -⟩ | ⟨h, -⟩ <;> rw [h]
  have he : ∀ k, s.expectedAt b = some k → k.1 ≠ l.number := by
    intro k he
    rcases h with h | ⟨j, h⟩ | ⟨u, r, h⟩ | ⟨m, st, lo, t, h, hne⟩ | ⟨h, hne⟩
    · simp [State.expectedAt, h] at he
    · simp [State.expectedAt, h] at he
    · simp [State.expectedAt, h] at he
    · rw [expectedAt_transit h] at he
      cases he
      rwa [hn]
    · rw [expectedAt_shunt hf h] at he
      obtain ⟨o, ho, rfl⟩ := Option.map_eq_some_iff.mp he
      rw [hn]
      exact hne o ho
  rw [hk]
  cases hx : s.expectedAt b with
  | none => rfl
  | some k => exact if_neg (by simpa using he k hx)
theorem callingFor_iff (fleet : Nat) : s.callingFor fleet = true ↔
    ∃ c count timer, s.alloc.caller = .calling c count timer ∧ c.fleet = fleet := by
  unfold State.callingFor
  cases s.alloc.caller <;> simp

end Sys2Proof.Machine

open Sys2Proof Sys2Proof.Machine

/-- Settles O5. -/
theorem busesReadInElsewhereAreMoved : Obligations.BusesReadInElsewhereAreMoved := by
  unfold Obligations.BusesReadInElsewhereAreMoved
  refine ⟨fun s l old b n fleet pos m q hr hrep hp hb hk hold => ?_, fun s l b n fleet pos hr hrep hp hb hoff => ?_⟩
  · have hn := (reads_ok hr).2.2
    dsimp only
    rw [entry_known hr hrep hp hb]
    simp only [State.knownEntry, expectedAt_berthed hk, hk]
    refine ⟨fun hlv => ?_, fun hlv hroom => ?_, fun hlv hroom => ?_⟩
    · rw [if_pos ((atLeaving_iff hk hold).mpr hlv)]
      simp only [State.moveFromLeaving, hn, endStanding_movedOff]
    · obtain ⟨l', hl', hc⟩ := parkAt_laneOf b.id n pos hold
      rw [if_neg (mt (atLeaving_iff hk hold).mp hlv)]
      simp only [State.moveFromInside, State.tableRoom, hroom, decide_true, if_true, hn, endStanding_movedOff,
        addPlaceholder_placeheld hl', placeheld_congr hc]
    · rw [if_neg (mt (atLeaving_iff hk hold).mp hlv)]
      simp only [State.moveFromInside, State.tableRoom, Nat.not_lt.mpr hroom, decide_false, Bool.false_eq_true, if_false, hn]
  · have hn := (reads_ok hr).2.2
    have hf := busOf_fleet hb
    dsimp only
    rw [entry_known hr hrep hp hb, knownEntry_off hn hf hoff, ← callingFor_iff]
    simp only [State.moveIn, hn, leaveWash_outOfWash hf, keepTake_watched]
    refine ⟨fun hc => ?_, fun hc => ?_⟩
    · rw [if_pos (by simp [hc.1, hc.2])]
      rfl
    · rw [if_neg (by simpa [and_comm] using hc)]
      rfl
end

section
/-! SUPPORT. What a bus is priced for, and what a lane costs it (R6 to R8, R36, R71, R72). -/

namespace Sys2Proof.Machine

open Sys2Proof

variable {s : State}

/-! ### The first by an order -/

theorem firstBy_none {α : Type} {before : α → α → Bool} {xs : List α} : firstBy before xs = none ↔ xs = [] := by
  cases xs with
  | nil => simp [firstBy]
  | cons x xs =>
    unfold firstBy
    cases firstBy before xs with
    | none => simp
    | some y => cases hb : before y x <;> simp [hb]
/-- The first by a strict weak order stands in the list, and nothing in the list comes before it. -/
theorem firstBy_some {α : Type} {before : α → α → Bool} (hasymm : ∀ x y, before x y = true → ¬ before y x = true)
    (hweak : ∀ x y z, before x z = true → before x y = true ∨ before y z = true) {y : α} :
    ∀ {xs : List α}, firstBy before xs = some y → y ∈ xs ∧ ∀ x ∈ xs, ¬ before x y = true
  | [], h => nomatch h
  | x :: xs, h => by
    unfold firstBy at h
    have hirr : ∀ z, ¬ before z z = true := fun z hz => hasymm z z hz hz
    cases ht : firstBy before xs with
    | none =>
      rw [ht] at h
      obtain rfl : x = y := by simpa using h
      simp [firstBy_none.mp ht, hirr]
    | some t =>
      obtain ⟨hmem, hleast⟩ := firstBy_some hasymm hweak ht
      rw [ht] at h
      by_cases hb : before t x = true
      · obtain rfl : t = y := by simpa [hb] using h
        exact ⟨.tail _ hmem, List.forall_mem_cons.mpr ⟨hasymm _ _ hb, hleast⟩⟩
      · obtain rfl : x = y := by simpa [hb] using h
        exact ⟨.head _, List.forall_mem_cons.mpr ⟨hirr x, fun z hz h => (hweak z t x h).elim (hleast z hz) hb⟩⟩
theorem betterPair_iff (x y : Nat × Nat) : betterPair x y = true ↔ x.1 < y.1 ∨ x.1 = y.1 ∧ x.2 < y.2 := by
  simp [betterPair]
/-- The best of a list of cost and number pairs. -/
theorem firstBy_betterPair {xs : List (Nat × Nat)} {y : Nat × Nat} (h : firstBy betterPair xs = some y) :
    y ∈ xs ∧ ∀ x ∈ xs, y.1 < x.1 ∨ y.1 = x.1 ∧ y.2 ≤ x.2 := by
  obtain ⟨hy, hleast⟩ := firstBy_some (fun x z => by simp only [betterPair_iff]; omega)
    (fun x z w => by simp only [betterPair_iff]; omega) h
  refine ⟨hy, fun x hx => ?_⟩
  have := mt (betterPair_iff x y).mpr (hleast x hx)
  omega

/-! ### The lane chosen (R72) -/

/-- The lanes that a choice is made among. -/
theorem mem_bestLane_pairs (n : Need) (p : Nat × Nat) :
    p ∈ (s.lanes.filter (fun l => some l.number != none && s.laneFits l n)).map (fun l => (s.laneCost l n.service, l.number)) ↔
      ∃ l ∈ s.lanes, s.laneFits l n = true ∧ (s.laneCost l n.service, l.number) = p := by
  simp [and_assoc]
theorem bestLane_none (n : Need) : s.bestLane n none = none ↔ ∀ l ∈ s.lanes, s.laneFits l n = false := by
  unfold State.bestLane
  simp [firstBy_none]
theorem bestLane_some {n : Need} {cost lane : Nat} (h : s.bestLane n none = some (cost, lane)) :
    (∃ l ∈ s.lanes, l.number = lane ∧ s.laneFits l n = true ∧ s.laneCost l n.service = cost) ∧
    (∀ l ∈ s.lanes, s.laneFits l n = true →
      cost < s.laneCost l n.service ∨ (cost = s.laneCost l n.service ∧ lane ≤ l.number)) := by
  obtain ⟨hmem, hleast⟩ := firstBy_betterPair h
  obtain ⟨l, hl, hfit, he⟩ := (mem_bestLane_pairs n _).mp hmem
  obtain ⟨hcost, hnum⟩ := Prod.mk.injEq .. ▸ he
  exact ⟨⟨l, hl, hnum, hfit, hcost⟩, fun k hk hkf => hleast _ ((mem_bestLane_pairs n _).mpr ⟨k, hk, hkf, rfl⟩)⟩

/-! ### The price (R36, R72) -/

theorem service_cast (m : Nat) : (s.service m : Int) = ((m : Int) - s.cfg.dayChange) % 1440 :=
  Int.toNat_of_nonneg (Int.emod_nonneg _ (by decide))
/-- The price of R72 in the signed numbers of the manual. -/
theorem neighbourCost_cast (kind : LaneKind) (v w : Nat) : (neighbourCost kind v w : Int) = Claims.price kind v w := by
  have habs : ((absDiff v w : Nat) : Int) = |(v : Int) - w| := by
    unfold absDiff
    rcases abs_cases ((v : Int) - w) with h | h <;> omega
  unfold neighbourCost Claims.price
  rw [← habs]
  cases kind <;> dsimp only <;> split <;> split <;> omega
theorem neighbourCost_le (kind : LaneKind) (v w : Nat) : neighbourCost kind v w ≤ 2998 := by
  unfold neighbourCost
  dsimp only
  split_ifs <;> omega
theorem laneCost_free {l : Lane} (v : Nat) (h : s.occupiedPositions l = []) : s.laneCost l v = 500 := by
  unfold State.laneCost
  rw [entryMost_empty h]
theorem laneCost_beside {l : Lane} {p : Nat} {b : Bus} (v : Nat) (hp : s.entryMost l = some p)
    (hb : s.occupant l.number p = some b) : s.laneCost l v = neighbourCost l.kind v (s.busService b) := by
  unfold State.laneCost
  simp only [hp, hb]
theorem laneCost_le (l : Lane) (v : Nat) : s.laneCost l v ≤ 2998 := by
  unfold State.laneCost
  split
  · decide
  · split
    · exact neighbourCost_le _ _ _
    · decide

/-! ### What fits (R6 to R8) -/

theorem laneState_ready {l : Lane} : l.state = .ready ↔ l.closed = false ∧ l.suspect = false := by
  unfold Lane.state
  cases l.closed <;> cases l.suspect <;> simp
theorem windowTakes_iff (window : Option (Nat × Nat)) (route : Option Nat) : windowTakes window route = true ↔
    ∀ base span, window = some (base, span) → ∃ r, route = some r ∧ (r = 255 ∨ base ≤ r ∧ r < base + span) := by
  cases window with
  | none => simp [windowTakes]
  | some w =>
    obtain ⟨base, span⟩ := w
    cases route <;> simp [windowTakes]
theorem laneFits_iff (l : Lane) (n : Need) : s.laneFits l n = true ↔ l.closed = false ∧ l.suspect = false ∧
    classHas l.conf.classes n.cls = true ∧ windowTakes l.conf.window n.route = true ∧
    l.promisedCount < s.entryRoom l ∧ (l.conf.charged = true ∨ n.charge = false) := by
  simp [State.laneFits, laneState_ready, and_assoc]

/-! ### The allowance of a call (R71) -/

/-- In a list that ascends by a number, an element is found first exactly when it is the least of those sought. -/
theorem find?_least {α : Type} {key : α → Nat} {p : α → Bool} {x : α} : ∀ {xs : List α}, (xs.map key).Pairwise (· < ·) →
    (xs.find? p = some x ↔ (x ∈ xs ∧ p x = true) ∧ ∀ y ∈ xs, p y = true → key x ≤ key y)
  | [], _ => by simp
  | y :: ys, h => by
    obtain ⟨hy, hys⟩ := List.pairwise_cons.mp h
    have hlt : ∀ z ∈ ys, key y < key z := fun z hz => hy _ (List.mem_map_of_mem hz)
    cases hp : p y with
    | true =>
      simp only [List.find?_cons_of_pos hp, Option.some.injEq, List.mem_cons]
      constructor
      · rintro rfl
        exact ⟨⟨.inl rfl, hp⟩, fun z hz _ => hz.elim (fun e => e ▸ le_rfl) fun h => (hlt z h).le⟩
      · rintro ⟨⟨hx, -⟩, hleast⟩
        refine hx.elim Eq.symm fun hx => ?_
        exact absurd (hleast y (.inl rfl) hp) (Nat.not_le.mpr (hlt x hx))
    | false =>
      simp only [List.find?_cons_of_neg (Bool.not_eq_true _ ▸ hp), List.mem_cons, find?_least hys]
      constructor
      · rintro ⟨⟨hx, hpx⟩, hleast⟩
        exact ⟨⟨.inr hx, hpx⟩, fun z hz hpz => hz.elim (fun e => by simp [e, hp] at hpz) fun hz => hleast z hz hpz⟩
      · rintro ⟨⟨hx, hpx⟩, hleast⟩
        refine ⟨⟨hx.resolve_left ?_, hpx⟩, fun z hz => hleast z (.inr hz)⟩
        rintro rfl
        simp [hp] at hpx
theorem wants_iff (r : Run) (f : Nat) :
    r.wants f = true ↔ r.demand = .fleet f ∧ (r.state = .pending ∨ r.state = .mine) := by
  simp [Run.wants]
theorem allowanceFor_iff (h : (s.runs.runs.map (·.run)).Pairwise (· < ·)) (f a : Nat) : s.allowanceFor f = some a ↔
    ∃ r, (r ∈ s.runs.runs ∧ r.wants f = true) ∧ (∀ q ∈ s.runs.runs, q.wants f = true → r.run ≤ q.run) ∧
      r.allowance = a := by
  simp only [State.allowanceFor, Option.map_eq_some_iff, find?_least h, and_assoc]
theorem busAllowance_iff (b : Bus) (a : Nat) :
    s.busAllowance b = some a ↔ ∃ n r, b.run = some n ∧ s.runOf n = some r ∧ r.allowance = a := by
  unfold State.busAllowance
  cases b.run <;> simp
/-- A called bus needs a charged lane unless its run's allowance is 6 000. -/
theorem callNeed_charge (h : (s.runs.runs.map (·.run)).Pairwise (· < ·)) (caller : Nat) (c : Call) :
    (s.callNeed caller c).charge = false ↔ Claims.allowed s caller c 6000 := by
  have hfor := allowanceFor_iff h c.fleet 6000
  simp only [wants_iff] at hfor
  unfold State.callNeed Claims.allowed
  by_cases hc : caller = s.cfg.station
  · cases hb : s.busOf c.fleet with
    | none => simp [hc, hfor, and_assoc]
    | some b => simp [hc, busAllowance_iff]
  · simp [hc, hfor, and_assoc]

end Sys2Proof.Machine

open Sys2Proof Sys2Proof.Machine

/-- Settles O23: the lane chosen is the first by cost and number (`firstBy_betterPair`), its cost the price of R72. -/
theorem bestLaneIsTheCheapestFit : Obligations.BestLaneIsTheCheapestFit := by
  unfold Obligations.BestLaneIsTheCheapestFit
  refine fun s n => ⟨bestLane_none n, fun _ _ => bestLane_some, service_cast, fun b => ?_, fun l => laneCost_le l _,
    fun l => laneCost_free _, fun l p b hp hb => ?_, fun l => ?_, fun h caller c => ⟨rfl, rfl, rfl, callNeed_charge h caller c⟩⟩
  · unfold State.busService State.serviceOf
    cases b.pullOut <;> rfl
  · rw [laneCost_beside _ hp hb, neighbourCost_cast]
  · rw [laneFits_iff, windowTakes_iff]
    cases n.cls <;> rfl
end

section
/-! SUPPORT. The end of an offer window (R75, R76, R78). -/

namespace Sys2Proof.Machine

open Sys2Proof

variable {s : State}

theorem send_cfg (n : Notice) (s : State) : (s.send n).cfg = s.cfg := by
  obtain ⟨_, _, h⟩ := send_only s n
  rw [h]
  rfl
/-- A TAKE for the current call, as the caller hears it (R78, R79). -/
theorem takeForCall_shown (station seq lane cost : Nat) (s : State) :
    s.takeForCall station seq lane cost = Claims.shown station seq lane cost s := by
  unfold State.takeForCall Claims.shown
  cases s.alloc.caller with
  | idle => rfl
  | calling c count timer => simp only [beq_iff_eq]
  | taken c count best timer => simp only [Bool.and_eq_true, beq_iff_eq, betterPair_iff]
/-- A take won is sent, and applied at home where the call is this node's own (R76, R78). -/
theorem finishTake_taken (o : OfferRecord) (s : State) : s.finishTake o =
    if o.caller = s.cfg.station then Claims.shown s.cfg.station o.call.seq o.lane o.cost (Claims.taken o s)
    else Claims.taken o s := by
  unfold State.finishTake
  simp only [takeForCall_shown, beq_iff_eq]
  have hcfg : (Claims.taken o s).cfg = s.cfg := send_cfg _ _
  exact hcfg ▸ rfl
theorem lostCall_iff (o : OfferRecord) : s.lostCall o = true ↔ o.withdrawn = true ∨
    ∃ cost station, o.best = some (cost, station) ∧ (cost < o.cost ∨ cost = o.cost ∧ station < s.cfg.station) := by
  unfold State.lostCall
  rw [Bool.or_eq_true]
  cases o.best <;> simp [betterPair_iff, Prod.ext_iff, and_assoc]

section
variable {o : OfferRecord} {caller : Nat}

theorem dropOffer_unheld (h : s.offerOf caller = some o) :
    s.dropOffer caller = Claims.unheld o (s.removeOffer caller) := by
  unfold State.dropOffer
  rw [h]
  rfl
theorem windowExpiry_lost (h : s.offerOf caller = some o) (hw : o.window ≤ s.now) (hl : s.lostCall o = true) :
    exec (.offerWindowExpiry caller) s = .next ((s.dropOffer caller).settle s []) := by
  show execOfferWindowExpiry caller s = _
  simp only [execOfferWindowExpiry, h, if_neg (Nat.not_lt.mpr hw), hl, if_true]
theorem windowExpiry_won (h : s.offerOf caller = some o) (hw : o.window ≤ s.now) (hl : ¬ s.lostCall o = true) :
    exec (.offerWindowExpiry caller) s = .next ((s.winCall o).settle s []) := by
  show execOfferWindowExpiry caller s = _
  simp only [execOfferWindowExpiry, h, if_neg (Nat.not_lt.mpr hw), if_neg hl]
theorem winCall_made (hb : s.busOf o.call.fleet = none) (hr : s.buses.records.length < 64) : s.winCall o =
    ((s.removeOffer o.caller).addBus (some o.call.fleet) .named o.call.cls (s.takePlace o) o.call.washed).finishTake o := by
  have hb' : (s.removeOffer o.caller).busOf o.call.fleet = none := hb
  have hr' : (s.removeOffer o.caller).tableRoom = true := decide_eq_true hr
  simp only [State.winCall, hb', hr', if_true]
  rfl
theorem winCall_full (hb : s.busOf o.call.fleet = none) (hr : 64 ≤ s.buses.records.length) : s.winCall o =
    Claims.unheld o ((s.removeOffer o.caller).raise .busTableFull o.call.fleet) := by
  have hb' : (s.removeOffer o.caller).busOf o.call.fleet = none := hb
  have hr' : (s.removeOffer o.caller).tableRoom = false := decide_eq_false (Nat.not_lt.mpr hr)
  simp only [State.winCall, hb', hr', Bool.false_eq_true, if_false]
  rfl
theorem winCall_elsewhere {b : Bus} (hb : s.busOf o.call.fleet = some b) (ha : b.isApron = false) :
    s.winCall o = Claims.unheld o (s.removeOffer o.caller) := by
  have hb' : (s.removeOffer o.caller).busOf o.call.fleet = some b := hb
  simp only [State.winCall, hb', ha, Bool.false_eq_true, if_false]
  rfl
theorem winCall_apron {b : Bus} (hb : s.busOf o.call.fleet = some b) (ha : b.isApron = true) : s.winCall o =
    (((s.removeOffer o.caller).leaveApron o.call.fleet).setPlace b.id (s.takePlace o)).finishTake o := by
  have hb' : (s.removeOffer o.caller).busOf o.call.fleet = some b := hb
  simp only [State.winCall, hb', ha, if_true]
  rfl

end

end Sys2Proof.Machine

open Sys2Proof Sys2Proof.Machine

/-- Settles O24, by the cases of `State.winCall`. -/
theorem offerWindowJudgesTheCall : Obligations.OfferWindowJudgesTheCall := by
  unfold Obligations.OfferWindowJudgesTheCall
  intro s o caller ho hw
  obtain ⟨-, rfl⟩ := offerOf_caller ho
  simp only [← lostCall_iff]
  refine ⟨fun hl => ?_, fun hl hb hr => ?_, fun hl hb hr => ?_, fun b hl hb ha => ?_, fun b hl hb ha => ?_⟩
  · rw [windowExpiry_lost ho hw hl, dropOffer_unheld ho]
    rfl
  · rw [windowExpiry_won ho hw hl, winCall_made hb hr, addBus_created, finishTake_taken]
    rfl
  · rw [windowExpiry_won ho hw hl, winCall_full hb hr]
    rfl
  · rw [windowExpiry_won ho hw hl, winCall_elsewhere hb ha]
    rfl
  · rw [windowExpiry_won ho hw hl, winCall_apron hb ha, finishTake_taken]
    rfl
end

section
/-! SUPPORT. IDENTIFY (R23, R40). -/

namespace Sys2Proof.Machine

open Sys2Proof

variable {s : State}

/-! ### The suspect mark (R23) -/

theorem updateLane_congr {n : Nat} {f g : Lane → Lane} (h : ∀ l ∈ s.lanes, l.number = n → f l = g l) :
    s.updateLane n f = s.updateLane n g := by
  refine congrArg s.setLanes (List.map_congr_left fun l hl => ?_)
  by_cases hn : l.number = n
  · simp only [hn, beq_self_eq_true, if_true, h l hl hn]
  · simp only [beq_iff_eq, if_neg hn]
/-- Lane numbers stand once, so the lane of a number is the only one of it. -/
theorem laneOf_unique {n : Nat} {l : Lane} (hd : (s.lanes.map (·.number)).Nodup) (hl : s.laneOf n = some l) :
    ∀ k ∈ s.lanes, k.number = n → k = l := fun _ hk he =>
  List.inj_on_of_nodup_map hd hk (List.mem_of_find?_eq_some hl) (he.trans (laneOf_number hl).symm)
theorem holdsPlaceholder_iff (lane : Nat) : s.holdsPlaceholder lane = true ↔
    ∃ b ∈ s.buses.records, b.fleet = none ∧ ∃ pos, b.berth? = some (lane, pos) := by
  unfold State.holdsPlaceholder
  simp only [List.any_eq_true, Bool.and_eq_true, Bus.isPlaceholder, beq_iff_eq]
  refine exists_congr fun b => and_congr_right fun _ => and_congr_right fun _ => ?_
  cases b.berth? <;> simp [Prod.ext_iff]
/-- The marks that IDENTIFY clears. -/
theorem clearSuspect_eq {lane : Nat} {l : Lane} (hd : (s.lanes.map (·.number)).Nodup) (hl : s.laneOf lane = some l) :
    s.clearSuspect lane = if s.holdsPlaceholder lane = false ∧ ∀ st ∈ l.settle, st = .quiet
      then s.updateLane lane (fun x => { x with suspect := false }) else s := by
  unfold State.clearSuspect
  split
  case isTrue h =>
    refine updateLane_congr fun k hk hn => ?_
    rw [laneOf_unique hd hl k hk hn]
    exact if_pos (by simpa using h)
  case isFalse h =>
    refine updateLane_id fun k hk hn => ?_
    rw [laneOf_unique hd hl k hk hn]
    exact if_neg (by simpa using h)

/-! ### The other record of the bus (R40) -/

/-- The record that stands under its own handle. -/
theorem find?_id {b : Bus} (hd : s.distinct) (hb : b ∈ s.buses.records) :
    s.buses.records.find? (fun x => x.id == b.id) = some b := by
  obtain ⟨c, hc⟩ := Option.isSome_iff_exists.mp
    (List.find?_isSome (p := fun x => x.id == b.id).mpr ⟨b, hb, beq_self_eq_true b.id⟩)
  rw [hc, List.inj_on_of_nodup_map hd (List.mem_of_find?_eq_some hc) hb (by simpa using List.find?_some hc)]
/-- A record that has no run any more. -/
def Bus.freed (b : Bus) : Bus := { b with run := none, pullOut := none, route := none }
/-- A record changed under its own handle. -/
theorem updateBus_find? {b : Bus} {f : Bus → Bus} (hf : ∀ x, (f x).id = x.id) (hd : s.distinct) (hb : b ∈ s.buses.records) :
    (s.updateBus b.id f).buses.records.find? (fun x => x.id == b.id) = some (f b) := by
  have hid : (fun x : Bus => x.id == b.id) ∘ (fun x => if x.id == b.id then f x else x) = fun x => x.id == b.id := by
    funext x
    simp only [Function.comp_apply]
    split <;> simp [hf]
  show (s.buses.records.map (fun x => if x.id == b.id then f x else x)).find? _ = _
  rw [List.find?_map, hid, find?_id hd hb]
  simp
/-- A change of a record that goes is lost with it. -/
theorem updateBus_removed (i : Nat) {f : Bus → Bus} (hf : ∀ x, (f x).id = x.id) :
    (s.updateBus i f).removeBus i = Claims.removed i s := by
  have hid : (fun x : Bus => x.id != i) ∘ (fun x => if x.id == i then f x else x) = fun x => x.id != i := by
    funext x
    simp only [Function.comp_apply]
    split <;> simp [hf]
  have : (s.buses.records.map (fun x => if x.id == i then f x else x)).filter (fun x => x.id != i)
      = s.buses.records.filter (fun x => x.id != i) := by
    rw [List.filter_map, hid]
    exact (List.map_congr_left fun x hx => if_neg (by simpa using List.of_mem_filter hx)).trans (List.map_id _)
  exact congrArg (fun r => s.setBuses { s.buses with records := r }) this
/-- The other record, freed from its run, goes with its place on the apron or its reservation (R34, R40). -/
theorem freed_withdrawn {o : Bus} {fleet : Nat} (hd : s.distinct) (ho : s.busOf fleet = some o)
    (hp : o.isApron = true ∨ o.isTransit = true) :
    (s.freeBus o.id).deleteBus o.id = Claims.withdrawn o fleet s := by
  have hf := busOf_fleet ho
  rw [show s.freeBus o.id = s.updateBus o.id Bus.freed from rfl]
  unfold State.deleteBus Claims.withdrawn
  rw [updateBus_find? (f := Bus.freed) (fun _ => rfl) hd (busOf_mem ho)]
  dsimp only
  rw [updateBus_removed (f := Bus.freed) _ fun _ => rfl, show o.freed.place = o.place from rfl, show o.freed.fleet = some fleet from hf]
  cases hpl : o.place with
  | apron unplaced retry => exact (leaveWash_outOfWash (b := o.freed) hf _).trans (by simp only [Claims.outOfWash, Bus.freed, hpl])
  | transit lane start lost take => rfl
  | _ => simp [Bus.isApron, Bus.isTransit, hpl] at hp
theorem mergeAway_found {o : Bus} {lane fleet : Nat} (hd : s.distinct) (ho : s.busOf fleet = some o)
    (hp : o.isApron = true ∨ o.isTransit = true) : s.mergeAway lane fleet o =
    if o.isApron = true ∧ s.callingFor fleet = true
    then Claims.foundHere fleet lane (Claims.watched o fleet (Claims.withdrawn o fleet s))
    else Claims.watched o fleet (Claims.withdrawn o fleet s) := by
  unfold State.mergeAway
  rw [freed_withdrawn hd ho hp, keepTake_watched]
  simp only [Bool.and_eq_true, and_comm]
  rfl
theorem identified_merged (o : Bus) (fleet : Nat) : Bus.identified fleet (some o) = Claims.merged o fleet := by
  funext b
  unfold Bus.identified Claims.merged
  cases b.need <;> rfl

/-! ### The order (R207) -/

theorem identifyArgs_bytes {lane pos fleet : Nat} (h1 : 1 ≤ lane) (h2 : lane ≤ 8) (h3 : 1 ≤ pos) (h4 : pos ≤ 6)
    (h5 : 1 ≤ fleet) (h6 : fleet ≤ 9999) :
    identifyArgs ([byte lane, byte pos] ++ be16 fleet) = some (lane, pos, fleet) := by
  have hl := byte_toNat lane (by omega)
  have hp := byte_toNat pos (by omega)
  have hf := num16_be16 fleet (by omega)
  simp [identifyArgs, be16, hl, hp, hf, okLane, okPosition, okFleet, h1, h2, h3, h4, h5, h6]

end Sys2Proof.Machine

open Sys2Proof Sys2Proof.Machine

/-- Settles O14, by the verdict on each record that the position and the fleet may have. -/
theorem identifyNamesThePlaceholder : Obligations.IdentifyNamesThePlaceholder := by
  unfold Obligations.IdentifyNamesThePlaceholder
  refine ⟨fun s lane l hd hl => ?_, fun s sender tag lane pos fleet ho h1 h2 h3 h4 h5 h6 hd => ?_⟩
  · have hclear : (∀ b ∈ s.buses.records, ∀ pos, b.berth? = some (lane, pos) → b.fleet ≠ none) ↔
        s.holdsPlaceholder lane = false := by
      rw [← Bool.not_eq_true, holdsPlaceholder_iff]
      push Not
      exact forall₂_congr fun b _ => ⟨fun h hf pos hb => h pos hb hf, fun h pos hb hf => h hf pos hb⟩
    dsimp only
    rw [hclear, clearSuspect_eq hd hl]
    exact ⟨fun h => if_pos h, fun h => if_neg h⟩
  · have ha := identifyArgs_bytes h1 h2 h3 h4 h5 h6
    have hlen : ([byte lane, byte pos] ++ be16 fleet).length ≤ 29 := by simp [be16]
    have hcov : ∀ l, s.laneOf lane = some l → (s.laneOf lane).filter (fun l => decide (pos ≤ l.size)) =
        if pos ≤ l.size then some l else none := fun l hl => by simp [hl, Option.filter]
    dsimp only
    refine ⟨fun hno => congrArg _ (takeOrder_no ho hlen ha ?_), fun l b hl hpos hb => ⟨fun hf => ?_, fun hf hbus => ?_,
      fun o hf hbus => ⟨fun hap htr => ?_, fun hp => ?_⟩⟩⟩
    · cases hl : s.laneOf lane with
      | none => simp [hl]
      | some l =>
        rcases hno l hl with h | h
        · cases hx : s.occupant lane pos <;> simp [hcov l hl, Nat.not_le.mpr h, hx]
        · simp [h]
    · refine congrArg _ (takeOrder_no ho hlen ha ?_)
      simp only [laneOf_frameEnded, hcov l hl, if_pos hpos, occupant_frameEnded, hb, Bus.isPlaceholder]
      cases hx : s.busOf fleet <;> simp [hx, hf]
    · refine congrArg _ (takeOrder_plain ho hlen ha ?_)
      simp [hcov l hl, hpos, hb, hbus, Bus.isPlaceholder, hf]
      rfl
    · refine congrArg _ (takeOrder_no ho hlen ha ?_)
      simp [hcov l hl, hpos, hb, hbus, hap, htr]
    · have hj := mergeAway_found (s := s.frameEnded) (lane := lane) hd hbus hp
      have hdone : exec (.identify sender tag ([byte lane, byte pos] ++ be16 fleet)) s = .next (Claims.answered sender tag .done
          ((((s.frameEnded.mergeAway lane fleet o).updateBus b.id (Claims.merged o fleet)).clearSuspect lane).settle s.frameEnded
            [])) := by
        refine congrArg _ (takeOrder_plain ho hlen ha ?_)
        simp [hcov l hl, hpos, hb, hbus, Bus.isPlaceholder, hf, hp, State.identify, identified_merged]
      rw [show s.frameEnded.callingFor fleet = s.callingFor fleet from rfl] at hj
      rw [← callingFor_iff]
      refine ⟨fun hc => ?_, fun hc => ?_⟩
      · rw [hdone, hj, if_pos hc]
      · rw [hdone, hj, if_neg hc]
end

section
/-! SUPPORT. What the tests that follow a command, and the deletion of a record, leave alone: the order in execution, and what
is configured of every lane. -/

namespace Sys2Proof.Machine

open Sys2Proof

/-- The order in execution, and every lane's number and configuration. -/
def State.fixture (s : State) : Option Order × List (Nat × LaneConfig) := (s.order, s.lanes.map fun l => (l.number, l.conf))

section
variable {s : State}

theorem mapLanes_fixture (f : Lane → Lane) (hf : ∀ l, (f l).number = l.number ∧ (f l).conf = l.conf) :
    (s.setLanes (s.lanes.map f)).fixture = s.fixture := by
  refine Prod.ext rfl ?_
  show (s.lanes.map f).map _ = _
  rw [List.map_map]
  exact List.map_congr_left fun l _ => Prod.ext (hf l).1 (hf l).2
theorem updateLane_fixture (n : Nat) (f : Lane → Lane) (hf : ∀ l, (f l).number = l.number ∧ (f l).conf = l.conf) :
    (s.updateLane n f).fixture = s.fixture :=
  mapLanes_fixture _ fun l => by split <;> simp [hf]
theorem foldl_fixture {α : Type} (f : State → α → State) (hf : ∀ u x, (f u x).fixture = u.fixture) (l : List α) {s : State} :
    (l.foldl f s).fixture = s.fixture := by
  induction l generalizing s with
  | nil => rfl
  | cons x xs ih => exact ih.trans (hf s x)
theorem order_of_fixture {t : State} (h : t.fixture = s.fixture) : t.order = s.order := congrArg Prod.fst h
/-- A lane that keeps its number and configuration is found with them. -/
theorem laneOf_of_fixture {t : State} (h : t.fixture = s.fixture) {n : Nat} {l : Lane} (hl : s.laneOf n = some l) :
    ∃ l', t.laneOf n = some l' ∧ l'.conf = l.conf := by
  have key : ∀ u : State, (u.laneOf n).map (fun l => (l.number, l.conf)) = u.fixture.2.find? (fun c => c.1 == n) := fun u => by
    unfold State.fixture State.laneOf
    rw [List.find?_map]
    rfl
  have := key t
  rw [h, ← key s, hl, Option.map_some, Option.map_eq_some_iff] at this
  obtain ⟨l', hl', he⟩ := this
  exact ⟨l', hl', congrArg Prod.snd he⟩
end

section
variable (s : State)

/-! ### Alerts, frames, records, lanes -/

@[simp] theorem setBuses_fixture (x : BusTable) : (s.setBuses x).fixture = s.fixture := rfl
@[simp] theorem setWash_fixture (x : Wash) : (s.setWash x).fixture = s.fixture := rfl
@[simp] theorem setAlloc_fixture (x : Allocator) : (s.setAlloc x).fixture = s.fixture := rfl
@[simp] theorem setRuns_fixture (x : RunList) : (s.setRuns x).fixture = s.fixture := rfl
@[simp] theorem setDepartures_fixture (x : Departures) : (s.setDepartures x).fixture = s.fixture := rfl
@[simp] theorem updateRun_fixture (n : Nat) (f : Run → Run) : (s.updateRun n f).fixture = s.fixture := rfl
@[simp] theorem updateBus_fixture (i : Nat) (f : Bus → Bus) : (s.updateBus i f).fixture = s.fixture := rfl
@[simp] theorem setStage_fixture (n : Nat) (st : StageState) (t : Option Nat) : (s.setStage n st t).fixture = s.fixture := rfl
@[simp] theorem send_fixture (n : Notice) : (s.send n).fixture = s.fixture := by
  obtain ⟨_, _, h⟩ := send_only s n
  rw [h]
  rfl
@[simp] theorem raise_fixture (c : AlertCode) (n : Nat) : (s.raise c n).fixture = s.fixture := send_fixture _ _
@[simp] theorem repeatNeed_fixture (n p : Nat) : (s.repeatNeed n p).fixture = s.fixture := by
  unfold State.repeatNeed
  repeat' split
  all_goals rfl
@[simp] theorem addPlaceholder_fixture (n p : Nat) : (s.addPlaceholder n p).fixture = s.fixture := by
  simp [State.addPlaceholder, State.addBus]
@[simp] theorem releaseReservation_fixture (n : Nat) (r : Reservation) : (s.releaseReservation n r).fixture = s.fixture :=
  updateLane_fixture _ _ fun _ => ⟨rfl, rfl⟩
@[simp] theorem addReservation_fixture (n : Nat) (r : Reservation) : (s.addReservation n r).fixture = s.fixture :=
  updateLane_fixture _ _ fun _ => ⟨rfl, rfl⟩
@[simp] theorem releaseHold_fixture (n : Nat) (h : OfferHold) : (s.releaseHold n h).fixture = s.fixture :=
  updateLane_fixture _ _ fun _ => ⟨rfl, rfl⟩
@[simp] theorem addHold_fixture (n : Nat) (h : OfferHold) : (s.addHold n h).fixture = s.fixture :=
  updateLane_fixture _ _ fun _ => ⟨rfl, rfl⟩
@[simp] theorem surveySettle_fixture (l : Lane) : (s.surveySettle l).fixture = s.fixture :=
  updateLane_fixture _ _ fun _ => ⟨rfl, rfl⟩
@[simp] theorem cancelOne_fixture (l : Lane) : (s.cancelOne l).fixture = s.fixture := by
  unfold State.cancelOne
  split <;> simp [State.markLost, State.markWithdrawn, State.markUnreserved]
@[simp] theorem roomTest_fixture (n : Nat) : (s.roomTest n).fixture = s.fixture := by
  unfold State.roomTest
  repeat' split
  all_goals simp
@[simp] theorem roomTests_fixture (n k : Nat) : (State.roomTests n k s).fixture = s.fixture := by
  induction k generalizing s with
  | zero => rfl
  | succ k ih => exact (ih _).trans (roomTest_fixture ..)

/-! ### The wash lane and calls -/

@[simp] theorem testOnward_fixture (n : Nat) : (s.testOnward n).fixture = s.fixture := by
  unfold State.testOnward State.signalOn
  dsimp only
  repeat' split
  all_goals rfl
@[simp] theorem testStages_fixture (n : Nat) : (State.testStages n s).fixture = s.fixture := by
  induction n generalizing s with
  | zero => rfl
  | succ n ih => exact (ih _).trans (testOnward_fixture ..)
@[simp] theorem spill_fixture (n : Nat) : (State.spill n s).fixture = s.fixture := by
  induction n generalizing s with
  | zero => rfl
  | succ n ih =>
    unfold State.spill
    repeat' split
    all_goals first | rfl | exact (ih _).trans rfl
@[simp] theorem washTests_fixture : s.washTests.fixture = s.fixture := by
  unfold State.washTests State.testEntryCall
  repeat' split
  all_goals simp
@[simp] theorem leaveWash_fixture (b : Bus) : (s.leaveWash b).fixture = s.fixture := by
  unfold State.leaveWash State.vacate
  dsimp only
  repeat' split
  all_goals rfl
@[simp] theorem dropOffer_fixture (n : Nat) : (s.dropOffer n).fixture = s.fixture := by
  unfold State.dropOffer
  split <;> simp [State.removeOffer]
@[simp] theorem evaluateCall_fixture (n : Nat) (c : Call) : (s.evaluateCall n c).fixture = s.fixture := by
  unfold State.evaluateCall
  dsimp only
  repeat' split
  all_goals simp
@[simp] theorem callTest_fixture : s.callTest.fixture = s.fixture := by
  unfold State.callTest State.makeCall
  repeat' split
  all_goals simp

/-! ### Runs and claims -/

@[simp] theorem raiseFront_fixture (b : State) : (s.raiseFront b).fixture = s.fixture := by
  unfold State.raiseFront
  repeat' split
  all_goals rfl
@[simp] theorem sendClaim_fixture (a b c : Nat) : (s.sendClaim a b c).fixture = s.fixture := by
  unfold State.sendClaim
  split <;> simp
@[simp] theorem claimTests_fixture (b : State) (e : List Nat) : (State.claimTests b e s).fixture = s.fixture :=
  foldl_fixture _ (fun _ _ => by
    unfold State.claimTest State.claimRun
    repeat' split
    all_goals simp) _
@[simp] theorem keepRefresh_fixture (b : State) : (s.keepRefresh b).fixture = s.fixture := rfl
@[simp] theorem withdrawClaims_fixture : s.withdrawClaims.fixture = s.fixture :=
  foldl_fixture _ (fun _ _ => by
    unfold State.withdrawClaim
    repeat' split
    all_goals simp) _
@[simp] theorem giveUpRun_fixture (n f : Nat) : (s.giveUpRun n f).fixture = s.fixture := by
  unfold State.giveUpRun
  dsimp only
  repeat' split
  all_goals simp
@[simp] theorem freeBus_fixture (i : Nat) : (s.freeBus i).fixture = s.fixture := rfl
@[simp] theorem nameRun_fixture (i : Nat) (r : Run) : (s.nameRun i r).fixture = s.fixture := rfl
@[simp] theorem bindAll_fixture : s.bindAll.fixture = s.fixture :=
  foldl_fixture _ (fun _ _ => by
    unfold State.bindBus
    dsimp only
    repeat' split
    all_goals simp) _
@[simp] theorem runLosesRecord_fixture (n f : Nat) : (s.runLosesRecord n f).fixture = s.fixture := by
  unfold State.runLosesRecord
  repeat' split
  all_goals simp

/-! ### The morning departure -/

@[simp] theorem makeLate_fixture (n : Nat) (a : AlertCode) : (s.makeLate n a).fixture = s.fixture := by simp [State.makeLate]
@[simp] theorem endRelease_fixture : s.endRelease.fixture = s.fixture := by
  unfold State.endRelease
  dsimp only
  repeat' split
  all_goals simp [State.setPlace]
@[simp] theorem failRelease_fixture (a : AlertCode) (b : Bool) : (s.failRelease a b).fixture = s.fixture := by
  unfold State.failRelease State.freeAfterChange State.freeReleased State.lateAfter
  repeat' split
  all_goals simp
@[simp] theorem dropShunt_fixture (f : Nat) : (s.dropShunt f).fixture = s.fixture := by
  unfold State.dropShunt
  split <;> simp [State.removeShunt]
@[simp] theorem exitTests_fixture : s.exitTests.fixture = s.fixture := by
  have late : ∀ (n : Nat) (s : State), (State.latenessTests n s).fixture = s.fixture := by
    intro n
    induction n with
    | zero => exact fun _ => rfl
    | succ n ih =>
      intro s
      unfold State.latenessTests
      split <;> simp [ih]
  unfold State.exitTests State.releaseTest State.beginRelease
  repeat' split
  all_goals exact late _ _
@[simp] theorem shuntTests_fixture : s.shuntTests.fixture = s.fixture :=
  foldl_fixture _ (fun _ _ => by
    unfold State.shuntTest State.issueShunt
    repeat' split
    all_goals simp [State.setPlace, State.markFailed]) _
@[simp] theorem lapseRuns_fixture : s.lapseRuns.fixture = s.fixture :=
  foldl_fixture _ (fun _ _ => by
    unfold State.lapseRun
    repeat' split
    all_goals simp) _
@[simp] theorem departureTests_fixture : s.departureTests.fixture = s.fixture := by
  simp [State.departureTests, State.clearFailed]
/-- The tests that follow a command. -/
@[simp] theorem settle_fixture (b : State) (e : List Nat) : (s.settle b e).fixture = s.fixture := by
  unfold State.settle
  split <;> simp
/-- The deletion of a record. -/
@[simp] theorem deleteBus_fixture (i : Nat) : (s.deleteBus i).fixture = s.fixture := by
  unfold State.deleteBus
  split
  · rfl
  · dsimp only
    repeat' split
    all_goals simp [State.removeBus]

end

end Sys2Proof.Machine
end

section
/-! SUPPORT. Surveys (R20 to R22, R207, R208). -/

namespace Sys2Proof.Machine

open Sys2Proof

variable {s : State}

/-! ### What a survey finds (R21) -/

theorem coveringRun_covered (s : State) (l : Lane) : s.coveringRun l = Claims.covered s l l.number := by
  have hf : s.coveringRun l = l.positions.filter fun p => decide (p ∈ s.coveringRun l) := by
    have key : ∀ q : Nat → Bool, l.positions.filter q = l.positions.filter fun p => decide (p ∈ l.positions.filter q) :=
      fun q => List.filter_congr fun p hp => by simp [hp]
    unfold State.coveringRun
    split
    · exact key _
    · simp
  rw [hf]
  refine List.filter_congr fun p hp => Bool.eq_iff_iff.mpr ?_
  rw [decide_eq_true_iff, mem_coveringRun]
  simp [(mem_positions l p).mp hp]
/-- Flags are the bits of a number from the lowest. -/
theorem flagBits_range (n : Nat) (g : Nat → Bool) :
    flagBits ((List.range n).map g) = ((List.range n).map fun i => if g i then 2 ^ i else 0).sum := by
  induction n generalizing g with
  | zero => rfl
  | succ n ih =>
    have hi : ∀ i, (if g (i + 1) then 2 ^ (i + 1) else 0) = 2 * (if g (i + 1) then 2 ^ i else 0) := fun i => by
      split
      · exact Nat.pow_succ'
      · rfl
    have h0 : (g 0).toNat = if g 0 then 2 ^ 0 else 0 := by cases g 0 <;> rfl
    simp only [List.range_succ_eq_map, List.map_cons, List.map_map, List.sum_cons, flagBits, h0]
    rw [show (g ∘ Nat.succ) = fun i => g (i + 1) from rfl, ih, ← List.sum_map_mul_left]
    simp only [Function.comp_def, Nat.succ_eq_add_one, hi]
theorem positionBits_bitsOf (ps : List Nat) : positionBits ps = Claims.bitsOf ps := flagBits_range _ _

/-! ### A lane brought to its detectors (R21, R22) -/

theorem roomTests_iterate (n k : Nat) (s : State) : State.roomTests n k s = Nat.iterate (fun x => x.roomTest n) k s := by
  induction k generalizing s with
  | zero => rfl
  | succ k ih => exact ih _
/-- The placeholders of a lane stand by its configuration. -/
theorem addPlaceholders_placeheld {l : Lane} {n : Nat} (hl : s.laneOf n = some l) (ps : List Nat) :
    ∀ {t : State}, t.fixture = s.fixture →
      ps.foldl (fun t p => t.addPlaceholder n p) t = ps.foldl (fun t p => Claims.placeheld l n p t) t := by
  induction ps with
  | nil => exact fun _ => rfl
  | cons p ps ih =>
    intro t ht
    obtain ⟨l', hl', hc⟩ := laneOf_of_fixture ht hl
    have hp : t.addPlaceholder n p = Claims.placeheld l n p t :=
      (addPlaceholder_placeheld hl' p).trans (placeheld_congr hc n p t)
    rw [List.foldl_cons, List.foldl_cons, ← hp]
    exact ih ((addPlaceholder_fixture _ _ _).trans ht)
theorem surveySettle_eq (l : Lane) (s : State) : s.surveySettle l = s.updateLane l.number fun x => { x with
    settle := l.positions.map fun p => if s.detector l.number p = s.recorded l.number p then .quiet else .mismatch
    suspect := s.buses.records.any fun b => b.fleet.isNone && b.berth?.any fun x => x.1 == l.number
    survey := none } := by
  have hp : s.holdsPlaceholder l.number
      = s.buses.records.any fun b => b.fleet.isNone && b.berth?.any fun x => x.1 == l.number := by
    refine congrArg s.buses.records.any (funext fun b => ?_)
    unfold Bus.isPlaceholder
    cases b.fleet <;> cases b.berth? <;> rfl
  unfold State.surveySettle State.agrees
  simp only [hp, beq_iff_eq]
theorem placeholderPositions_holes (s : State) (l : Lane) : s.placeholderPositions l = Claims.holes s l l.number := by
  unfold State.placeholderPositions Claims.holes
  rw [coveringRun_covered]
/-- What a lane's survey comes to where the table has room. -/
theorem surveyLane_brought {l : Lane} {n : Nat} (hl : s.laneOf n = some l) (hr : s.surveyRoom l = true) :
    (s.surveyLane l).1 = Claims.brought s l n := by
  obtain rfl := laneOf_number hl
  have hgone : ((s.goneRecords l).map (·.id)).foldl (fun s i => s.deleteBus i) s
      = (Claims.gone s l l.number).foldl (fun t b => t.deleteBus b.id) s := List.foldl_map
  unfold State.surveyLane Claims.brought
  rw [if_pos hr]
  dsimp only
  rw [surveySettle_eq, roomTests_iterate, addPlaceholders_placeheld hl _ (foldl_fixture _ (fun _ _ => deleteBus_fixture ..) _),
    hgone, placeholderPositions_holes]
  rfl
theorem surveyCode_eq (n : Nat) : s.surveyCode n = match s.laneOf n with
    | some x => if x.closed then 3 else if x.suspect then 2 else 1
    | none => 4 := by
  unfold State.surveyCode Lane.state
  cases s.laneOf n with
  | none => rfl
  | some x => cases hc : x.closed <;> cases hs : x.suspect <;> simp [hc, hs, laneStateCode]
theorem surveyLane_surveyed {l : Lane} {n : Nat} (hl : s.laneOf n = some l) : s.surveyLane l = Claims.surveyed s l n := by
  have hroom : s.surveyRoom l = true ↔
      s.buses.records.length - (Claims.gone s l n).length + (Claims.holes s l n).length ≤ 64 := by
    obtain rfl := laneOf_number hl
    rw [← placeholderPositions_holes]
    exact decide_eq_true_iff
  unfold Claims.surveyed
  by_cases hr : s.surveyRoom l = true
  · have hb := surveyLane_brought hl hr
    have hd : ∀ p, (s.surveyLane l).1.detector l.number p = s.detector l.number p := fun p =>
      congrArg (fun i : Inputs => i.berths.contains (l.number, p)) (surveyLane_holds l (Holds.refl s)).inputs
    have ho : s.surveyLane l = ((s.surveyLane l).1, ⟨l.number, (s.surveyLane l).1.surveyCode l.number,
        positionBits (s.disagreeing l ++ (s.placeholderPositions l).filter fun p => !(s.surveyLane l).1.detector l.number p)⟩) := by
      unfold State.surveyLane
      rw [if_pos hr]
    dsimp only
    rw [if_pos (hroom.mp hr), ← hb]
    obtain rfl := laneOf_number hl
    refine ho.trans (Prod.ext rfl ?_)
    refine congrArg₂ (SurveyOutcome.mk l.number) (surveyCode_eq _) ?_
    simp only [positionBits_bitsOf, placeholderPositions_holes, hd]
    rfl
  · dsimp only
    rw [if_neg (mt hroom.mpr hr)]
    obtain rfl := laneOf_number hl
    rw [← positionBits_bitsOf]
    unfold State.surveyLane
    rw [if_neg hr]
    rfl
@[simp] theorem surveyLane_fixture (l : Lane) (s : State) : (s.surveyLane l).1.fixture = s.fixture := by
  unfold State.surveyLane
  dsimp only
  split
  · simp [foldl_fixture]
  · exact (raise_fixture ..).trans (updateLane_fixture _ _ fun _ => ⟨rfl, rfl⟩)
theorem surveyed_lane (l : Lane) (n : Nat) (s : State) : (Claims.surveyed s l n).2.lane = n := by
  unfold Claims.surveyed
  dsimp only
  split <;> rfl

/-! ### The outcomes reported (R19, R22, R208) -/

theorem insertBy_perm {α : Type} (f : α → α → Bool) (x : α) (xs : List α) : (insertBy f x xs).Perm (x :: xs) := by
  induction xs with
  | nil => exact .refl _
  | cons y ys ih =>
    unfold insertBy
    split
    · exact (ih.cons y).trans (.swap x y ys)
    · exact .refl _
theorem sortBy_perm {α : Type} (f : α → α → Bool) (xs : List α) : (sortBy f xs).Perm xs := by
  induction xs with
  | nil => exact .refl _
  | cons x xs ih => exact (insertBy_perm f x _).trans (ih.cons x)
theorem insertBy_ascend {α : Type} {key : α → Nat} (x : α) {xs : List α} (h : xs.Pairwise fun a b => key a ≤ key b) :
    (insertBy (fun a b => key a < key b) x xs).Pairwise fun a b => key a ≤ key b := by
  induction xs with
  | nil => simp [insertBy]
  | cons y ys ih =>
    obtain ⟨hy, hys⟩ := List.pairwise_cons.mp h
    unfold insertBy
    split
    case isTrue hlt =>
      refine List.pairwise_cons.mpr ⟨fun z hz => ?_, ih hys⟩
      rcases (mem_insertBy _ _ _ _).mp hz with rfl | hz
      · exact (of_decide_eq_true hlt).le
      · exact hy z hz
    case isFalse hlt =>
      have hxy : key x ≤ key y := Nat.le_of_not_lt fun h => hlt (decide_eq_true h)
      refine List.pairwise_cons.mpr ⟨fun z hz => ?_, h⟩
      rcases List.mem_cons.mp hz with rfl | hz
      · exact hxy
      · exact hxy.trans (hy z hz)
theorem sortBy_ascend {α : Type} (key : α → Nat) (xs : List α) :
    (sortBy (fun a b => key a < key b) xs).Pairwise fun a b => key a ≤ key b := by
  induction xs with
  | nil => exact .nil
  | cons x xs ih => exact insertBy_ascend x ih
theorem surveyWaits_iff (n : Nat) : s.surveyWaits n = true ↔
    ∃ o waiting outcomes, s.order = some o ∧ o.work = .survey waiting outcomes ∧ n ∈ waiting := by
  unfold State.surveyWaits
  cases s.order with
  | none => simp
  | some o => cases ho : o.work <;> simp [ho]
theorem surveyWaits_of_fixture {t : State} (h : t.fixture = s.fixture) (n : Nat) : t.surveyWaits n = s.surveyWaits n := by
  unfold State.surveyWaits
  rw [order_of_fixture h]
theorem reportOutcome_unasked {x : SurveyOutcome} (h : ¬ s.surveyWaits x.lane = true) : s.reportOutcome x = s := by
  unfold State.surveyWaits at h
  unfold State.reportOutcome
  cases ho : s.order with
  | none => rfl
  | some o => cases hw : o.work <;> simp_all
theorem reportOutcome_waiting {x : SurveyOutcome} {o : Order} {waiting : List Nat} {outcomes : List SurveyOutcome}
    (ho : s.order = some o) (hw : o.work = .survey waiting outcomes) (hn : x.lane ∈ waiting) :
    s.reportOutcome x = if (waiting.filter (fun m => m != x.lane)).isEmpty
      then (s.setOrder none).answer o.station o.tag .done 0 (surveyPayload (outcomes ++ [x]))
      else s.setOrder (some { o with work := .survey (waiting.filter (fun m => m != x.lane)) (outcomes ++ [x]) }) := by
  unfold State.reportOutcome
  simp only [ho, hw, List.contains_iff_mem.mpr hn, if_true]
theorem tellSuspect_eq (x : SurveyOutcome) (s : State) : s.tellSuspect x =
    if (∃ y, s.laneOf x.lane = some y ∧ y.suspect = true) ∧ x.outcome ≠ 4 then s.raise .laneSuspect x.lane else s := by
  unfold State.tellSuspect
  cases s.laneOf x.lane <;> simp
theorem surveyPeriodEnd_ended {l : Lane} {n ending : Nat} (ha : s.active = true) (hl : s.laneOf n = some l)
    (hs : l.survey = some ending) (he : ending ≤ s.now) :
    let t := (Claims.surveyed s l n).1
    let x := (Claims.surveyed s l n).2
    exec (.surveyPeriodEnd n) s =
      .next (((if s.surveyWaits n = true then t else t.tellSuspect x).settle s []).reportOutcome x) := by
  have hw : (Claims.surveyed s l n).1.surveyWaits n = s.surveyWaits n :=
    surveyWaits_of_fixture (surveyLane_surveyed hl ▸ surveyLane_fixture l s) n
  show execSurveyPeriodEnd n s = _
  unfold execSurveyPeriodEnd
  simp only [ha, hl, hs, expired, he, decide_true, if_true, surveyLane_surveyed hl, hw]

end Sys2Proof.Machine

open Sys2Proof Sys2Proof.Machine

/-- Settles O13: a lane's survey is `surveyLane_surveyed`, and neither it nor the tests change the order that waits. -/
theorem surveysBeginAndEnd : Obligations.SurveysBeginAndEnd := by
  unfold Obligations.SurveysBeginAndEnd
  refine ⟨fun s sender tag lane ho h8 => ?_, fun s l n ending ha hl hs he => ?_⟩
  · have harg : surveyArgs [byte lane] = some lane := by simp [surveyArgs, args1, byte_toNat lane (by omega), h8]
    exact ⟨fun hn => congrArg _ (takeOrder_later ho (by simp) harg (if_neg (mt List.isEmpty_iff.mp hn))),
      fun hn => congrArg _ (takeOrder_no ho (by simp) harg (if_pos (List.isEmpty_iff.mpr hn)))⟩
  · have hend := surveyPeriodEnd_ended ha hl hs he
    have hfix : (Claims.surveyed s l n).1.fixture = s.fixture := surveyLane_surveyed hl ▸ surveyLane_fixture l s
    have hlane := surveyed_lane l n s
    dsimp only at hend ⊢
    rw [hend]
    generalize (Claims.surveyed s l n).1 = t at hfix ⊢
    generalize (Claims.surveyed s l n).2 = x at hlane ⊢
    subst hlane
    have hset : ∀ u : State, u.fixture = s.fixture → (u.settle s []).fixture = s.fixture := fun u hu => (settle_fixture ..).trans hu
    refine ⟨fun hno => ?_, fun o waiting outcomes ho hw hn => ?_⟩
    · have hsw : ¬ s.surveyWaits x.lane = true := fun h =>
        have ⟨o, w, os, ho, hw, hn⟩ := (surveyWaits_iff _).mp h
        hno o w os ho hw hn
      have htell : (t.tellSuspect x).fixture = s.fixture := by
        rw [tellSuspect_eq]
        split <;> simp [hfix]
      rw [if_neg hsw, reportOutcome_unasked, tellSuspect_eq]
      rwa [surveyWaits_of_fixture (hset _ htell)]
    · rw [if_pos ((surveyWaits_iff _).mpr ⟨o, waiting, outcomes, ho, hw, hn⟩),
        reportOutcome_waiting ((order_of_fixture (hset _ hfix)).trans ho) hw hn]
      refine ⟨fun hleft => ?_, fun hleft => ⟨_, sortBy_perm _ _, sortBy_ascend SurveyOutcome.lane _, ?_⟩⟩
      · rw [if_neg (mt List.isEmpty_iff.mp hleft)]
      · rw [if_pos (List.isEmpty_iff.mpr hleft)]
        rfl
end

section
/-! SUPPORT. What a start makes of the blocks, as the statements say it, and which blocks each step of it touches (R26, R65,
R89, R93, R99, R203). -/

namespace Sys2Proof.Machine

open Sys2Proof

variable {s : State}

/-! ### Lanes and wash lane set anew (R26, R65) -/

theorem zipIdx_map {α β : Type} (f : α × Nat → β) (xs : List α) : xs.zipIdx.map f = xs.mapIdx fun i a => f (a, i) :=
  (List.mapIdx_eq_zipIdx_map (f := fun i a => f (a, i))).symm
theorem freshLanes_new (s : State) : s.freshLanes = s.cfg.lanes.mapIdx (Claims.newLane (s.now + s.cfg.laneSettle)) :=
  zipIdx_map _ _
theorem enterFrostHold_frosted (s : State) : s.enterFrostHold = Claims.frosted s.wash.frost s.wash.clearing s := by
  unfold State.enterFrostHold Claims.frosted
  simp only [Bool.and_eq_true, beq_iff_eq]
  split <;> rfl
theorem freshWash_new (warm : Bool) (s : State) : s.freshWash warm = Claims.newWash warm s := enterFrostHold_frosted _
theorem keptStages_held (st : Stage) : heldStage st = Claims.held st := by
  unfold heldStage Claims.held
  cases st.state <;> rfl

/-! ### The blocks that each step touches -/

theorem cutOver_only (value : Charger → Nat) (apply : Nat → Charger → Charger) (g : Group) (bs : List Nat) :
    ∀ (x : Nat) (s : State), ∃ c, State.cutOver value apply g bs x s = s.setCharging c := by
  induction bs with
  | nil => exact fun _ s => ⟨s.charging, rfl⟩
  | cons b bs ih =>
    intro x s
    unfold State.cutOver
    split
    · exact ⟨s.charging, rfl⟩
    · split
      · exact ih x s
      · split
        · obtain ⟨c, hc⟩ := ih _ (s.updateCharger b _)
          exact ⟨c, hc⟩
        · exact ih x s
theorem cutGroup_only (g : Group) (s : State) : ∃ c, s.cutGroup g = s.setCharging c := by
  unfold State.cutGroup
  split
  · obtain ⟨c, hc⟩ := cutOver_only (·.target) Charger.lowerTo g s.charging.order.reverse (s.committed g - s.grant g) s
    rw [hc]
    exact ⟨_, rfl⟩
  · exact ⟨s.charging, rfl⟩
theorem followGrants_only (s : State) : ∃ f c, s.followGrants = (s.setFeeders f).setCharging c := by
  have follow : ∀ (g : Group) (s : State), ∃ f c, s.followGrant g = (s.setFeeders f).setCharging c := fun g s => by
    obtain ⟨c, hc⟩ := cutGroup_only g (s.setGrant g (min (s.grant g) (s.available g)))
    exact ⟨_, c, hc⟩
  unfold State.followGrants
  obtain ⟨f, c, h⟩ := follow .a s
  rw [h]
  obtain ⟨f', c', h'⟩ := follow .b ((s.setFeeders f).setCharging c)
  rw [h']
  obtain ⟨f'', c'', h''⟩ := follow .c ((((s.setFeeders f).setCharging c).setFeeders f').setCharging c')
  exact ⟨f'', c'', h''⟩
theorem applyFeeder_only (g : Group) (st : FeederState) (hot : Bool) (s : State) :
    ∃ f c, s.applyFeeder g st hot = (s.setFeeders f).setCharging c := by
  unfold State.applyFeeder
  dsimp only
  split
  · exact ⟨s.feeders, s.charging, rfl⟩
  · obtain ⟨f, c, h⟩ := followGrants_only (State.reviseChargers s.groupState (fun c => groupGet c.mask g) (s.setFeeders _))
    exact ⟨f, c, h⟩
theorem announce_only (g : Group) (s : State) :
    ∃ f c, s.announce g = ((s.send (.feeder g (groupGet s.inputs.groups g).state (groupGet s.inputs.groups g).hot)).setFeeders
      f).setCharging c := by
  obtain ⟨f, c, h⟩ := applyFeeder_only g (groupGet s.inputs.groups g).state (groupGet s.inputs.groups g).hot (State.setFeeders _ _)
  exact ⟨f, c, h⟩
/-- A notice that finds room in the queue of a node in LISTEN or RUN changes the link alone. -/
theorem send_roomy (n : Notice) (hl : s.listenOrRun = true) (hr : s.link.size < 16) :
    ∃ l, s.send n = s.setLink l ∧ l.size ≤ s.link.size + 1 := by
  unfold State.send State.offerFrame
  rw [if_pos hl]
  split
  · exact ⟨_, rfl, by simp⟩
  · exact ⟨_, rfl, by simp⟩

/-! ### What the blocks begin in LISTEN (R89, R93, R99) -/

theorem announce_told (g : Group) (s : State) :
    s.announce g = Claims.told g (groupGet s.inputs.groups g).state (groupGet s.inputs.groups g).hot s := by
  have hnow (n : Notice) : (s.send n).now = s.now := (send_keeps n (Keeps.refl s)).now
  have hfed : ∀ st hot (t : State), t.applyFeeder g st hot = Claims.fed g st hot t := fun st hot t => by
    unfold State.applyFeeder Claims.fed
    simp only [Bool.and_eq_true, beq_iff_eq]
  unfold State.announce Claims.told
  simp only [hnow, hfed]
theorem announceAll_told (s : State) : s.announceAll =
    let tell := fun (g : Group) => Claims.told g (groupGet s.inputs.groups g).state (groupGet s.inputs.groups g).hot
    if s.cfg.monitor then tell .c (tell .b (tell .a s)) else s := by
  have ha : (s.announce .a).inputs = s.inputs := (announce_keeps .a (Keeps.refl s)).inputs
  have hb : ((s.announce .a).announce .b).inputs = s.inputs := (announce_keeps .b (announce_keeps .a (Keeps.refl s))).inputs
  unfold State.announceAll
  dsimp only
  rw [announce_told .c, hb, announce_told .b, ha, announce_told .a]
/-- A node that draws nothing and plans nothing announces a DRAW of zeros. -/
theorem totals_idle (h : ∀ c ∈ s.charging.chargers, c.target = 0 ∧ c.planned = 0) (g : Group) :
    s.committed g = 0 ∧ s.plannedTotal g = 0 := by
  have hd : ∀ c ∈ s.drawers g, c.target = 0 ∧ c.planned = 0 := fun c hc => h c (List.mem_of_mem_filter hc)
  constructor <;> refine List.sum_eq_zero fun n hn => ?_
  · obtain ⟨c, hc, rfl⟩ := List.mem_map.mp hn
    exact (hd c hc).1
  · obtain ⟨c, hc, rfl⟩ := List.mem_map.mp hn
    exact (hd c hc).2
theorem beginListen_listening (h : ∀ c ∈ s.charging.chargers, c.target = 0 ∧ c.planned = 0) :
    s.beginListen = Claims.listening s := by
  unfold State.beginListen Claims.listening
  dsimp only
  generalize ht : s.setCharging { s.charging with chargers := s.charging.chargers.map (fun c => { c with statusAsked := true }) } = t
  have hidle : ∀ c ∈ t.charging.chargers, c.target = 0 ∧ c.planned = 0 := fun c hc => by
    subst ht
    obtain ⟨b, hb, rfl⟩ := List.mem_map.mp hc
    exact h b hb
  have hroll : t.sendRoll true = t.send (.roll true (Claims.described t) (groupMake (Claims.declared t))) := rfl
  have hdraw : (t.sendRoll true).sendDraw = (t.sendRoll true).send (.draw ⟨0, 0, 0⟩ ⟨0, 0, 0⟩) := by
    obtain ⟨l, a, h⟩ := send_only t (.roll true t.description (groupMake t.declared))
    have hz := totals_idle (s := t.sendRoll true) (by rw [State.sendRoll, h]; exact hidle)
    unfold State.sendDraw groupMake
    simp only [hz]
  have hs : Keeps s (t.sendRoll true).sendDraw := sendDraw_keeps (sendRoll_keeps _ (ht ▸ setCharging_keeps _ (Keeps.refl s)))
  have hv := setFeeders_keeps { (t.sendRoll true).sendDraw.feeders with
    drawTimer := some ((t.sendRoll true).sendDraw.now + 10) } hs
  rw [announceAll_told, hv.cfg, hv.inputs, hs.now, hdraw, hroll]

/-- A state that differs in nothing but the link, the feeder records and the chargers, its queue no longer than `k`. -/
def Announced (k : Nat) (s t : State) : Prop :=
  ∃ l f c, t = ((s.setLink l).setFeeders f).setCharging c ∧ l.size ≤ k

theorem Announced.setFeeders {k : Nat} {t : State} (h : Announced k s t) (x : Feeders) : Announced k s (t.setFeeders x) := by
  obtain ⟨l, f, c, rfl, hs⟩ := h
  exact ⟨l, x, c, rfl, hs⟩
theorem Announced.send {k : Nat} {t : State} (h : Announced k s t) (hl : s.listenOrRun = true) (hk : k < 16) (n : Notice) :
    Announced (k + 1) s (t.send n) := by
  obtain ⟨l, f, c, rfl, hs⟩ := h
  obtain ⟨l', h', hs'⟩ := send_roomy (s := ((s.setLink l).setFeeders f).setCharging c) n hl (Nat.lt_of_le_of_lt hs hk)
  exact ⟨l', f, c, h', hs'.trans (Nat.add_le_add_right hs 1)⟩
theorem Announced.sendRoll {k : Nat} {t : State} (h : Announced k s t) (hl : s.listenOrRun = true) (hk : k < 16) (ask : Bool) :
    Announced (k + 1) s (t.sendRoll ask) := h.send hl hk _
theorem Announced.sendDraw {k : Nat} {t : State} (h : Announced k s t) (hl : s.listenOrRun = true) (hk : k < 16) :
    Announced (k + 1) s t.sendDraw := h.send hl hk _
theorem Announced.announce {k : Nat} {t : State} (h : Announced k s t) (hl : s.listenOrRun = true) (hk : k < 16) (g : Group) :
    Announced (k + 1) s (t.announce g) := by
  obtain ⟨f, c, e⟩ := announce_only g t
  obtain ⟨l, f', c', e', hs⟩ := h.send hl hk (.feeder g (groupGet t.inputs.groups g).state (groupGet t.inputs.groups g).hot)
  exact ⟨l, f, c, by rw [e, e']; rfl, hs⟩
/-- A node that enters LISTEN with a short queue announces itself, and changes nothing besides. -/
theorem beginListen_announced (hl : s.listenOrRun = true) (hk : s.link.size ≤ 8) : ∃ k, Announced k s s.beginListen := by
  have h0 : Announced 8 s (s.setCharging { s.charging with
      chargers := s.charging.chargers.map (fun c => { c with statusAsked := true }) }) :=
    ⟨s.link, s.feeders, _, rfl, hk⟩
  have h1 := fun x => ((h0.sendRoll hl (by decide) true).sendDraw hl (by decide)).setFeeders x
  unfold State.beginListen State.announceAll
  dsimp only
  split
  · exact ⟨13, (((h1 _).announce hl (by decide) .a).announce hl (by decide) .b).announce hl (by decide) .c⟩
  · exact ⟨10, h1 _⟩

end Sys2Proof.Machine
end

section
/-! SUPPORT. The warm restart (R27, R42, R66, R86, R131, R152, R204). -/

namespace Sys2Proof.Machine

open Sys2Proof

variable {s : State}

/-! ### The yard records kept or set anew (R26, R27, R42, R66, R152) -/

theorem laneKept_eq (e : Nat) (l : Lane) : l.kept e = Claims.keptLane e l :=
  congrArg (fun x : List BerthSettle => ({ l with
    reservations := l.reservations.filter (fun r => r.kind == .transit), holds := [], survey := none, settle := x } : Lane))
    (List.map_congr_left fun (st : BerthSettle) _ => by cases st <;> rfl)
theorem keptPlace_eq (b : Bus) : s.keptPlace b = Claims.keptPlace s b := by
  have h : s.shuntFrom b.fleet = (b.fleet.bind fun f =>
      (s.departures.shunts.find? fun o => o.fleet == f).map (·.fromLane)).getD 0 := by
    unfold State.shuntFrom State.shuntOf
    cases b.fleet with
    | none => rfl
    | some f => cases hf : s.departures.shunts.find? (fun o => o.fleet == f) <;> simp [hf]
  unfold State.keptPlace Claims.keptPlace
  rw [h]
  cases b.place <;> rfl
theorem runKept_eq (r : Run) : r.kept = Claims.keptRun r := by
  unfold Run.kept Claims.keptRun Run.fallBack
  by_cases hc : r.state = .claiming
  · cases r.best <;> simp [hc]
  · simp [hc]
theorem keptStages_eq (s : State) : s.keptStages = s.wash.stages.mapIdx fun i st =>
    if s.stageBus (i + 1) = none ∧ s.stageDetector (i + 1) = true then ⟨.fault, none⟩ else Claims.held st := by
  unfold State.keptStages
  simp only [zipIdx_map, keptStages_held, Bool.and_eq_true, Option.isNone_iff_eq_none]
theorem keepYard_eq (s : State) : s.keepYard = Claims.keptYard s := by
  have hw : s.keptWash = s.setWash (Claims.keptWash s) := by
    unfold State.keptWash Claims.keptWash
    rw [keptStages_eq]
    rfl
  have hl : s.lanes.map (Lane.kept (s.now + s.cfg.laneSettle)) = s.lanes.map (Claims.keptLane (s.now + s.cfg.laneSettle)) :=
    List.map_congr_left fun l _ => laneKept_eq _ l
  have hb : s.buses.records.map (fun b => { b with place := s.keptPlace b })
      = s.buses.records.map (fun b => { b with place := Claims.keptPlace s b }) :=
    List.map_congr_left fun b _ => by rw [keptPlace_eq]
  have hr : s.runs.runs.map Run.kept = s.runs.runs.map Claims.keptRun := List.map_congr_left fun r _ => runKept_eq r
  have hk : s.keepYard = (((s.setLanes (s.lanes.map (Lane.kept (s.now + s.cfg.laneSettle)))).setWash s.keptWash.wash).setBuses
      { s.buses with records := s.buses.records.map (fun b => { b with place := s.keptPlace b }) }).setRuns
      { s.runs with runs := s.runs.runs.map Run.kept } := rfl
  rw [hk, hw, hl, hb, hr]
  rfl
/-- The wash lane that a warm restart sets anew (R65). -/
def State.warmWash (s : State) : Wash :=
  ⟨if s.cfg.washLane then .stopped else .normal, s.freshStages, none, none, s.frostNow, none, false, []⟩

/-- A warm restart that sets the wash lane anew tells no frost: the lane is STOPPED, or there is none. -/
theorem newWash_warm (s : State) : Claims.newWash true s = s.setWash s.warmWash := by
  unfold State.warmWash
  rw [← freshWash_new]
  unfold State.freshWash State.enterFrostHold State.frostNow
  cases s.cfg.washLane <;> rfl
theorem renewYard_eq (s : State) : s.renewYard = Claims.newYard s := by
  unfold State.renewYard Claims.newYard
  rw [freshLanes_new]
  dsimp only
  rw [freshWash_new, newWash_warm, newWash_warm]
  rfl

/-! ### The release dropped (R42, R164) -/

/-- A state that differs in nothing but its runs and bus records. -/
def Rebound (s t : State) : Prop := ∃ r b, t = (s.setRuns r).setBuses b

theorem Rebound.refl (s : State) : Rebound s s := ⟨s.runs, s.buses, rfl⟩
theorem Rebound.runs {t : State} (h : Rebound s t) (r : RunList) : Rebound s (t.setRuns r) := by
  obtain ⟨r', b, rfl⟩ := h
  exact ⟨r, b, rfl⟩
theorem Rebound.buses {t : State} (h : Rebound s t) (b : BusTable) : Rebound s (t.setBuses b) := by
  obtain ⟨r, b', rfl⟩ := h
  exact ⟨r, b, rfl⟩
theorem Rebound.inRun {t : State} (h : Rebound s t) : t.inRun = s.inRun := by
  obtain ⟨r, b, rfl⟩ := h
  rfl
theorem giveUpRun_rebound {t : State} (h : Rebound s t) (hr : s.inRun = false) (n f : Nat) : Rebound s (t.giveUpRun n f) := by
  have hs : ∀ u : State, Rebound s u → Rebound s (u.sendClaim n f noFit) := fun u hu => by
    unfold State.sendClaim
    rwa [if_neg (by rw [hu.inRun, hr]; decide)]
  unfold State.giveUpRun
  dsimp only
  split
  · split
    · split
      · exact hs _ (h.runs _)
      · exact h.runs _
    · exact h
  · exact h
/-- The binding tests outside RUN withdraw no claim. -/
theorem bindAll_rebound {t : State} (h : Rebound s t) (hr : s.inRun = false) : Rebound s t.bindAll := by
  have one : ∀ (u : State) (i : Nat), Rebound s u → Rebound s (u.bindBus i) := fun u i hu => by
    unfold State.bindBus
    dsimp only
    repeat' split
    all_goals first
      | exact hu
      | exact ((giveUpRun_rebound hu hr _ _).runs _).buses _
      | exact (hu.runs _).buses _
  unfold State.bindAll
  generalize t.buses.records.map (·.id) = is
  induction is generalizing t with
  | nil => exact h
  | cons i is ih => exact ih (one _ _ h)
theorem freeAfterChange_rebound (rel : Release) (s : State) : Rebound s (s.freeAfterChange rel) := by
  unfold State.freeAfterChange State.freeReleased
  repeat' split
  all_goals first
    | exact Rebound.refl s
    | exact ((Rebound.refl s).buses _).runs _
theorem freeAfterChange_judged (rel : Release) (s : State) : (s.freeAfterChange rel).bindAll = Claims.judged rel s := by
  have hoff : Run.changedAway = fun r : Run => if r.state = .mine
      then { r with state := .pending, claim := none, best := none, heardOther := false, window := none }
      else { r with ownMark := false } := by
    funext r
    unfold Run.changedAway Run.toPending
    simp only [beq_iff_eq]
  unfold State.freeAfterChange State.freeReleased Claims.judged
  rw [hoff]
  cases s.runOf rel.run with
  | none => rfl
  | some r =>
    simp only [beq_iff_eq]
    split <;> rfl

/-! ### The node after a warm restart (R204) -/

theorem restartCharger_eq (c : Charger) : s.restartCharger c = Claims.restarted s c := rfl
theorem repeatNeeds_only (ps : List (Nat × Nat)) : ∀ s : State, ∃ b, ps.foldl (fun s p => s.repeatNeed p.1 p.2) s = s.setBuses b := by
  induction ps with
  | nil => exact fun s => ⟨s.buses, rfl⟩
  | cons p ps ih =>
    intro s
    have h1 : ∃ b, s.repeatNeed p.1 p.2 = s.setBuses b := by
      unfold State.repeatNeed
      repeat' split
      all_goals first | exact ⟨s.buses, rfl⟩ | exact ⟨_, rfl⟩
    obtain ⟨b, hb⟩ := h1
    obtain ⟨b', hb'⟩ := ih (s.setBuses b)
    exact ⟨b', by rw [List.foldl_cons, hb, hb']; rfl⟩
/-- The yard and the node as a warm restart leaves them, before the release is dropped. -/
def State.rested (s : State) : State :=
  { (if s.cfg.keepYard then Claims.keptYard s else Claims.newYard s).setNode ⟨.listen, some (s.now + 30), s.node.resetLine⟩ with
    order := none, link := ⟨[], [], none, false, .waitIdle, 0⟩ }

theorem rested_eq (s : State) : (if s.cfg.keepYard then ((s.setOrder none).setLink Link.reset).keepYard
    else ((s.setOrder none).setLink Link.reset).renewYard).toListen = s.rested := by
  unfold State.rested
  cases s.cfg.keepYard
  · simp only [Bool.false_eq_true, if_false, renewYard_eq, Claims.newYard, newWash_warm]
    rfl
  · simp only [if_true, keepYard_eq]
    rfl
theorem rested_only (s : State) : ∃ l w b r, s.rested = { s with
    lanes := l, wash := w, buses := b, runs := r, node := ⟨.listen, some (s.now + 30), s.node.resetLine⟩, order := none
    link := ⟨[], [], none, false, .waitIdle, 0⟩ } := by
  unfold State.rested
  cases s.cfg.keepYard
  · simp only [Bool.false_eq_true, if_false, Claims.newYard, newWash_warm]
    exact ⟨_, _, _, _, rfl⟩
  · exact ⟨_, _, _, _, rfl⟩
theorem dropRelease_eq (s : State) : s.dropRelease = match s.departures.release with
    | some rel => Claims.judged rel s
    | none => s := by
  unfold State.dropRelease
  cases s.departures.release with
  | none => rfl
  | some rel => exact freeAfterChange_judged rel s
theorem dropRelease_rebound (h : s.inRun = false) : Rebound s s.dropRelease := by
  unfold State.dropRelease
  split
  · exact bindAll_rebound (freeAfterChange_rebound _ s) h
  · exact Rebound.refl s
/-- The blocks that a warm restart empties, the call sequence and the last exit apart (R86, R103, R131, R178). -/
def State.rebooted (s : State) : State :=
  { s with
    alloc := ⟨s.alloc.seq, .idle, [], [], none⟩
    feeders := ⟨groupMake (fun _ => ⟨.unknown, false, 0, none⟩), [], none, none⟩
    charging := ⟨s.charging.chargers.map (Claims.restarted s), [], none⟩
    departures := ⟨s.departures.lastExit, none, [], []⟩ }

/-- The node as a warm restart leaves it before the blocks begin: listening, and with nothing to draw. -/
theorem rebooted_needs (s : State) :
    s.rebooted.repeatAllNeeds.cfg = s.cfg ∧ (∀ c ∈ s.rebooted.repeatAllNeeds.charging.chargers, c.target = 0 ∧ c.planned = 0) := by
  obtain ⟨b, hb⟩ := repeatNeeds_only (s.rebooted.buses.records.filterMap Bus.berth?) s.rebooted
  unfold State.repeatAllNeeds
  rw [hb]
  refine ⟨rfl, fun c hc => ?_⟩
  obtain ⟨x, -, rfl⟩ := List.mem_map.mp hc
  exact ⟨rfl, rfl⟩
/-- What a warm restart leaves of a state beside its yard, node, link and order, before the blocks begin. -/
theorem rested_dropped (s : State) : ∃ l w b r, s.rested.dropRelease = { s with
    lanes := l, wash := w, buses := b, runs := r, node := ⟨.listen, some (s.now + 30), s.node.resetLine⟩, order := none
    link := ⟨[], [], none, false, .waitIdle, 0⟩ } := by
  obtain ⟨l, w, b, r, h⟩ := rested_only s
  obtain ⟨r', b', h'⟩ := dropRelease_rebound (s := s.rested) (by rw [h]; rfl)
  exact ⟨l, w, b', r', by rw [h', h]; rfl⟩
theorem warmRestart_blocks (s : State) :
    s.warmRestart = s.rested.dropRelease.rebooted.repeatAllNeeds.beginListen := by
  rw [← rested_eq]
  rfl
theorem warmRestart_eq (s : State) : s.warmRestart = Claims.warm s := by
  have hv : s.rested.dropRelease = match s.departures.release with
      | some rel => Claims.judged rel s.rested
      | none => s.rested := by
    obtain ⟨_, _, _, _, h⟩ := rested_only s
    exact (dropRelease_eq s.rested).trans (by rw [h])
  have hw : Claims.warm s = Claims.listening (State.repeatAllNeeds { s.rested.dropRelease with
      alloc := ⟨s.alloc.seq, .idle, [], [], none⟩
      feeders := ⟨groupMake (fun _ => ⟨.unknown, false, 0, none⟩), [], none, none⟩
      charging := ⟨s.charging.chargers.map (Claims.restarted s), [], none⟩
      departures := ⟨s.departures.lastExit, none, [], []⟩ }) := by
    rw [hv]
    rfl
  obtain ⟨l, w, b, r, h⟩ := rested_dropped s
  rw [warmRestart_blocks, beginListen_listening (rebooted_needs _).2, hw, h]
  rfl
/-- What a warm restart changes: the yard, the node, the link, and the blocks that begin anew. -/
theorem warm_only (s : State) : ∃ n li la w b r a f c, Claims.warm s = { s with
    node := n, link := li, lanes := la, wash := w, buses := b, runs := r, alloc := a, feeders := f, charging := c
    order := none, departures := ⟨s.departures.lastExit, none, [], []⟩ } := by
  obtain ⟨l, w, b, r, h⟩ := rested_dropped s
  obtain ⟨b', hb⟩ := repeatNeeds_only (s.rested.dropRelease.rebooted.buses.records.filterMap Bus.berth?) s.rested.dropRelease.rebooted
  have hu : s.rested.dropRelease.rebooted.repeatAllNeeds = s.rested.dropRelease.rebooted.setBuses b' := hb
  have hl : (s.rested.dropRelease.rebooted.setBuses b').listenOrRun = true := by
    rw [h]
    rfl
  have hs : (s.rested.dropRelease.rebooted.setBuses b').link.size ≤ 8 := by
    rw [h]
    exact Nat.zero_le 8
  obtain ⟨k, li, f, c, hk, -⟩ := beginListen_announced hl hs
  rw [← warmRestart_eq, warmRestart_blocks, hu, hk, h]
  exact ⟨_, _, _, _, _, _, _, _, _, rfl⟩

end Sys2Proof.Machine
end

section
/-! SUPPORT. The order RESTART and its answer in the send queue (R188, R209). -/

namespace Sys2Proof.Machine

open Sys2Proof

variable {s : State}

/-! ### The order RESTART and its answer (R209) -/

/-- A RESTART that is taken sits in execution while its answer is offered to the queue. -/
theorem restart_taken {sender tag : Nat} (h : Claims.ordered s sender tag) : exec (.restart sender tag []) s =
    .next ((s.frameEnded.setOrder (some ⟨sender, tag, .restart false⟩)).offerFrame ⟨.answer sender tag .done 0 [], 0, true⟩) :=
  congrArg _ (takeOrder_later h (Nat.zero_le _) (show args0 [] = some () from rfl) rfl)
theorem offerFrame_silent (f : SendFrame) (hl : s.listenOrRun = false) : s.offerFrame f = s.frameLost f := by
  unfold State.offerFrame
  rw [if_neg (Bool.eq_false_iff.mp hl)]
theorem offerFrame_room {f : SendFrame} (hl : s.listenOrRun = true) (hd : f.notice.isDraw = false) (hr : s.link.size < 16) :
    s.offerFrame f = s.setLink (s.link.push f) := by
  unfold State.offerFrame
  rw [if_pos hl, if_neg (by simp [hd]), if_pos hr]
theorem offerFrame_full {f : SendFrame} (hl : s.listenOrRun = true) (hd : f.notice.isDraw = false) (hr : 16 ≤ s.link.size) :
    s.offerFrame f = if s.link.latch then s.frameLost f
      else ((s.setLink { s.link with latch := true }).storeAlert .linkCongested f.notice.kind).frameLost f := by
  unfold State.offerFrame
  rw [if_pos hl, if_neg (by simp [hd]), if_neg (Nat.not_lt.mpr hr), State.dropOnFull]
theorem answerLeft_restart {o : Order} {left : Bool} (ho : s.order = some o) (hw : o.work = .restart left) :
    s.answerLeft = s.setOrder (some ⟨o.station, o.tag, .restart true⟩) := by
  unfold State.answerLeft
  simp only [ho, hw]
theorem head?_other {f : SendFrame} {rest : List SendFrame} {l : Link} (hs : l.sending = some .other) (ho : l.other = f :: rest) :
    l.head? = some f := by
  unfold Link.head? Link.headClass
  simp only [hs, Link.frames, ho, List.head?_cons]
theorem withdrawFrame_kept {f : SendFrame} (c : FrameClass) (hw : f.withdrawals + 1 < 16) (hd : f.notice.isDraw = false) :
    s.withdrawFrame c f = (s.setLink (s.link.keep c)).receives := by
  unfold State.withdrawFrame
  rw [if_neg (Nat.not_le.mpr hw), if_neg (by simp [hd])]
theorem withdrawFrame_dropped {f : SendFrame} (c : FrameClass) (hw : 16 ≤ f.withdrawals + 1) (hf : s.node.state ≠ .configFault) :
    s.withdrawFrame c f = (((s.setLink (s.link.drop c)).receives).frameLost f).raise .linkCongested f.notice.kind := by
  unfold State.withdrawFrame
  rw [if_pos hw]
  exact if_neg (by simpa using hf)
theorem drop_left (c : FrameClass) (r : Receiver) (l : Link) :
    { l.drop c with receiver := r, idle := 0 } = Claims.left c r l := by
  have hb : (l.latch && l.size != 16) = (l.latch && decide (l.urgent.length + l.other.length ≠ 16)) := by
    congr 1
    exact Bool.eq_iff_iff.mpr (by simp [Link.size])
  unfold Link.drop Claims.left
  rw [hb]
  cases c <;> rfl

end Sys2Proof.Machine

open Sys2Proof Sys2Proof.Machine

/-- Settles O53, by the cases of the queue that the answer meets, and by what a warm restart is (`warmRestart_eq`). -/
theorem restartOrderRestartsWarm : Obligations.RestartOrderRestartsWarm := by
  unfold Obligations.RestartOrderRestartsWarm
  intro s o sender tag
  dsimp only
  refine ⟨fun h => ⟨fun hl hr => ?_, fun hl hr => ⟨fun hlat => ?_, fun hlat => ?_⟩, fun hl => ?_⟩,
    fun n w rest ho hw hs hother hd => ⟨?_, fun hw15 => ?_, fun hw15 hnf => ?_⟩, fun ho hw => ?_, fun ho => ?_, ?_⟩
  · exact (restart_taken h).trans (congrArg _ (offerFrame_room (s := s.frameEnded.setOrder _) hl rfl hr))
  · exact (restart_taken h).trans (congrArg _ ((offerFrame_full (s := s.frameEnded.setOrder _) hl rfl hr).trans (if_pos hlat)))
  · exact (restart_taken h).trans (congrArg _ ((offerFrame_full (s := s.frameEnded.setOrder _) hl rfl hr).trans
      (if_neg (Bool.eq_false_iff.mp hlat))))
  · exact (restart_taken h).trans (congrArg _ (offerFrame_silent (s := s.frameEnded.setOrder _) _ hl))
  · have hd := drop_left .other .waitIdle s.link
    show execFrameSent s = _
    unfold execFrameSent
    simp only [hs, head?_other hs hother, State.frameLost, if_true]
    rw [answerLeft_restart (s := s.setLink (s.link.drop .other)) ho hw, ← hd]
    rfl
  · show execFrameWithdrawn s = _
    unfold execFrameWithdrawn
    simp only [hs, head?_other hs hother]
    rw [withdrawFrame_kept _ (Nat.succ_lt_succ hw15) hd]
    unfold Link.keep State.receives
    simp only [hother]
    rfl
  · have hd := drop_left .other .receiving s.link
    show execFrameWithdrawn s = _
    unfold execFrameWithdrawn
    simp only [hs, head?_other hs hother]
    rw [withdrawFrame_dropped _ (Nat.succ_le_succ hw15) hnf, State.frameLost, if_pos rfl,
      answerLeft_restart (s := State.receives (s.setLink (s.link.drop .other))) ho hw, ← hd]
    rfl
  · show execRestartAnswerLeft s = _
    unfold execRestartAnswerLeft
    simp only [ho, hw, warmRestart_eq]
  · show execRestartAnswerLeft s = _
    unfold execRestartAnswerLeft
    cases hx : s.order with
    | none => rfl
    | some x =>
      have := ho x hx
      cases hw : x.work with
      | survey => simp only [hw]
      | restart left => cases left <;> simp_all
  · obtain ⟨_, _, _, _, _, _, _, _, _, h⟩ := warm_only s
    rw [h]
    exact ⟨rfl, rfl, rfl, rfl, rfl⟩
end

section
/-! SUPPORT. The configuration image as the statements read it (R196 to R199): its check, its fields and their offsets. -/

namespace Sys2Proof.Machine

open Sys2Proof

/-! ### Why an image is bad (R198) -/

theorem imageByte_eq (image : List Byte) (off : Nat) : imageByte image off = Claims.imageByte image off := by
  unfold imageByte Claims.imageByte
  cases image[off]? <;> rfl
theorem addCarry_spec {x y : Nat} (hx : x ≤ 65535) (hy : y ≤ 65535) :
    addCarry x y ≤ 65535 ∧ addCarry x y % 65535 = (x + y) % 65535 ∧ (addCarry x y = 0 ↔ x + y = 0) := by
  unfold addCarry
  split <;> omega
/-- The end-around sum is the sum modulo 65 535, and 0 only for a sum of 0. -/
theorem foldl_addCarry (ws : List Nat) : ∀ {x : Nat}, x ≤ 65535 → (∀ w ∈ ws, w ≤ 65535) →
    ws.foldl addCarry x ≤ 65535 ∧ ws.foldl addCarry x % 65535 = (x + ws.sum) % 65535 ∧
      (ws.foldl addCarry x = 0 ↔ x + ws.sum = 0) := by
  induction ws with
  | nil => exact fun hx _ => ⟨hx, rfl, Iff.rfl⟩
  | cons w ws ih =>
    intro x hx hw
    obtain ⟨hw, hws⟩ := List.forall_mem_cons.mp hw
    obtain ⟨h1, h2, h3⟩ := addCarry_spec hx hw
    obtain ⟨k1, k2, k3⟩ := ih h1 hws
    rw [List.foldl_cons, List.sum_cons]
    refine ⟨k1, k2.trans ?_, k3.trans ?_⟩ <;> omega
theorem wordsOf_spec : ∀ bytes : List Byte, (wordsOf bytes).sum = Claims.pairSum bytes ∧ ∀ w ∈ wordsOf bytes, w ≤ 65535
  | [] => ⟨rfl, fun _ h => nomatch h⟩
  | [x] => by
    have := x.isLt
    simp only [wordsOf, Claims.pairSum, List.sum_cons, List.sum_nil, List.forall_mem_cons]
    exact ⟨by omega, by omega, fun _ h => nomatch h⟩
  | x :: y :: rest => by
    obtain ⟨hs, hw⟩ := wordsOf_spec rest
    have hx := x.isLt
    have hy := y.isLt
    simp only [wordsOf, Claims.pairSum, List.sum_cons, hs, num16, List.forall_mem_cons, true_and]
    exact ⟨by omega, hw⟩
theorem sumWords_allOnes (bytes : List Byte) :
    sumWords (wordsOf bytes) = 65535 ↔ Claims.allOnes (Claims.pairSum bytes) := by
  obtain ⟨hs, hw⟩ := wordsOf_spec bytes
  obtain ⟨h1, h2, h3⟩ := foldl_addCarry (wordsOf bytes) (Nat.zero_le _) hw
  unfold sumWords Claims.allOnes
  omega
theorem hasRepeat_iff (xs : List Nat) : hasRepeat xs = true ↔ ¬ xs.Nodup := by
  induction xs with
  | nil => simp [hasRepeat]
  | cons x xs ih => simp [hasRepeat, ih, imp_iff_not_or]
theorem badCause_eq (image : List Byte) : badCause image =
    if ¬ Claims.allOnes (Claims.pairSum ((image ++ List.replicate 512 0xFF).take 512)) then some 1
    else if Claims.imageByte image 0 = 0 ∨ 31 < Claims.imageByte image 0 then some 2
    else if ¬ ((configOf image).lanes.flatMap (·.berths)).Nodup then some 3
    else none := by
  have h1 : (sumWords (wordsOf (imageBytes image)) != 65535) = true ↔
      ¬ Claims.allOnes (Claims.pairSum ((image ++ List.replicate 512 0xFF).take 512)) := by
    rw [← sumWords_allOnes, bne_iff_ne]
    rfl
  have h2 : (!okPeer (imageByte image 0)) = true ↔ Claims.imageByte image 0 = 0 ∨ 31 < Claims.imageByte image 0 := by
    rw [imageByte_eq]
    simp [okPeer]
  unfold badCause
  simp only [h1, h2, hasRepeat_iff]

/-! ### Fields that take a range (R196, R199) -/

theorem clamp_eq {lo hi : Nat} (h : lo ≤ hi) (x : Nat) : clamp x lo hi = max lo (min hi x) := by
  unfold clamp
  split_ifs <;> omega
theorem raw_field (image : List Byte) (off bytes lo hi : Nat) :
    (Field.mk off (bytes == 2) lo hi).raw image = Claims.imageField image off bytes := by
  unfold Field.raw Claims.imageField imageWord
  simp only [imageByte_eq, beq_iff_eq]
/-- A field is noted where its value lies outside its range. -/
theorem mem_note (f : Field) (image : List Byte) (off : Nat) :
    off ∈ f.note image ↔ f.off = off ∧ (f.raw image < f.lo ∨ f.hi < f.raw image) := by
  have : (f.value image == f.raw image) = true ↔ ¬ (f.raw image < f.lo ∨ f.hi < f.raw image) := by
    rw [beq_iff_eq]
    unfold Field.value clamp
    split_ifs <;> omega
  unfold Field.note
  split
  case isTrue h => simp [this.mp h]
  case isFalse h => simp [not_not.mp (mt this.mpr h), eq_comm]
theorem mem_noteIf (b : Bool) (n off : Nat) : off ∈ noteIf b n ↔ off = n ∧ b = true := by
  unfold noteIf
  split <;> simp [*]

/-- The field of the manual's table that a range of the statements stands for. -/
def rangeField (r : Claims.Range) : Field := ⟨r.1, r.2.1 == 2, r.2.2.1, r.2.2.2.1⟩
/-- A range is not empty, and its place in the copy of an image holds the value of its field. -/
def Loads (image : List Byte) (r : Claims.Range) : Prop :=
  r.2.2.1 ≤ r.2.2.2.1 ∧ r.2.2.2.2 (configOf image) = (rangeField r).value image

theorem nodeRanges_fields : Claims.nodeRanges.map rangeField =
    [fLineRate, fLaneCount, fDayChange, fSpareReady, fFirstStandard, fLaneSettle, fOfferWindow, fTakeWait, fTransitTimeout,
      fChargerSettle, fStagger, fTurnExponent, fRampInterval, fRampStep, fReadyMargin, fClaimLead, fClaimWindow, fReleaseLead,
      fExitGap, fReleaseTimeout, fLateGrace, fShuntLead, fShuntTimeout, fShuntAttempts, fStageCount, fAdvanceTimeout] := rfl
theorem blockRanges_fields :
    Claims.blockRanges.map rangeField = (List.range 4).flatMap stageFields ++ (List.range 3).flatMap groupFields := rfl
theorem nodeRanges_load (image : List Byte) : ∀ r ∈ Claims.nodeRanges, Loads image r := by
  have hl : (configOf image).lanes.length = fLaneCount.value image := by simp [configOf]
  have hr : ∀ r ∈ Claims.nodeRanges, r.2.2.1 ≤ r.2.2.2.1 := by decide
  have hv : Claims.nodeRanges.map (fun r => r.2.2.2.2 (configOf image)) = Claims.nodeRanges.map fun r => (rangeField r).value image := by
    simp only [Claims.nodeRanges, List.map_cons, hl]
    rfl
  exact fun r hm => ⟨hr r hm, List.map_inj_left.mp hv r hm⟩
theorem blockRanges_load (image : List Byte) : ∀ r ∈ Claims.blockRanges, Loads image r := by
  have hr : ∀ r ∈ Claims.blockRanges, r.2.2.1 ≤ r.2.2.2.1 := by decide
  have hv : Claims.blockRanges.map (fun r => r.2.2.2.2 (configOf image)) = Claims.blockRanges.map fun r => (rangeField r).value image :=
    rfl
  exact fun r hm => ⟨hr r hm, List.map_inj_left.mp hv r hm⟩

/-! ### The fields of a lane and of a charger slot (R105, R196, R197) -/

theorem mapIdx_map_range {α β : Type} (f : Nat → α → β) (g : Nat → α) (n : Nat) :
    ((List.range n).map g).mapIdx f = (List.range n).map fun i => f i (g i) := by
  refine List.ext_getElem (by simp) fun i h1 h2 => ?_
  simp

theorem getElem?_map_range {α : Type} (g : Nat → α) (n i : Nat) (x : α) :
    ((List.range n).map g)[i]? = some x ↔ i < n ∧ x = g i := by
  rw [List.getElem?_eq_some_iff]
  simp [eq_comm]

/-- The ranges of the charger at position `p` of lane `i`, both counted from 0. -/
def chargerRange (i p : Nat) (c : ChargerConfig) : List Claims.Range :=
  let charger := fun (f : ChargerConfig → Nat) (n : NodeConfig) =>
    ((n.lanes[i]?).map fun x => ((x.chargers[p]?).map f).getD 0).getD 0
  let slot := 0x0B1 + 6 * (6 * i + p)
  [(slot + 1, 1, 10, 150, charger (·.pmax)), (slot + 2, 1, 5, c.pmax, charger (·.pmin)), (slot + 5, 1, 1, 7, charger (·.rank))]
/-- The ranges of lane `i`, counted from 0. -/
def laneRange (i : Nat) (l : LaneConfig) : List Claims.Range :=
  let lane := fun (f : LaneConfig → Nat) (n : NodeConfig) => ((n.lanes[i]?).map f).getD 0
  [(0x051 + 12 * i + 1, 1, 1, 6, lane (·.berths.length))] ++
  (List.range l.berths.length).map (fun p => (0x051 + 12 * i + 2 + p, 1, 1, 99, lane fun x => (x.berths[p]?).getD 0)) ++
  (l.chargers.mapIdx (chargerRange i)).flatten
/-- The fields of a charger slot. -/
def chargerFields (image : List Byte) (o : Nat) : List Field := [pmaxField o, pminField image o, rankField o]
/-- The fields of lane `i` and of its charger slots. -/
def laneFields (image : List Byte) (i : Nat) : List Field :=
  [berthCountField i] ++ berthFields image i ++ (chargerSlots image i).flatMap (chargerFields image)

theorem laneRanges_eq (c : NodeConfig) : Claims.laneRanges c = (c.lanes.mapIdx laneRange).flatten := rfl
theorem lanes_getElem? (image : List Byte) (i : Nat) (l : LaneConfig) :
    (configOf image).lanes[i]? = some l ↔ i < fLaneCount.value image ∧ l = laneConfigOf image i := getElem?_map_range _ _ _ _
theorem berths_length (image : List Byte) (i : Nat) :
    (laneConfigOf image i).berths.length = (berthCountField i).value image := by
  simp [laneConfigOf, berthFields]
/-- The chargers of a lane: one to each berth where it is charged, and none else. -/
def chargerCount (image : List Byte) (i : Nat) : Nat := if laneCharged image i then (berthCountField i).value image else 0

theorem laneBerths_eq (image : List Byte) (i : Nat) : (laneConfigOf image i).berths =
    (List.range ((berthCountField i).value image)).map fun p => (Field.mk (laneOff i + 2 + p) false 1 99).value image := by
  simp only [laneConfigOf, berthFields, List.map_map]
  rfl
theorem value_least {f : Field} (h : f.lo ≤ f.hi) (image : List Byte) : f.lo ≤ f.value image := by
  unfold Field.value
  rw [clamp_eq h]
  exact Nat.le_max_left _ _
theorem pmax_least (image : List Byte) (o : Nat) : 10 ≤ (pmaxField o).value image :=
  value_least (f := pmaxField o) (show 10 ≤ 150 by decide) image
theorem chargerSlots_eq (image : List Byte) (i : Nat) :
    chargerSlots image i = (List.range (chargerCount image i)).map (chargerOff i) := by
  unfold chargerSlots chargerCount
  split <;> rfl
theorem laneChargers_eq (image : List Byte) (i : Nat) : (laneConfigOf image i).chargers =
    (List.range (chargerCount image i)).map fun p => chargerConfigOf image (chargerOff i p) := by
  show (chargerSlots image i).map _ = _
  rw [chargerSlots_eq, List.map_map]
  rfl
theorem chargers_getElem? (image : List Byte) (i p : Nat) (c : ChargerConfig) : (laneConfigOf image i).chargers[p]? = some c ↔
    p < chargerCount image i ∧ c = chargerConfigOf image (chargerOff i p) := by
  rw [laneChargers_eq, getElem?_map_range]

theorem laneRange_fields (image : List Byte) (i : Nat) :
    (laneRange i (laneConfigOf image i)).map rangeField = laneFields image i := by
  have hc : ((laneConfigOf image i).chargers.mapIdx (chargerRange i)).flatten.map rangeField =
      (chargerSlots image i).flatMap (chargerFields image) := by
    rw [laneChargers_eq, mapIdx_map_range, chargerSlots_eq, List.map_flatten, List.map_map, List.flatMap_map, List.flatMap_def]
    rfl
  unfold laneRange laneFields berthFields
  dsimp only
  rw [List.map_append, List.map_append, hc, berths_length, List.map_map]
  rfl
theorem laneRanges_flatMap (image : List Byte) : Claims.laneRanges (configOf image) =
    (List.range (fLaneCount.value image)).flatMap fun i => laneRange i (laneConfigOf image i) := by
  rw [laneRanges_eq, List.flatMap_def]
  exact congrArg List.flatten (mapIdx_map_range _ _ _)
theorem laneRanges_fields (image : List Byte) : (Claims.laneRanges (configOf image)).map rangeField =
    (List.range (fLaneCount.value image)).flatMap (laneFields image) := by
  rw [laneRanges_flatMap, List.map_flatMap]
  simp only [laneRange_fields]
theorem laneRanges_load (image : List Byte) : ∀ r ∈ Claims.laneRanges (configOf image), Loads image r := by
  intro r hm
  obtain ⟨i, hi, hr⟩ := List.mem_flatMap.mp (laneRanges_flatMap image ▸ hm)
  have hl := (lanes_getElem? image i _).mpr ⟨List.mem_range.mp hi, rfl⟩
  simp only [laneRange, List.mem_append, List.mem_singleton, List.mem_map, List.mem_range, List.mem_flatten, List.mem_mapIdx] at hr
  rcases hr with (rfl | ⟨p, hp, rfl⟩) | ⟨rs, ⟨p, hp, rfl⟩, hr⟩
  · refine ⟨show 1 ≤ 6 by decide, ?_⟩
    dsimp only
    rw [hl]
    exact berths_length image i
  · refine ⟨show 1 ≤ 99 by decide, ?_⟩
    have hb : (laneConfigOf image i).berths[p]? = some ((Field.mk (laneOff i + 2 + p) false 1 99).value image) := by
      rw [berths_length] at hp
      rw [laneBerths_eq, getElem?_map_range]
      exact ⟨hp, rfl⟩
    dsimp only
    rw [hl, Option.map_some, Option.getD_some, hb]
    rfl
  · have hc := List.getElem?_eq_getElem hp
    have he := ((chargers_getElem? image i p _).mp hc).2
    have hv : ∀ f : ChargerConfig → Nat, (((configOf image).lanes[i]?).map fun x => ((x.chargers[p]?).map f).getD 0).getD 0
        = f (chargerConfigOf image (chargerOff i p)) := fun f => by
      rw [hl, Option.map_some, Option.getD_some, hc, Option.map_some, Option.getD_some, he]
    rw [he] at hr
    simp only [chargerRange, List.mem_cons, List.not_mem_nil, or_false] at hr
    rcases hr with rfl | rfl | rfl
    · exact ⟨show 10 ≤ 150 by decide, hv _⟩
    · exact ⟨Nat.le_trans (show 5 ≤ 10 by decide) (pmax_least image (chargerOff i p)), hv _⟩
    · exact ⟨show 1 ≤ 7 by decide, hv _⟩
/-- Every field of the manual's table that takes a range. -/
def rangeFields (image : List Byte) : List Field := (Claims.ranges (configOf image)).map rangeField

theorem ranges_load (image : List Byte) : ∀ r ∈ Claims.ranges (configOf image), Loads image r := by
  simp only [Claims.ranges, List.forall_mem_append]
  exact ⟨⟨nodeRanges_load image, blockRanges_load image⟩, laneRanges_load image⟩

end Sys2Proof.Machine
end

section
/-! SUPPORT. The copy of an image, every value clamped (R197, R199). -/

namespace Sys2Proof.Machine

open Sys2Proof

theorem setOf_eq (n : Nat) : setOf n = Claims.threeBits n := by
  unfold setOf Claims.threeBits
  simp only [beq_iff_eq]
  split <;> rfl
theorem signed8_eq (image : List Byte) : signed8 (imageByte image frostOff) = Claims.frostByte image := by
  rw [imageByte_eq]
  rfl
theorem clampInt_eq {lo hi : Int} (h : lo ≤ hi) (x : Int) : clampInt x lo hi = max lo (min hi x) := by
  unfold clampInt
  split_ifs <;> omega
theorem value_clamp {f : Field} (h : f.lo ≤ f.hi) (image : List Byte) : f.value image = max f.lo (min f.hi (f.raw image)) :=
  clamp_eq h _
theorem flagOf_eq (image : List Byte) (i : Nat) : flagOf image i = decide (Claims.imageByte image 2 / 2 ^ i % 2 = 1) := by
  unfold flagOf
  rw [imageByte_eq]
  rfl
theorem turnTickOf_eq (n : Nat) : turnTickOf n = if n = 15 ∨ n = 60 then n else if n < 38 then 15 else 60 := by
  unfold turnTickOf
  simp only [Bool.or_eq_true, beq_iff_eq]
theorem pmin_le_pmax (image : List Byte) (o : Nat) : (pminField image o).value image ≤ (pmaxField o).value image := by
  have h : (pminField image o).lo ≤ (pminField image o).hi := Nat.le_trans (show 5 ≤ 10 by decide) (pmax_least image o)
  rw [value_clamp h]
  exact Nat.max_le.mpr ⟨h, Nat.min_le_left _ _⟩
theorem chargerConfigOf_read (image : List Byte) (o : Nat) : Claims.chargerRead image o (chargerConfigOf image o) := by
  unfold Claims.chargerRead chargerConfigOf floorOf
  simp only [imageByte_eq, setOf_eq, beq_iff_eq, clamp_eq (pmin_le_pmax image o), and_self]

/-- The span taken is the greatest allowed one not above the byte, or 1 (R199). -/
theorem spanOf_spans (n : Nat) : spanOf n ∈ Claims.spans ∧ (spanOf n ≤ n ∨ spanOf n = 1) ∧
    (∀ y ∈ Claims.spans, y ≤ n → y ≤ spanOf n) := by
  simp only [Claims.spans, List.mem_cons, List.not_mem_nil, or_false]
  unfold spanOf
  split_ifs <;> simp <;> omega
theorem laneConfigOf_read (image : List Byte) (i : Nat) : Claims.laneRead image i (laneConfigOf image i) := by
  obtain ⟨hs, hle, hgreat⟩ := spanOf_spans (Claims.imageByte image (laneOff i + 10))
  have hwin : (laneConfigOf image i).window = if Claims.imageByte image (laneOff i + 9) = 255 then none
      else some (Claims.imageByte image (laneOff i + 9) / spanOf (Claims.imageByte image (laneOff i + 10))
        * spanOf (Claims.imageByte image (laneOff i + 10)), spanOf (Claims.imageByte image (laneOff i + 10))) := by
    simp only [laneConfigOf, imageByte_eq, beq_iff_eq]
  have hmul : ∀ x y : Nat, x / y * y = x - x % y := fun x y => by
    have := Nat.div_add_mod' x y
    omega
  unfold Claims.laneRead
  refine ⟨?_, ?_, fun h9 => hwin.trans (if_pos h9), fun h9 => ⟨_, hs, hle, hgreat, ?_⟩, ?_, ?_, ?_, fun p c hc => ?_⟩
  · simp only [laneConfigOf, kindOf, imageByte_eq]
    rfl
  · simp only [laneConfigOf, setOf_eq, imageByte_eq]
    rfl
  · exact (hwin.trans (if_neg h9)).trans (by rw [hmul]; rfl)
  · simp only [laneConfigOf, laneCharged, imageByte_eq]
    rfl
  · simp only [laneConfigOf, imageByte_eq]
    rfl
  · rw [laneChargers_eq, berths_length, List.length_map, List.length_range]
    rfl
  · obtain ⟨-, rfl⟩ := (chargers_getElem? image i p c).mp hc
    exact chargerConfigOf_read image _
theorem firstArtic_clamp (image : List Byte) :
    fFirstArtic.value image = max 1 (min 10000 (Claims.imageField image 0x00A 2)) := by
  rw [← raw_field image 0x00A 2 1 10000]
  exact value_clamp (f := ⟨0x00A, 2 == 2, 1, 10000⟩) (show 1 ≤ 10000 by omega) image
theorem configOf_loaded (image : List Byte) : Claims.loaded image (configOf image) := by
  unfold Claims.loaded
  refine ⟨imageByte_eq _ _, ?_, ?_, ?_, ?_, by simp [configOf], fun off bytes least greatest value hm => ?_, fun i l hl => ?_⟩
  · show [flagOf image 0, flagOf image 1, flagOf image 2, flagOf image 3, flagOf image 4, flagOf image 5, flagOf image 6] = _
    simp only [flagOf_eq]
    rfl
  · exact (Nat.max_comm _ _).trans (congrArg (max (fFirstStandard.value image)) (firstArtic_clamp image))
  · exact (turnTickOf_eq _).trans (by rw [imageByte_eq]; rfl)
  · exact (clampInt_eq (by decide) _).trans (by rw [signed8_eq])
  · obtain ⟨hle, hv⟩ := ranges_load image _ hm
    rw [← raw_field image off bytes least greatest]
    exact hv.trans (value_clamp hle image)
  · obtain ⟨-, rfl⟩ := (lanes_getElem? image i l).mp hl
    exact laneConfigOf_read image i

end Sys2Proof.Machine
end

section
/-! SUPPORT. The offsets of the clamped fields of an image (R199). -/

namespace Sys2Proof.Machine

open Sys2Proof

/-- A field of a charger slot that was clamped, beside those that take a range. -/
def slotMarked (image : List Byte) (slot : Nat) (y : ChargerConfig) (off : Nat) : Prop :=
  let x := Claims.imageByte image
  off = slot ∧ x slot % 8 = 0 ∨ off = slot + 3 ∧ x (slot + 3) ≠ y.floor ∨ off = slot + 4 ∧ x (slot + 4) % 4 = 3
/-- A field of a lane or of one of its charger slots that was clamped, beside those that take a range. -/
def laneMarked (image : List Byte) (i : Nat) (l : LaneConfig) (off : Nat) : Prop :=
  let x := Claims.imageByte image
  let lane := 0x051 + 12 * i
  off = lane ∧ (x lane = 0 ∨ 2 < x lane) ∨ off = lane + 8 ∧ x (lane + 8) % 8 = 0 ∨
    off = lane + 9 ∧ (∃ base span, l.window = some (base, span) ∧ base ≠ x (lane + 9)) ∨
    off = lane + 10 ∧ x (lane + 10) ∉ Claims.spans ∨
    ∃ p y, l.chargers[p]? = some y ∧ slotMarked image (0x0B1 + 6 * (6 * i + p)) y off

theorem mem_notes (fs : List Field) (image : List Byte) (off : Nat) :
    off ∈ fs.flatMap (fun f => f.note image) ↔ ∃ f ∈ fs, off ∈ f.note image := List.mem_flatMap
theorem mem_chargerNotes (image : List Byte) (o off : Nat) : off ∈ chargerNotes image o ↔
    (∃ f ∈ chargerFields image o, off ∈ f.note image) ∨ slotMarked image o (chargerConfigOf image o) off := by
  have hf : (chargerConfigOf image o).floor = floorOf image o := rfl
  unfold chargerNotes slotMarked chargerFields
  simp only [List.mem_append, mem_noteIf, imageByte_eq, beq_iff_eq, bne_iff_ne, hf, List.mem_cons, List.not_mem_nil, or_false,
    exists_eq_or_imp, exists_eq_left, ne_comm (a := floorOf image o)]
  have : ∀ a b c d e f : Prop, (((((a ∨ b) ∨ c) ∨ d) ∨ e) ∨ f) ↔ (b ∨ c ∨ f) ∨ a ∨ d ∨ e := by tauto
  exact this _ _ _ _ _ _
theorem spanOf_mem (n : Nat) : spanOf n = n ↔ n ∈ Claims.spans := by
  simp only [Claims.spans, List.mem_cons, List.not_mem_nil, or_false]
  unfold spanOf
  split_ifs <;> omega
theorem window_moved (image : List Byte) (i : Nat) :
    (∃ base span, (laneConfigOf image i).window = some (base, span) ∧ base ≠ Claims.imageByte image (laneOff i + 9)) ↔
      Claims.imageByte image (laneOff i + 9) ≠ 255 ∧
        Claims.imageByte image (laneOff i + 9) % spanOf (Claims.imageByte image (laneOff i + 10)) ≠ 0 := by
  generalize hb : Claims.imageByte image (laneOff i + 9) = base
  generalize hs : spanOf (Claims.imageByte image (laneOff i + 10)) = span
  have hwin : (laneConfigOf image i).window = if base = 255 then none else some (base / span * span, span) := by
    subst hb hs
    simp only [laneConfigOf, imageByte_eq, beq_iff_eq]
  have hmul : base / span * span ≠ base ↔ base % span ≠ 0 := by
    have := Nat.div_add_mod' base span
    omega
  rw [hwin, ← hmul]
  by_cases h : base = 255 <;> simp [h]
theorem mem_laneNotes (image : List Byte) (i off : Nat) : off ∈ laneNotes image i ↔
    (∃ f ∈ laneFields image i, off ∈ f.note image) ∨ laneMarked image i (laneConfigOf image i) off := by
  have hslots : (∃ o ∈ chargerSlots image i, off ∈ chargerNotes image o) ↔
      (∃ f ∈ (chargerSlots image i).flatMap (chargerFields image), off ∈ f.note image) ∨
      ∃ p y, (laneConfigOf image i).chargers[p]? = some y ∧ slotMarked image (0x0B1 + 6 * (6 * i + p)) y off := by
    simp only [mem_chargerNotes, and_or_left, exists_or, List.mem_flatMap]
    refine or_congr ⟨?_, ?_⟩ ?_
    · rintro ⟨o, ho, f, hf, hm⟩
      exact ⟨f, ⟨o, ho, hf⟩, hm⟩
    · rintro ⟨f, ⟨o, ho, hf⟩, hm⟩
      exact ⟨o, ho, f, hf, hm⟩
    · simp only [chargers_getElem?, chargerSlots_eq, List.mem_map, List.mem_range]
      constructor
      · rintro ⟨_, ⟨p, hp, rfl⟩, hm⟩
        exact ⟨p, _, ⟨hp, rfl⟩, hm⟩
      · rintro ⟨p, _, ⟨hp, rfl⟩, hm⟩
        exact ⟨_, ⟨p, hp, rfl⟩, hm⟩
  unfold laneNotes laneMarked laneFields
  dsimp only
  rw [show 0x051 + 12 * i = laneOff i from rfl, window_moved]
  simp only [List.mem_append, mem_noteIf, List.mem_flatMap, hslots, imageByte_eq, beq_iff_eq, bne_iff_ne, Bool.or_eq_true,
    Bool.and_eq_true, decide_eq_true_eq, ← spanOf_mem, ne_eq, List.mem_singleton, or_and_right, exists_or, exists_eq_left]
  have : ∀ a b c d e f g h : Prop, ((((((a ∨ b) ∨ c) ∨ d) ∨ e) ∨ f) ∨ g ∨ h) ↔ ((b ∨ c) ∨ g) ∨ a ∨ d ∨ e ∨ f ∨ h := by tauto
  exact this _ _ _ _ _ _ _ _
/-- The clamped ones among the fields that take a range. -/
theorem rangeFields_noted (image : List Byte) (off : Nat) : (∃ f ∈ rangeFields image, off ∈ f.note image) ↔
    ∃ bytes least greatest value, (off, bytes, least, greatest, value) ∈ Claims.ranges (configOf image) ∧
      (Claims.imageField image off bytes < least ∨ greatest < Claims.imageField image off bytes) := by
  unfold rangeFields
  simp only [List.mem_map, mem_note]
  constructor
  · rintro ⟨_, ⟨⟨o, bytes, least, greatest, value⟩, hm, rfl⟩, rfl, hc⟩
    rw [show (rangeField (o, bytes, least, greatest, value)).raw image = _ from raw_field image o bytes least greatest] at hc
    exact ⟨bytes, least, greatest, value, hm, hc⟩
  · rintro ⟨bytes, least, greatest, value, hm, hc⟩
    rw [← raw_field image off bytes least greatest] at hc
    exact ⟨_, ⟨_, hm, rfl⟩, rfl, hc⟩
theorem rangeFields_eq (image : List Byte) : rangeFields image = Claims.nodeRanges.map rangeField ++
    Claims.blockRanges.map rangeField ++ (List.range (fLaneCount.value image)).flatMap (laneFields image) := by
  rw [← laneRanges_fields]
  unfold rangeFields Claims.ranges
  simp only [List.map_append]
theorem ranges_or_marks (a b c d e f g h : Prop) :
    (((((a ∨ b) ∨ c) ∨ d) ∨ e ∨ f) ∨ g ∨ h) ↔ ((a ∨ e ∨ f) ∨ g) ∨ b ∨ c ∨ d ∨ h := by
  simp only [or_left_comm, or_comm]
theorem mem_clampNotes (image : List Byte) (off : Nat) :
    off ∈ clampNotes image ↔ Claims.clampedAt image (configOf image) off := by
  unfold Claims.clampedAt
  dsimp only
  rw [← rangeFields_noted, rangeFields_eq, nodeRanges_fields, blockRanges_fields]
  have hlanes : (∃ i < fLaneCount.value image, off ∈ laneNotes image i) ↔
      (∃ f ∈ (List.range (fLaneCount.value image)).flatMap (laneFields image), off ∈ f.note image) ∨
      ∃ i l, (configOf image).lanes[i]? = some l ∧ laneMarked image i l off := by
    simp only [mem_laneNotes, and_or_left, exists_or, List.mem_flatMap, List.mem_range]
    refine or_congr ⟨?_, ?_⟩ ?_
    · rintro ⟨i, hi, f, hf, hm⟩
      exact ⟨f, ⟨i, hi, hf⟩, hm⟩
    · rintro ⟨f, ⟨i, hi, hf⟩, hm⟩
      exact ⟨i, hi, f, hf, hm⟩
    · simp only [lanes_getElem?]
      constructor
      · rintro ⟨i, hi, hm⟩
        exact ⟨i, _, ⟨hi, rfl⟩, hm⟩
      · rintro ⟨i, _, ⟨hi, rfl⟩, hm⟩
        exact ⟨i, hi, hm⟩
  have hartic : (firstArticOf image != fFirstArtic.raw image) = true ↔
      Claims.imageField image 0x00A 2 ≠ (configOf image).firstArtic := by
    rw [bne_iff_ne, ← raw_field image 0x00A 2 1 10000, ne_comm]
    rfl
  have htick : (turnTickOf (imageByte image turnTickOff) != imageByte image turnTickOff) = true ↔
      Claims.imageByte image 0x012 ≠ 15 ∧ Claims.imageByte image 0x012 ≠ 60 := by
    rw [imageByte_eq, bne_iff_ne, turnTickOf_eq, turnTickOff]
    split_ifs <;> omega
  have hfrost : (clampInt (signed8 (imageByte image frostOff)) (-10) 5 != signed8 (imageByte image frostOff)) = true ↔
      Claims.frostByte image < -10 ∨ 5 < Claims.frostByte image := by
    rw [signed8_eq, bne_iff_ne]
    unfold clampInt
    split_ifs <;> omega
  unfold clampNotes
  simp only [List.mem_append, mem_noteIf, List.mem_flatMap (b := off), List.mem_range, hlanes, hartic, htick, hfrost,
    or_and_right, exists_or]
  exact ranges_or_marks _ _ _ _ _ _ _ _

end Sys2Proof.Machine
end

section
/-! SUPPORT. The configuration read, and the entry to RUN (R198 to R200, R203, R205). -/

namespace Sys2Proof.Machine

open Sys2Proof

variable {s : State}

/-! ### The lowest clamped offset (R199) -/

theorem lowestClamped_none {image : List Byte} (h : ∀ off, ¬ Claims.clampedAt image (configOf image) off) :
    lowestClamped image = none :=
  firstBy_none.mpr (List.eq_nil_iff_forall_not_mem.mpr fun off => mt (mem_clampNotes image off).mp (h off))
theorem lowestClamped_some {image : List Byte} {off : Nat} (h : Claims.clampedAt image (configOf image) off)
    (hl : ∀ y, Claims.clampedAt image (configOf image) y → off ≤ y) : lowestClamped image = some off := by
  have hm := (mem_clampNotes image off).mpr h
  cases hf : lowestClamped image with
  | none => simp [firstBy_none.mp hf] at hm
  | some y =>
    obtain ⟨hy, hleast⟩ := firstBy_some (fun x z => by simp only [decide_eq_true_eq]; omega)
      (fun x z w => by simp only [decide_eq_true_eq]; omega) hf
    have h1 := hl y ((mem_clampNotes image y).mp hy)
    have h2 := hleast off hm
    simp only [decide_eq_true_eq] at h2
    rw [Nat.le_antisymm h1 (Nat.le_of_not_lt h2)]

/-! ### A good image (R203) and a bad one (R200) -/

theorem freshChargers_new (s : State) : s.freshChargers = Claims.newChargers s.cfg := by
  unfold State.freshChargers Claims.newChargers
  rw [List.flatMap_def, zipIdx_map]
  simp only [zipIdx_map]
  rfl
theorem newChargers_idle (c : NodeConfig) : ∀ x ∈ Claims.newChargers c, x.target = 0 ∧ x.planned = 0 := by
  intro x hx
  obtain ⟨xs, hxs, hx⟩ := List.mem_flatten.mp hx
  obtain ⟨i, hi, rfl⟩ := List.mem_mapIdx.mp hxs
  obtain ⟨p, hp, rfl⟩ := List.mem_mapIdx.mp hx
  exact ⟨rfl, rfl⟩
theorem frosted_charging (frost : Bool) (clearing : Option Nat) (s : State) :
    (Claims.frosted frost clearing s).charging = s.charging := by
  unfold Claims.frosted
  split
  · obtain ⟨l, a, h⟩ := raise_only (s.setWash _) .frostHold 0
    rw [h]
    rfl
  · rfl
theorem newWash_charging (warm : Bool) (s : State) : (Claims.newWash warm s).charging = s.charging := frosted_charging _ _ _
theorem startFrom_started (image : List Byte) (s : State) : s.startFrom image = match lowestClamped image with
    | some off => (Claims.started (configOf image) s).raise .configClamped off
    | none => Claims.started (configOf image) s := by
  have hb : ∀ t : State, t.charging.chargers = Claims.newChargers (configOf image) →
      (t.freshWash false).beginListen = Claims.listening (Claims.newWash false t) := fun t ht => by
    rw [freshWash_new, beginListen_listening]
    rw [newWash_charging, ht]
    exact newChargers_idle _
  unfold State.startFrom
  dsimp only
  rw [hb _ (freshChargers_new _), freshLanes_new, freshChargers_new]
  rfl
theorem configBad_faulted (image : List Byte) (cause : Nat) (s : State) : s.configBad image cause = Claims.faulted image cause s := by
  unfold State.configBad Claims.faulted
  dsimp only
  rw [imageByte_eq, imageByte_eq]
  have h : (okPeer (Claims.imageByte image 0) && (decide (1 ≤ Claims.imageByte image 1) && decide (Claims.imageByte image 1 ≤ 3)))
      = true ↔ 1 ≤ Claims.imageByte image 0 ∧ Claims.imageByte image 0 ≤ 31 ∧ 1 ≤ Claims.imageByte image 1 ∧
        Claims.imageByte image 1 ≤ 3 := by
    simp [okPeer, and_assoc]
  simp only [h]
  split <;> rfl

/-! ### The entry to RUN (R100, R120, R205) -/

theorem lowerTo_lowered (v : Nat) (c : Charger) : c.lowerTo v = Claims.lowered v c := by
  have h : min c.present v < v ↔ c.present < v := by omega
  unfold Charger.lowerTo Claims.lowered
  simp only [h]
theorem plan_planned (plan : List Claimant) (c : Charger) : c.plan plan = Claims.planned plan c := by
  unfold Charger.plan Claims.planned
  simp only [lowerTo_lowered]
  cases plan.find? (fun x => x.charger.berth == c.berth) with
  | none => rfl
  | some x =>
    dsimp only
    split <;> rfl
theorem takeBoundary_turned (s : State) : s.takeBoundary = Claims.turned s := by
  have hg : ((s.setGrant .a (s.available .a)).setGrant .b (s.available .b)).setGrant .c (s.available .c)
      = Claims.granted s.available s := rfl
  have hstate : (Claims.granted s.available s).groupState = s.groupState := funext fun g => by cases g <;> rfl
  have hgrant : (Claims.granted s.available s).grant = s.available := funext fun g => by cases g <;> rfl
  have hclaim : (Claims.granted s.available s).claimants = s.claimants := by
    unfold State.claimants State.isClaimant State.figuresOf State.drawingGroup State.ceiling State.effectiveState
    rw [hstate]
    rfl
  have hplan : ∀ plan : List Claimant, Charger.plan plan = Claims.planned plan := fun plan => funext (plan_planned plan)
  unfold State.takeBoundary Claims.turned
  dsimp only
  rw [hg, hgrant, hclaim, hplan]
  rfl
theorem enterRun_turned (s : State) : s.enterRun = Claims.turned (Claims.running s) := takeBoundary_turned _

/-! ### The read completed (R198, R203) -/

section
variable {image : List Byte} (hr : s.node.resetLine = .released) (hs : s.node.state = .loading)
include hr hs

theorem readComplete_bad {cause : Nat} (hb : badCause image = some cause) :
    exec (.configReadComplete image) s = .next (s.configBad image cause) := by
  show execConfigReadComplete image s = _
  unfold execConfigReadComplete
  rw [if_pos (by simp [hr, hs]), hb]
theorem readComplete_good (hb : badCause image = none) : exec (.configReadComplete image) s = .next (s.startFrom image) := by
  show execConfigReadComplete image s = _
  unfold execConfigReadComplete
  rw [if_pos (by simp [hr, hs]), hb]

end

end Sys2Proof.Machine

open Sys2Proof Sys2Proof.Machine

/-- Settles O55: the copy is `configOf_loaded`, the clamped offsets `mem_clampNotes`, and the start `startFrom_started`. -/
theorem configurationReadAndListen : Obligations.ConfigurationReadAndListen := by
  unfold Obligations.ConfigurationReadAndListen
  refine ⟨fun s image h => ?_, fun image => ⟨configOf_loaded image, badCause_eq image⟩, fun s image hr =>
    ⟨fun cause hs hb => ?_, fun hs hb => ⟨fun hc => ?_, fun off hc hl => ?_⟩, fun e hs ht he => ?_⟩⟩
  · refine if_neg fun h' => ?_
    obtain ⟨hs, hr⟩ := (Bool.and_eq_true _ _).mp h'
    exact h.elim (fun h => h (by simpa using hr)) fun h => h (by simpa using hs)
  · rw [readComplete_bad hr hs hb, configBad_faulted]
  · rw [readComplete_good hr hs hb, startFrom_started, lowestClamped_none hc]
  · rw [readComplete_good hr hs hb, startFrom_started, lowestClamped_some hc hl]
  · show execListenTimerExpiry s = _
    unfold execListenTimerExpiry
    rw [if_pos (by simp [hs, ht, he, expired]), enterRun_turned]
end

section
/-! SUPPORT. The bounds of the manual through every command. The send queue stays empty in LOADING (R188, R203): a command that
is no start leaves the node and adds nothing to a silent queue, a cold start empties it, and every other start, and a station
clash, leaves LOADING. -/

namespace Sys2Proof.Machine

open Sys2Proof

variable {s t : State}

/-- In LOADING the send queue is empty (R203). -/
def State.unsent (s : State) : Prop := s.node.state = .loading → s.link.size = 0

/-- The outcome is a next state with an empty send queue if in LOADING. -/
def Unsent (o : Host.Outcome State Fault Refusal) : Prop := ∀ t, o = .next t → t.unsent

/-- The command is answered with a next state within the bounds, its send queue empty if in LOADING. -/
def Bounding (c : Instr) (s : State) : Prop := s.unsent → ∃ t, exec c s = .next t ∧ Bounds s t ∧ t.unsent

theorem unsent_next (h : t.unsent) : Unsent (.next t) := by
  rintro _ ⟨⟩
  exact h
theorem unsent_of_state {n : NodeState} (h : t.node.state = n) (hn : n ≠ .loading) : t.unsent :=
  fun hl => absurd (h.symm.trans hl) hn
theorem Calm.unsent (h : Calm s t) (hs : s.unsent) : t.unsent := fun hl => by
  have hs' : s.node.state = .loading := h.node ▸ hl
  have := h.silent (by simp [State.listenOrRun, hs'])
  have := hs hs'
  omega
theorem answers.bounding {c : Instr} (h : answers c s) : Bounding c s := fun hs => by
  obtain ⟨t, e, k⟩ := h
  exact ⟨t, e, k.toBounds, k.toCalm.unsent hs⟩
theorem bounded.bounding {c : Instr} (h : bounded c s) (hu : s.unsent → Unsent (exec c s)) : Bounding c s := fun hs => by
  obtain ⟨t, e, k⟩ := h
  exact ⟨t, e, k, hu hs t e⟩

/-! ### Starts (R200 to R205, R209) -/

theorem coldStart_unsent (s : State) : s.coldStart.unsent := fun _ => rfl
theorem startFrom_unsent (image : List Byte) (s : State) : (s.startFrom image).unsent :=
  unsent_of_state (congrArg Node.state (startFrom_keeps image s).node) nofun
theorem configBad_unsent (image : List Byte) (cause : Nat) (s : State) : (s.configBad image cause).unsent := by
  refine unsent_of_state (n := .configFault) ?_ nofun
  unfold State.configBad
  dsimp only
  split <;> rfl
theorem warmRestart_listens (s : State) : s.warmRestart.node.state = .listen := by
  unfold State.warmRestart
  dsimp only
  exact congrArg Node.state (beginListen_keeps (foldl_keeps _ (fun _ _ => repeatNeed_keeps _ _ (Keeps.refl _)) _
    (setDepartures_keeps _ (setCharging_keeps _ (setFeeders_keeps _ (setAlloc_keeps _ (dropRelease_keeps (Keeps.refl _)))))))).node
theorem warmRestart_unsent (s : State) : s.warmRestart.unsent := unsent_of_state (warmRestart_listens s) nofun

theorem resetLineAsserted_unsent (hs : s.unsent) : Unsent (execResetLineAsserted s) := by
  unfold execResetLineAsserted
  split <;> exact unsent_next hs
theorem resetHoldExpiry_unsent (hs : s.unsent) : Unsent (execResetHoldExpiry s) := by
  unfold execResetHoldExpiry
  split
  · exact unsent_next hs
  · split
    · exact unsent_next (coldStart_unsent _)
    · exact unsent_next hs
  · exact unsent_next hs
theorem resetLineReleased_unsent (hs : s.unsent) : Unsent (execResetLineReleased s) := by
  unfold execResetLineReleased
  dsimp only
  split
  · exact unsent_next hs
  · split
    · exact unsent_next (warmRestart_unsent _)
    · exact unsent_next (coldStart_unsent _)
  · exact unsent_next (coldStart_unsent _)
theorem configReadComplete_unsent (hs : s.unsent) (image : List Byte) : Unsent (execConfigReadComplete image s) := by
  unfold execConfigReadComplete
  split
  · split
    · exact unsent_next (configBad_unsent _ _ _)
    · exact unsent_next (startFrom_unsent _ _)
  · exact unsent_next hs
theorem listenTimerExpiry_unsent (hs : s.unsent) : Unsent (execListenTimerExpiry s) := by
  unfold execListenTimerExpiry
  split
  · exact unsent_next (unsent_of_state (congrArg Node.state (settle_keeps _ _ (enterRun_keeps s)).node) nofun)
  · exact unsent_next hs
theorem restartAnswerLeft_unsent (hs : s.unsent) : Unsent (execRestartAnswerLeft s) := by
  unfold execRestartAnswerLeft
  repeat' split
  · exact unsent_next (warmRestart_unsent _)
  all_goals exact unsent_next hs

/-! ### The notices that may bring a station clash (R191) -/

theorem hear_unsent (hs : s.unsent) (a : Bool) (f : State → State) (hf : ∀ v : State, v.unsent → (f v).unsent) :
    Unsent (.next (s.hear a f)) := by
  have ended : s.frameEnded.unsent := hs
  refine unsent_next ?_
  unfold State.hear
  split
  · split
    · exact hf _ ended
    · exact ended
  · exact hs
theorem enterMute_mute (s : State) : s.enterMute.node.state = .mute := by
  obtain ⟨u, f, k, -, e⟩ := enterMute_from s
  rw [e]
  exact congrArg Node.state k.node
theorem clash_unsent (hs : s.unsent) : s.clash.unsent := by
  unfold State.clash
  split
  · exact unsent_of_state ((congrArg Node.state (settle_keeps _ _ (Keeps.refl _)).node).trans (enterMute_mute s)) nofun
  · exact hs
theorem roll_bounding (a b c d e f g h i j s) : Bounding (.roll a b c d e f g h i j) s :=
  (roll_bounds _ _ _ _ _ _ _ _ _ _ s).bounding fun hs => hear_unsent hs _ _ fun v hv => by
    split
    · exact clash_unsent hv
    · split
      · exact (answerAsk_keeps _ (Keeps.refl v)).calm.unsent hv
      · exact (answerAsk_keeps _ (takeRoll_keeps _ _ _ (Keeps.refl v))).calm.unsent hv
theorem draw_bounding (a b c d e f g s) : Bounding (.draw a b c d e f g) s :=
  (draw_bounds _ _ _ _ _ _ _ s).bounding fun hs => hear_unsent hs _ _ fun v hv => by
    split
    · exact clash_unsent hv
    · split
      · exact hv
      · exact (takeDraw_keeps _ _ _ (Keeps.refl v)).calm.unsent hv

/-! ### Every command, and the step -/

/-- Every command but a frame given as its bytes keeps the bounds. -/
theorem exec_bounding_of_ne_frameRejected (c : Instr) (hc : ∀ bytes, c ≠ .frameRejected bytes) (s : State) :
    Bounding c s := by
  cases c with
  | powerOn => exact (powerOn_bounds s).bounding fun _ => unsent_next (coldStart_unsent _)
  | resetLineAsserted => exact (resetLineAsserted_bounds s).bounding resetLineAsserted_unsent
  | resetHoldExpiry => exact (resetHoldExpiry_bounds s).bounding resetHoldExpiry_unsent
  | resetLineReleased => exact (resetLineReleased_bounds s).bounding resetLineReleased_unsent
  | configReadComplete im =>
    exact fun hs => (configReadComplete_bounds im s hs).bounding (fun hs => configReadComplete_unsent hs im) hs
  | listenTimerExpiry => exact (listenTimerExpiry_bounds s).bounding listenTimerExpiry_unsent
  | laneReaderReading => exact (laneReaderReading_sound _ _ _ _ s).bounding
  | berthDetectorChange => exact (berthDetectorChange_sound _ _ _ s).bounding
  | berthSettleExpiry => exact (berthSettleExpiry_sound _ _ s).bounding
  | surveyPeriodEnd => exact (surveyPeriodEnd_sound _ s).bounding
  | entryReaderReading => exact (entryReaderReading_sound _ s).bounding
  | bypassReaderReading => exact (bypassReaderReading_sound _ s).bounding
  | stageDetectorChange => exact (stageDetectorChange_sound _ _ s).bounding
  | entryCallTimeout => exact (entryCallTimeout_sound s).bounding
  | spinupExpiry => exact (spinupExpiry_sound _ s).bounding
  | dwellExpiry => exact (dwellExpiry_sound _ s).bounding
  | runonExpiry => exact (runonExpiry_sound _ s).bounding
  | advanceTimeout => exact (advanceTimeout_sound _ s).bounding
  | stopInputAsserted => exact (stopInputAsserted_sound s).bounding
  | stopInputCleared => exact (stopInputCleared_sound s).bounding
  | temperatureReading => exact (temperatureReading_sound _ s).bounding
  | frostClearExpiry => exact (frostClearExpiry_sound s).bounding
  | callTimerExpiry => exact (callTimerExpiry_sound s).bounding
  | unplacedRetryExpiry => exact (unplacedRetryExpiry_sound _ s).bounding
  | offerWindowExpiry => exact (offerWindowExpiry_sound _ s).bounding
  | takeWaitExpiry => exact (takeWaitExpiry_sound s).bounding
  | takeWatchExpiry => exact (takeWatchExpiry_sound _ s).bounding
  | transitTimeout => exact (transitTimeout_sound _ s).bounding
  | connectionReport => exact (connectionReport_sound _ _ s).bounding
  | disconnectReport => exact (disconnectReport_sound _ s).bounding
  | faultReport => exact (faultReport_sound _ s).bounding
  | meterPulse => exact (meterPulse_sound _ s).bounding
  | chargerSettleExpiry => exact (chargerSettleExpiry_sound _ s).bounding
  | rampTimerExpiry => exact (rampTimerExpiry_sound _ s).bounding
  | turnBoundary => exact (turnBoundary_sound s).bounding
  | planHoldExpiry => exact (planHoldExpiry_sound s).bounding
  | drawTimerExpiry => exact (drawTimerExpiry_sound s).bounding
  | freshnessTimerExpiry => exact (freshnessTimerExpiry_sound _ s).bounding
  | feederInputChange => exact (feederInputChange_sound _ _ _ s).bounding
  | feederRefreshExpiry => exact (feederRefreshExpiry_sound _ s).bounding
  | claimWindowExpiry => exact (claimWindowExpiry_sound _ s).bounding
  | claimRefreshExpiry => exact (claimRefreshExpiry_sound _ s).bounding
  | claimPeriodEntry => exact (claimPeriodEntry_sound _ s).bounding
  | shuntLeadReached => exact (shuntLeadReached_sound _ s).bounding
  | shuntTimerExpiry => exact (shuntTimerExpiry_sound _ s).bounding
  | releaseLeadReached => exact (releaseLeadReached_sound _ s).bounding
  | releaseTimerExpiry => exact (releaseTimerExpiry_sound s).bounding
  | gracePassed => exact (gracePassed_sound _ s).bounding
  | exitGapHolds => exact (exitGapHolds_sound s).bounding
  | roll => exact roll_bounding _ _ _ _ _ _ _ _ _ _ s
  | draw => exact draw_bounding _ _ _ _ _ _ _ s
  | feeder => exact (feeder_sound _ _ _ _ s).bounding
  | clock => exact (clock_sound _ _ s).bounding
  | run => exact (run_sound _ _ _ _ _ _ s).bounding
  | runCancel => exact (runCancel_sound _ _ s).bounding
  | clearRuns => exact (clearRuns_sound _ s).bounding
  | parkCall => exact (parkCall_sound _ _ _ _ _ _ _ s).bounding
  | offer => exact (offer_sound _ _ _ _ s).bounding
  | take => exact (take_sound _ _ _ _ _ s).bounding
  | found => exact (found_sound _ _ _ s).bounding
  | claim => exact (claim_sound _ _ _ _ s).bounding
  | depart => exact (depart_sound _ _ _ _ s).bounding
  | late => exact (late_sound _ _ s).bounding
  | answerOrAlertHeard => exact (answerOrAlertHeard_sound _ _ _ s).bounding
  | frameRejected bytes => exact absurd rfl (hc bytes)
  | frameAbandoned => exact (frameAbandoned_sound _ s).bounding
  | frameSendStart => exact (frameSendStart_sound s).bounding
  | frameWithdrawn => exact (frameWithdrawn_sound s).bounding
  | frameSent => exact (frameSent_sound s).bounding
  | ackButtonPress => exact (ackButtonPress_sound s).bounding
  | survey => exact (survey_sound _ _ _ s).bounding
  | identify => exact (identify_sound _ _ _ s).bounding
  | laneOpen => exact (laneOpen_sound _ _ _ s).bounding
  | laneClose => exact (laneClose_sound _ _ _ s).bounding
  | laneKind => exact (laneKind_sound _ _ _ s).bounding
  | washSkip => exact (washSkip_sound _ _ _ s).bounding
  | washResume => exact (washResume_sound _ _ _ s).bounding
  | hold => exact (hold_sound _ _ _ s).bounding
  | unhold => exact (unhold_sound _ _ _ s).bounding
  | feed => exact (feed_sound _ _ _ s).bounding
  | forget => exact (forget_sound _ _ _ s).bounding
  | ack => exact (ack_sound _ _ _ s).bounding
  | report => exact (report_sound _ _ _ s).bounding
  | restart => exact (restart_sound _ _ _ s).bounding
  | restartAnswerLeft => exact (restartAnswerLeft_bounds s).bounding restartAnswerLeft_unsent
  | orderUnknownKind => exact (orderUnknownKind_sound _ _ _ _ s).bounding
  | idleOf10BitTimes => exact (idleOf10BitTimes_sound s).bounding
  | orderForAnotherStation => exact (orderForAnotherStation_sound _ _ _ _ _ s).bounding
/-- A frame given as its bytes keeps the bounds: it is the command it spells, or is discarded. -/
theorem frameRejected_bounding (bytes : List Byte) (s : State) : Bounding (.frameRejected bytes) s := by
  unfold Bounding
  cases hr : readFrame s.cfg.station bytes with
  | none =>
    rw [frameRejected_discards hr]
    exact fun hs => ⟨_, rfl, hear_bounds _ _ Bounds.refl (Bounds.refl _), hear_unsent hs _ _ (fun _ hv => hv) _ rfl⟩
  | some c =>
    obtain ⟨-, sender, kind, body, rfl⟩ := readFrame_some hr
    rw [frameRejected_reads hr]
    exact exec_bounding_of_ne_frameRejected _ (readBody_ne_frameRejected _ _ _ _) s

theorem exec_bounding (c : Instr) (s : State) : Bounding c s := by
  by_cases hc : ∃ bytes, c = .frameRejected bytes
  · obtain ⟨bytes, rfl⟩ := hc
    exact frameRejected_bounding bytes s
  · exact exec_bounding_of_ne_frameRejected c (fun bytes e => hc ⟨bytes, e⟩) s
/-- A second of the timebase keeps the bounds (R194). -/
theorem tick_bounds (s : State) : Bounds s s.tick := by
  refine setPending_bounds _ (Bounds.keeps ?_ (idleFor_keeps _ (Keeps.refl _)))
  exact ⟨id, id, fun _ => Nat.mod_lt _ (by decide), id, id, fun _ => id⟩
theorem tick_unsent (hs : s.unsent) : s.tick.unsent := by
  have k : Keeps ((s.setNow (s.now + 1)).setClock { s.clock with time := (s.clock.time + 1) % 86400 }) s.second :=
    idleFor_keeps _ (Keeps.refl _)
  exact k.calm.unsent hs
theorem step_bounding (s : State) (hs : s.unsent) : ∃ t, step s = .next t ∧ Bounds s t ∧ t.unsent := by
  unfold step
  split
  · rename_i c rest _
    obtain ⟨t, e, k, hu⟩ := exec_bounding c (s.setPending rest) hs
    exact ⟨t, e, (setPending_bounds rest (Bounds.refl s)).trans k, hu⟩
  · exact ⟨_, rfl, tick_bounds s, tick_unsent hs⟩

end Sys2Proof.Machine

open Sys2Proof Sys2Proof.Machine

/-- Settles O57: every step answers, keeps `Bounds`, and leaves the send queue empty in LOADING (`step_bounding`). -/
theorem everyStepKeepsTheBounds : Obligations.EveryStepKeepsTheBounds := by
  unfold Obligations.EveryStepKeepsTheBounds
  rintro s ⟨table, alerts, ⟨queue, unsent⟩, day, runs, fleets⟩
  obtain ⟨t, e, k, hu⟩ := step_bounding s unsent
  exact ⟨t, e, k.table fleets table, k.alerts alerts, ⟨k.queue queue, hu⟩, k.day day, k.runs runs, k.fleets fleets⟩
end

section
/-! SUPPORT. The orders HOLD and UNHOLD (R39, R164). -/

namespace Sys2Proof.Machine

open Sys2Proof

variable {s : State}

theorem releasing_iff (fleet : Nat) :
    s.releasing fleet = true ↔ ∃ rel, s.departures.release = some rel ∧ rel.fleet = fleet := by
  unfold State.releasing
  cases s.departures.release <;> simp
/-- HOLD of the bus in release withdraws the release (R164). -/
theorem holdBus_released {b : Bus} {fleet : Nat} (hb : b.isReleased = true) (hr : s.releasing fleet = true) :
    s.holdBus fleet b = (s.updateBus b.id (fun x => { x with hold := true })).failRelease .runLate false :=
  if_pos ((Bool.and_eq_true _ _).mpr ⟨hb, hr⟩)
/-- HOLD of any other bus sets the flag alone. -/
theorem holdBus_other {b : Bus} {fleet : Nat} (h : ¬ (b.isReleased = true ∧ s.releasing fleet = true)) :
    s.holdBus fleet b = s.updateBus b.id (fun x => { x with hold := true }) :=
  if_neg (mt (Bool.and_eq_true _ _).mp h)

end Sys2Proof.Machine

open Sys2Proof Sys2Proof.Machine

/-- Settles O12: each order is judged by the look-up of the fleet's record; HOLD is `holdBus_released` or `holdBus_other`. -/
theorem holdAndUnholdSetTheFlag : Obligations.HoldAndUnholdSetTheFlag := by
  unfold Obligations.HoldAndUnholdSetTheFlag
  intro s sender tag fleet ho h1 h2
  have ha := fleetArgs_be16 fleet h1 h2
  have hl : (be16 fleet).length ≤ 29 := by simp [be16]
  refine ⟨fun b hb => ⟨⟨fun ⟨hp, hr⟩ => ?_, fun hn => ?_⟩, ?_⟩, fun hb => ⟨?_, ?_⟩⟩
  · refine congrArg _ (takeOrder_plain ho hl ha ?_)
    simp only [busOf_frameEnded, hb]
    rw [holdBus_released (s := s.frameEnded) hp ((releasing_iff fleet).mpr hr)]
  · refine congrArg _ (takeOrder_plain ho hl ha ?_)
    simp only [busOf_frameEnded, hb]
    rw [holdBus_other (s := s.frameEnded) fun ⟨hp, hr⟩ => hn ⟨hp, (releasing_iff fleet).mp hr⟩]
  · exact congrArg _ (takeOrder_plain ho hl ha (by simp [hb]))
  · exact congrArg _ (takeOrder_no ho hl ha (by simp [hb]))
  · exact congrArg _ (takeOrder_no ho hl ha (by simp [hb]))
end

section
/-! SUPPORT. The deletion of a record (R34), and what ends a transit (R70, R77, R81, R82). -/

namespace Sys2Proof.Machine

open Sys2Proof

variable {s : State}

/-! ### A record deleted (R34) -/

theorem dropShunt_cleared (fleet : Nat) (s : State) : s.dropShunt fleet = match s.shuntOf fleet with
    | some o => Claims.unshunted fleet (Claims.unreserved o.target ⟨.shunt, fleet⟩ s)
    | none => s := rfl
/-- A won run whose record goes is PENDING, and withdrawn in RUN where a class is wanted (R34, R150). -/
theorem giveUpRun_mine {n fleet : Nat} {r : Run} (hr : s.runOf n = some r) (hm : r.state = .mine) :
    s.giveUpRun n fleet = if r.isWildcard ∧ s.inRun
      then (s.updateRun n (fun x => { x with state := .pending, claim := none })).send (.claim n fleet 4095)
      else s.updateRun n (fun x => { x with state := .pending, claim := none }) := by
  unfold State.giveUpRun
  rw [hr]
  dsimp only
  rw [if_pos (by simp [hm]), ite_and]
  rfl
theorem runLosesRecord_orphaned (n fleet : Nat) (s : State) : s.runLosesRecord n fleet = Claims.orphaned n fleet s := by
  unfold State.runLosesRecord Claims.orphaned
  cases hr : s.runOf n with
  | none => rfl
  | some r =>
    dsimp only
    by_cases hm : r.state = .mine
    · rw [if_pos (by simp [hm]), if_pos hm, giveUpRun_mine hr hm]
    · rw [if_neg (by simp [hm]), if_neg hm]
      simp only [beq_iff_eq]
/-- A record deleted, its place given up and its run told; that of another bus than the one in release. -/
theorem deleteBus_cleared {b : Bus} {fleet : Nat} (hb : s.buses.records.find? (fun x => x.id == b.id) = some b)
    (hf : b.fleet = some fleet) (hr : b.isReleased = true → s.releasing fleet = false) :
    s.deleteBus b.id = b.run.elim (Claims.cleared b fleet (Claims.removed b.id s))
      (fun n => Claims.orphaned n fleet (Claims.cleared b fleet (Claims.removed b.id s))) := by
  have wash : (s.removeBus b.id).leaveWash b = Claims.outOfWash b fleet (Claims.removed b.id s) := leaveWash_outOfWash hf _
  have stays : ∀ lane pos, b.place = .parked lane pos ∨ b.place = .released lane pos →
      s.removeBus b.id = Claims.outOfWash b fleet (Claims.removed b.id s) := by
    rintro lane pos (h | h) <;> (rw [Claims.outOfWash, h]; rfl)
  have told : ∀ t u : State, t = u → (match b.run with | some n => t.runLosesRecord n fleet | none => t)
      = b.run.elim u fun n => Claims.orphaned n fleet u := by
    rintro t _ rfl
    cases b.run with
    | none => rfl
    | some n => exact runLosesRecord_orphaned n fleet t
  unfold State.deleteBus Claims.cleared
  rw [hb]
  dsimp only
  rw [hf, Option.getD_some]
  refine told _ _ ?_
  cases hp : b.place with
  | queued => exact wash
  | washing k => exact wash
  | apron u r => exact wash
  | transit lane start lost take => rfl
  | parked lane pos => exact stays lane pos (.inl hp)
  | shunting lane pos => exact dropShunt_cleared fleet _
  | shuntingBetween => exact dropShunt_cleared fleet _
  | released lane pos =>
    have hn : (s.removeBus b.id).releasing fleet = false := hr (by simp [Bus.isReleased, hp])
    simp only [hn, Bool.false_eq_true, if_false]
    exact stays lane pos (.inr hp)

/-! ### FOUND heard (R70, R82) -/

theorem heardFrom_peer {sender : Nat} (h : Claims.heardFrom s sender) : s.takesFrame = true ∧ s.peer sender = true := by
  obtain ⟨hh, h1, h2⟩ := h
  exact ⟨takesFrame_of_hearing hh, by simp [State.peer, okStation, State.fromPeer, h1, h2]⟩
theorem exec_found {sender fleet number : Nat} (h : Claims.heardFrom s sender) (h1 : 1 ≤ fleet) (h2 : fleet ≤ 9999)
    (h3 : 1 ≤ number) (h4 : number ≤ 8) {t : State} (ht : s.frameEnded.foundElsewhere fleet = t) :
    exec (.found sender fleet number) s = .next (t.settle s.frameEnded []) := by
  obtain ⟨hh, hp⟩ := heardFrom_peer h
  subst ht
  exact congrArg Host.Outcome.next (hear_accepted hh (by simp [hp, okFleet, okLane, h1, h2, h3, h4]))
theorem apron_not_transit {b : Bus} (h : b.isApron = true) : b.isTransit = false := by
  unfold Bus.isApron at h
  unfold Bus.isTransit
  split at h
  · simp [*]
  · cases h
/-- The bus that is called for ends its call. -/
theorem foundElsewhere_called {b : Bus} {fleet : Nat} (hb : s.busOf fleet = some b) (ha : b.isApron = true)
    (hc : s.callingFor fleet = true) : s.foundElsewhere fleet = s.endCall.deleteBus b.id := by
  unfold State.foundElsewhere
  rw [hb]
  simp [apron_not_transit ha, ha, hc]
theorem foundElsewhere_uncalled {b : Bus} {fleet : Nat} (hb : s.busOf fleet = some b)
    (hp : b.isApron = true ∨ b.isTransit = true) (hc : ¬ (b.isApron = true ∧ s.callingFor fleet = true)) :
    s.foundElsewhere fleet = s.deleteBus b.id := by
  unfold State.foundElsewhere
  rw [hb]
  dsimp only
  split
  · rfl
  · have ha : b.isApron = true := by tauto
    rw [if_pos ha, if_neg fun h => hc ⟨ha, h⟩]
theorem foundElsewhere_other {b : Bus} {fleet : Nat} (hb : s.busOf fleet = some b) (ht : b.isTransit = false)
    (ha : b.isApron = false) : s.foundElsewhere fleet = s := by
  unfold State.foundElsewhere
  rw [hb]
  simp [ht, ha]

/-! ### The timers of a transit (R77, R81) -/

theorem expired_not (now : Nat) (watch : Option Nat) :
    (!expired now watch) = (match watch with | some e => decide (now < e) | none => true) := by
  cases watch with
  | none => rfl
  | some e => simp [expired, ← decide_not]

@[simp] theorem busOf_setAlloc (x : Allocator) (n : Nat) : (s.setAlloc x).busOf n = s.busOf n := rfl
theorem exec_takeWatchExpiry {b : Bus} {fleet lane start : Nat} {lost : Bool} {take : SentTake} (hb : s.busOf fleet = some b)
    (hp : b.place = .transit lane start lost (some take)) (hx : expired s.now take.watch = true) :
    exec (.takeWatchExpiry fleet) s = .next ((s.setAlloc { s.alloc with
      arrived := s.alloc.arrived.filter (fun a => a.fleet != fleet || !expired s.now a.sent.watch) }).setPlace b.id
        (.transit lane start lost (some { take with watch := none }))) := by
  show execTakeWatchExpiry fleet s = _
  unfold execTakeWatchExpiry
  simp only [busOf_setAlloc, hb, hp, State.setAlloc_now, hx, if_true]

end Sys2Proof.Machine

open Sys2Proof Sys2Proof.Machine

/-- Settles O26: a record deleted is `deleteBus_cleared`, and a FOUND one of the cases of `State.foundElsewhere`. -/
theorem transitEndsByTimeoutOrFound : Obligations.TransitEndsByTimeoutOrFound := by
  unfold Obligations.TransitEndsByTimeoutOrFound
  refine ⟨fun s b fleet hb hf hr => ?_, fun s b fleet hb => ⟨fun lane start lost take e hp hw he => ?_,
    fun lane start lost take hp ha he => ?_, fun sender number hh h1 h2 h3 h4 => ⟨?_, fun hc hp => ?_, fun ht ha => ?_⟩⟩⟩
  · have hd := deleteBus_cleared hb hf fun h => Bool.eq_false_iff.mpr fun hrel => by
      obtain ⟨rel, he, hfl⟩ := (releasing_iff fleet).mp hrel
      exact hr h rel he hfl
    exact ⟨fun h => by rw [hd, h]; rfl, fun n h => by rw [hd, h]; rfl⟩
  · have hx : expired s.now take.watch = true := by simpa [expired, hw] using he
    have watches : (fun a : ArrivedTake => a.fleet != fleet || !expired s.now a.sent.watch) = fun a => a.fleet != fleet ||
        (match a.sent.watch with | some e => decide (s.now < e) | none => true) := funext fun a => by rw [expired_not]
    rw [exec_takeWatchExpiry hb hp hx, watches]
    rfl
  · show execTransitTimeout fleet s = _
    unfold execTransitTimeout
    rw [ha, hb]
    exact if_pos (by simp [State.transitExpired, hp, he])
  · rintro ⟨ha, hc⟩
    exact exec_found hh h1 h2 h3 h4 (foundElsewhere_called (s := s.frameEnded) hb ha ((callingFor_iff fleet).mpr hc))
  · exact exec_found hh h1 h2 h3 h4 (foundElsewhere_uncalled (s := s.frameEnded) hb hp fun ⟨ha, hcall⟩ =>
      hc ⟨ha, (callingFor_iff fleet).mp hcall⟩)
  · exact exec_found hh h1 h2 h3 h4 (foundElsewhere_other (s := s.frameEnded) hb ht ha)
end

section
/-! SUPPORT. A release that ends without a departure: what the record, the run and the demand that a RUN has changed meanwhile
come to (R34, R137, R162, R164, R167). -/

namespace Sys2Proof.Machine

open Sys2Proof

variable {s t : State}

/-! ### Records and runs after a change -/

theorem send_runs (n : Notice) (s : State) : (s.send n).runs = s.runs := by
  obtain ⟨l, a, e⟩ := send_only s n
  rw [e]
  rfl
theorem send_buses (n : Notice) (s : State) : (s.send n).buses = s.buses := by
  obtain ⟨l, a, e⟩ := send_only s n
  rw [e]
  rfl
theorem raise_runs (c : AlertCode) (n : Nat) (s : State) : (s.raise c n).runs = s.runs := send_runs _ _
theorem raise_buses (c : AlertCode) (n : Nat) (s : State) : (s.raise c n).buses = s.buses := send_buses _ _
theorem repeatNeed_runs (n p : Nat) (s : State) : (s.repeatNeed n p).runs = s.runs := by
  unfold State.repeatNeed
  repeat' split
  all_goals rfl
theorem runOf_number {n : Nat} {r : Run} (h : s.runOf n = some r) : r.run = n := by simpa using List.find?_some h
theorem runOf_congr (h : t.runs = s.runs) (n : Nat) : t.runOf n = s.runOf n :=
  congrArg (fun x : RunList => x.runs.find? _) h
theorem busOf_congr (h : t.buses = s.buses) (n : Nat) : t.busOf n = s.busOf n :=
  congrArg (fun x : BusTable => x.records.find? _) h
/-- With run numbers distinct, the record found is the only one of its number. -/
theorem run_unique (hd : (s.runs.runs.map (·.run)).Nodup) {n : Nat} {r : Run} (hr : s.runOf n = some r) {x : Run}
    (hx : x ∈ s.runs.runs) (hn : x.run = n) : x = r :=
  List.inj_on_of_nodup_map hd hx (List.mem_of_find?_eq_some hr) (hn.trans (runOf_number hr).symm)
theorem updateRun_congr {n : Nat} {f g : Run → Run} (h : ∀ x ∈ s.runs.runs, x.run = n → f x = g x) :
    s.updateRun n f = s.updateRun n g := by
  have : s.runs.runs.map (fun x => if x.run == n then f x else x)
      = s.runs.runs.map (fun x => if x.run == n then g x else x) :=
    List.map_congr_left fun x hx => by
      split
      · exact h x hx (by simpa using ‹(x.run == n) = true›)
      · rfl
  exact congrArg (fun rs => s.setRuns { s.runs with runs := rs }) this
theorem busOf_updateBus (i : Nat) {f : Bus → Bus} (hf : ∀ x, (f x).fleet = x.fleet) (n : Nat) :
    (s.updateBus i f).busOf n = (s.busOf n).map (fun x => if x.id == i then f x else x) := by
  have hp : (fun x : Bus => x.fleet == some n) ∘ (fun x => if x.id == i then f x else x) = fun x => x.fleet == some n := by
    funext x
    simp only [Function.comp_apply]
    split <;> simp [hf]
  show (s.buses.records.map _).find? _ = _
  rw [List.find?_map, hp]
  rfl
/-- A charger's report changes a record in its need alone. -/
theorem repeatNeed_busOf (n p : Nat) {fleet : Nat} {b : Bus} (h : s.busOf fleet = some b) :
    ∃ c, (s.repeatNeed n p).busOf fleet = some c ∧ c.id = b.id ∧ c.run = b.run := by
  have given : ∀ i m, ∃ c, (s.setNeed i m).busOf fleet = some c ∧ c.id = b.id ∧ c.run = b.run := fun i m => by
    refine ⟨_, (busOf_updateBus i (f := fun x => { x with need := some m }) (fun _ => rfl) fleet).trans (by rw [h]; rfl), ?_⟩
    dsimp only
    split <;> exact ⟨rfl, rfl⟩
  unfold State.repeatNeed
  repeat' split
  · exact ⟨b, h, rfl, rfl⟩
  · exact given _ _
  · exact ⟨b, h, rfl, rfl⟩
  · exact ⟨b, h, rfl, rfl⟩

/-! ### The run made LATE (R162, R164, R167) -/

theorem lateAfter_lateFor (alert : AlertCode) (again : Bool) {r : Run} {n : Nat} (hr : s.runOf n = some r) :
    s.lateAfter alert again n = Claims.lateFor alert again r s := by
  obtain rfl := runOf_number hr
  unfold State.lateAfter Claims.lateFor
  rw [hr]
  simp only [Bool.or_eq_true, Bool.and_eq_true, beq_iff_eq]
  rfl
theorem lateFor_buses (alert : AlertCode) (again : Bool) (r : Run) (s : State) :
    (Claims.lateFor alert again r s).buses = s.buses := by
  unfold Claims.lateFor
  repeat' split
  · exact (raise_buses _ _ _).trans (send_buses _ _)
  · exact raise_buses _ _ _
  · rfl
/-- A run as it is made LATE at its own node (R167). -/
def Run.madeLate (r : Run) : Run := { r with state := .late, ownMark := true, claim := none }
theorem lateFor_runs (alert : AlertCode) (again : Bool) (r : Run) (s : State) : (Claims.lateFor alert again r s).runs
    = if r.state = .mine ∨ (again = true ∧ r.state = .late)
      then (s.updateRun r.run Run.madeLate).runs else s.runs := by
  unfold Claims.lateFor
  split
  · exact (raise_runs _ _ _).trans (send_runs _ _)
  · split
    · exact raise_runs _ _ _
    · rfl
/-- The run of an ended release is LATE, and wants what it wanted before. -/
theorem lateFor_late (alert : AlertCode) (again : Bool) {r : Run} {n : Nat} (hr : s.runOf n = some r)
    (hs : r.state = .mine ∨ r.state = .late) (hd : (s.runs.runs.map (·.run)).Nodup) :
    (∃ x, (Claims.lateFor alert again r s).runOf n = some x ∧ x.demand = r.demand) ∧
      ∀ x ∈ (Claims.lateFor alert again r s).runs.runs, x.run = n → x.state = .late := by
  have hn := runOf_number hr
  by_cases hc : r.state = .mine ∨ (again = true ∧ r.state = .late)
  · have he := (lateFor_runs alert again r s).trans (if_pos hc)
    refine ⟨⟨r.madeLate, (runOf_congr he n).trans ?_, rfl⟩, fun x hx hxn => ?_⟩
    · rw [hn, runOf_updateRun _ _ Run.madeLate fun _ => rfl, hr]
      rfl
    · rw [he] at hx
      obtain ⟨y, -, rfl⟩ := List.mem_map.mp hx
      by_cases hy : (y.run == r.run) = true
      · rw [if_pos hy]
        rfl
      · rw [if_neg hy] at hxn
        exact absurd (by simpa [hn] using hxn) hy
  · have he := (lateFor_runs alert again r s).trans (if_neg hc)
    refine ⟨⟨r, (runOf_congr he n).trans hr, rfl⟩, fun x hx hxn => ?_⟩
    obtain rfl := run_unique hd hr (he ▸ hx) hxn
    exact hs.resolve_left fun h => hc (.inl h)

/-! ### A demand that a RUN has changed (R137, R164) -/

/-- A run whose own mark is cleared (R137, R167). -/
def Run.unmarked (r : Run) : Run := { r with ownMark := false }
theorem freeAfterChange_same {rel : Release} {x : Run} (hx : s.runOf rel.run = some x) (hd : x.demand = rel.demand) :
    s.freeAfterChange rel = s := by
  unfold State.freeAfterChange
  rw [hx]
  exact if_pos (by simp [hd])
/-- A LATE run whose demand was changed lets its record go, and loses the own mark. -/
theorem freeAfterChange_late {rel : Release} {x : Run} (hx : s.runOf rel.run = some x) (hd : x.demand ≠ rel.demand)
    (hl : ∀ y ∈ s.runs.runs, y.run = rel.run → y.state = .late) :
    s.freeAfterChange rel = (s.freeReleased rel).updateRun rel.run Run.unmarked := by
  have hr : (s.freeReleased rel).runs = s.runs := by
    unfold State.freeReleased
    repeat' split
    all_goals rfl
  unfold State.freeAfterChange
  rw [hx]
  refine (if_neg (by simp [hd])).trans (updateRun_congr fun y hy hn => ?_)
  rw [hr] at hy
  simp [Run.changedAway, Run.unmarked, hl y hy hn]
theorem freeReleased_bound {rel : Release} {b : Bus} (hb : s.busOf rel.fleet = some b) (hr : b.run = some rel.run) :
    s.freeReleased rel = s.updateBus b.id (fun x => { x with run := none, pullOut := none, route := none }) := by
  unfold State.freeReleased
  rw [hb]
  exact if_pos (by simp [hr])
theorem freeReleased_gone {rel : Release} (hb : s.busOf rel.fleet = none) : s.freeReleased rel = s := by
  unfold State.freeReleased
  rw [hb]

/-! ### The release ended (R162, R164) -/

@[simp] theorem busOf_setDepartures (x : Departures) (n : Nat) : (s.setDepartures x).busOf n = s.busOf n := rfl
theorem endRelease_standing {rel : Release} {b : Bus} {lane pos : Nat} (hr : s.departures.release = some rel)
    (hb : s.busOf rel.fleet = some b) (hp : b.place = .released lane pos) : s.endRelease =
      ((s.setDepartures { s.departures with release := none }).updateBus b.id
        (fun x => { x with place := .parked lane pos })).repeatNeed lane pos := by
  unfold State.endRelease
  rw [hr]
  dsimp only
  simp only [busOf_setDepartures, hb, hp]
  rfl
theorem endRelease_gone {rel : Release} (hr : s.departures.release = some rel) (hb : s.busOf rel.fleet = none) :
    s.endRelease = s.setDepartures { s.departures with release := none } := by
  unfold State.endRelease
  rw [hr]
  dsimp only
  simp only [busOf_setDepartures, hb]
/-- A release that fails: it ends, its run is made LATE, and a changed demand frees the record. -/
theorem failRelease_late (alert : AlertCode) (again : Bool) {rel : Release} {r : Run} (h : s.departures.release = some rel)
    (hr : s.endRelease.runOf rel.run = some r) :
    s.failRelease alert again = (Claims.lateFor alert again r s.endRelease).freeAfterChange rel := by
  unfold State.failRelease
  rw [h]
  dsimp only
  rw [lateAfter_lateFor _ _ hr]
theorem endRelease_runs {rel : Release} {b : Bus} {lane pos : Nat} (hr : s.departures.release = some rel)
    (hb : s.busOf rel.fleet = some b) (hp : b.place = .released lane pos) : s.endRelease.runs = s.runs := by
  rw [endRelease_standing hr hb hp, repeatNeed_runs]
  rfl
theorem endRelease_busOf {rel : Release} {b : Bus} {lane pos : Nat} (hr : s.departures.release = some rel)
    (hb : s.busOf rel.fleet = some b) (hp : b.place = .released lane pos) :
    ∃ c, s.endRelease.busOf rel.fleet = some c ∧ c.id = b.id ∧ c.run = b.run := by
  rw [endRelease_standing hr hb hp]
  refine repeatNeed_busOf lane pos (b := { b with place := .parked lane pos }) ?_
  rw [busOf_updateBus _ (f := fun x => { x with place := .parked lane pos }) fun _ => rfl, busOf_setDepartures, hb]
  simp

/-! ### The record deleted (R34, R164) -/

/-- With fleets distinct, a record taken out leaves none of its fleet. -/
theorem busOf_removed {fleet : Nat} {b : Bus} (hf : (s.buses.records.filterMap (·.fleet)).Nodup)
    (hb : s.busOf fleet = some b) :
    (Claims.removed b.id s).busOf fleet = none := by
  refine List.find?_eq_none.mpr fun x hx hxf => ?_
  obtain ⟨hmem, hid⟩ := List.mem_filter.mp hx
  obtain rfl := eq_of_nodup_filterMap hf hmem (busOf_mem hb) (by simpa using hxf) (busOf_fleet hb)
  simp at hid
/-- The bus in release deleted: its release fails as for a survey, and its run is told. -/
theorem deleteBus_releasing {b : Bus} {fleet lane pos n : Nat} (hb : s.buses.records.find? (fun x => x.id == b.id) = some b)
    (hf : b.fleet = some fleet) (hp : b.place = .released lane pos) (hr : s.releasing fleet = true) (hn : b.run = some n) :
    s.deleteBus b.id = Claims.orphaned n fleet ((Claims.removed b.id s).failRelease .runLate true) := by
  have hr' : (s.removeBus b.id).releasing fleet = true := hr
  unfold State.deleteBus
  rw [hb]
  simp only [hf, hp, hn, Option.getD_some, hr', if_true, runLosesRecord_orphaned]
  rfl
theorem orphaned_late {n fleet : Nat} {r : Run} (hr : s.runOf n = some r) (hl : r.state = .late) :
    Claims.orphaned n fleet s = s.updateRun n Run.unmarked := by
  unfold Claims.orphaned
  simp only [hr, hl]
  rfl
theorem updateRun_updateRun (n : Nat) {f : Run → Run} (hf : ∀ x, f (f x) = f x) :
    (s.updateRun n f).updateRun n f = s.updateRun n f := by
  have : (s.runs.runs.map (fun x => if x.run == n then f x else x)).map (fun x => if x.run == n then f x else x)
      = s.runs.runs.map (fun x => if x.run == n then f x else x) := by
    rw [List.map_map]
    refine List.map_congr_left fun x _ => ?_
    simp only [Function.comp_apply]
    split
    · rw [hf, ite_self]
    · rfl
  exact congrArg (fun rs => s.setRuns { s.runs with runs := rs }) this
/-- A failed release without a record leaves its run LATE, its own mark gone with the record. -/
theorem failRelease_gone (alert : AlertCode) (again : Bool) {rel : Release} {r : Run}
    (hrel : s.departures.release = some rel) (gone : s.busOf rel.fleet = none) (hr : s.runOf rel.run = some r) (hs : r.state = .mine ∨ r.state = .late)
    (hd : (s.runs.runs.map (·.run)).Nodup) (fleet : Nat) : Claims.orphaned rel.run fleet (s.failRelease alert again) =
      (Claims.lateFor alert again r (s.setDepartures { s.departures with release := none })).updateRun rel.run Run.unmarked := by
  have ended := endRelease_gone hrel gone
  rw [failRelease_late alert again hrel (by rw [ended]; exact hr), ended]
  obtain ⟨⟨x, hx, hxd⟩, late⟩ := lateFor_late alert again
    (s := s.setDepartures { s.departures with release := none }) hr hs hd
  have hl := late x (List.mem_of_find?_eq_some hx) (runOf_number hx)
  have unseen :
      (Claims.lateFor alert again r (s.setDepartures { s.departures with release := none })).busOf rel.fleet = none := (busOf_congr (lateFor_buses _ _ _ _) _).trans gone
  by_cases hsame : r.demand = rel.demand
  · rw [freeAfterChange_same hx (hxd.trans hsame), orphaned_late hx hl]
  · rw [freeAfterChange_late hx (hxd ▸ hsame) late, freeReleased_gone unseen,
      orphaned_late (r := x.unmarked) ?_ hl, updateRun_updateRun _ (f := Run.unmarked) fun _ => rfl]
    rw [runOf_updateRun _ _ Run.unmarked fun _ => rfl, hx]
    rfl

end Sys2Proof.Machine

open Sys2Proof Sys2Proof.Machine

/-- Settles O43: the release is ended by `endRelease_standing`, its run made LATE by `lateFor_late`, a changed demand freed by
`freeAfterChange_late`; with the record deleted, there is none to return or to free. -/
theorem releasesEndWithoutADeparture : Obligations.ReleasesEndWithoutADeparture := by
  unfold Obligations.ReleasesEndWithoutADeparture
  intro s rel b r lane pos hrel hb hp hbr hr hs hd
  dsimp only
  rw [← endRelease_standing hrel hb hp]
  refine ⟨rfl, fun alert again => ?_, fun hi hf => ?_⟩
  · have hruns := endRelease_runs hrel hb hp
    have hr' : s.endRelease.runOf rel.run = some r := (runOf_congr hruns _).trans hr
    obtain ⟨⟨x, hx, hxd⟩, late⟩ := lateFor_late alert again hr' hs (by rwa [hruns])
    obtain ⟨c, hc, hid, hrun⟩ := endRelease_busOf hrel hb hp
    rw [failRelease_late alert again hrel hr']
    refine ⟨fun hsame => freeAfterChange_same hx (hxd.trans hsame), fun hdiff => ?_⟩
    rw [freeAfterChange_late hx (hxd ▸ hdiff) late,
      freeReleased_bound ((busOf_congr (lateFor_buses _ _ _ _) _).trans hc) (hrun.trans hbr), hid]
    rfl
  · rw [deleteBus_releasing (find?_id hi (busOf_mem hb)) (busOf_fleet hb) hp ((releasing_iff _).mpr ⟨rel, hrel, rfl⟩) hbr]
    exact failRelease_gone (s := Claims.removed b.id s) .runLate true hrel (busOf_removed hf hb) hr hs hd rel.fleet
end

section
/-! SUPPORT. Spares, claims and their withdrawal (R37, R142 to R146, R150, R157). -/

namespace Sys2Proof.Machine

open Sys2Proof

variable {s : State}

/-! ### Eligible spares (R143) -/

theorem isParked_iff (b : Bus) : b.isParked = true ↔ ∃ lane pos, b.place = .parked lane pos := by
  unfold Bus.isParked
  cases b.place <;> simp
theorem spareFor_iff (b : Bus) (k : BusClass) : b.spareFor k = true ↔ Claims.spare b k := by
  simp [Bus.spareFor, Claims.spare, isParked_iff, Bus.isPlaceholder, Option.isSome_iff_ne_none, and_assoc]
theorem promisedBus_iff (b : Bus) : s.promisedBus b = true ↔
    ∃ q ∈ s.runs.runs, q.state = .claiming ∧ ∃ c, q.claim = some c ∧ b.fleet = some c.fleet := by
  have own : ∀ q : Run, (match q.claim with | some c => b.fleet == some c.fleet | none => false) = true ↔
      ∃ c, q.claim = some c ∧ b.fleet = some c.fleet := fun q => by
    cases q.claim <;> simp
  simp only [State.promisedBus, List.any_eq_true, Bool.and_eq_true, beq_iff_eq]
  exact exists_congr fun q => and_congr_right fun _ => and_congr_right fun _ => own q
theorem eligibleSpare_iff {r : Run} {k : BusClass} (hd : r.demand = .ofClass k) (b : Bus) :
    b ∈ s.buses.records ∧ s.eligibleSpare r b = true ↔ Claims.eligible s b k := by
  have free : ¬ s.promisedBus b = true ↔
      ∀ q ∈ s.runs.runs, q.state = .claiming → ∀ c, q.claim = some c → b.fleet ≠ some c.fleet := by
    rw [promisedBus_iff]
    push Not
    rfl
  unfold State.eligibleSpare Claims.eligible
  rw [hd, ← free, ← spareFor_iff]
  simp
/-- The eligible spares of a run are those of the class it wants; a run that names a fleet has none. -/
theorem eligibleSpare_exists (r : Run) (b : Bus) :
    b ∈ s.buses.records ∧ s.eligibleSpare r b = true ↔ ∃ k, r.demand = .ofClass k ∧ Claims.eligible s b k := by
  cases hd : r.demand with
  | ofClass k => simp [eligibleSpare_iff hd]
  | fleet f => simp [State.eligibleSpare, hd]

/-! ### The best spare and its cost (R37, R144, R157) -/

theorem mem_spares {r : Run} {k : BusClass} (hd : r.demand = .ofClass k) (p : Nat × Nat) :
    p ∈ (s.buses.records.filter (s.eligibleSpare r)).map (fun b => (s.spareCost r b, b.fleet.getD 0)) ↔
      ∃ b, Claims.eligible s b k ∧ b.fleet = some p.2 ∧ s.spareCost r b = p.1 := by
  rw [List.mem_map]
  refine exists_congr fun b => ?_
  rw [List.mem_filter, eligibleSpare_iff hd]
  refine and_congr_right fun he => ?_
  obtain ⟨f, hf⟩ := Option.ne_none_iff_exists'.mp he.2.1.2.1
  simp [hf, Prod.ext_iff, and_comm]
theorem bestSpare_none {r : Run} {k : BusClass} (hd : r.demand = .ofClass k) :
    s.bestSpare r = none ↔ ∀ b, ¬ Claims.eligible s b k := by
  unfold State.bestSpare
  rw [firstBy_none, List.map_eq_nil_iff, List.filter_eq_nil_iff]
  exact forall_congr' fun b => by rw [← eligibleSpare_iff hd, not_and]
theorem bestSpare_some {r : Run} {k : BusClass} (hd : r.demand = .ofClass k) {cost fleet : Nat}
    (h : s.bestSpare r = some (cost, fleet)) :
    (∃ b, Claims.eligible s b k ∧ b.fleet = some fleet ∧ s.spareCost r b = cost) ∧
    (∀ b f, Claims.eligible s b k → b.fleet = some f → cost < s.spareCost r b ∨ cost = s.spareCost r b ∧ fleet ≤ f) := by
  obtain ⟨hmem, hleast⟩ := firstBy_betterPair h
  exact ⟨(mem_spares hd _).mp hmem, fun b f he hf => hleast (_, f) ((mem_spares hd _).mpr ⟨b, he, hf, rfl⟩)⟩
theorem blockers_eq (lane pos v : Nat) : s.blockers lane pos v = Claims.blockers s lane pos v := by
  unfold State.blockers Claims.blockers
  refine List.filter_congr fun x _ => ?_
  unfold Bus.berth?
  dsimp only
  cases x.place <;> simp [← Option.beq_none]
theorem readyFor_iff (b : Bus) (allowance : Nat) : b.readyFor allowance = true ↔ Claims.ready b allowance := by
  unfold Bus.readyFor Claims.ready
  cases b.need <;> simp
theorem spareCost_ready {b : Bus} {r : Run} {lane pos : Nat} (hp : b.place = .parked lane pos)
    (hr : Claims.ready b r.allowance) :
    s.spareCost r b = (Claims.blockers s lane pos (s.service r.pullOut)).length * 100 := by
  have := (readyFor_iff b r.allowance).mpr hr
  simp [State.spareCost, Bus.berth?, hp, this, blockers_eq]
theorem spareCost_short {b : Bus} {r : Run} {lane pos : Nat} (hp : b.place = .parked lane pos)
    (hr : ¬ Claims.ready b r.allowance) : s.spareCost r b = 1000 + (Claims.blockers s lane pos (s.service r.pullOut)).length * 100 +
      min ((b.need.getD 6000 - r.allowance + 9) / 10) 99 := by
  have := mt (readyFor_iff b r.allowance).mp hr
  simp [State.spareCost, Bus.berth?, hp, this, blockers_eq, Bus.shortfall, ceilDiv]

/-! ### Claim tests (R142, R145, R146) -/

theorem inClaimPeriod_iff (r : Run) : s.inClaimPeriod r = true ↔ s.cfg.wildcard = true ∧ s.clock.isSet = true ∧
    r.isWildcard = true ∧ -((s.cfg.lateGrace * 60 : Nat) : Int) < timeToGo s.clock.time (r.pullOut * 60) ∧
    timeToGo s.clock.time (r.pullOut * 60) ≤ (s.cfg.claimLead * 60 : Nat) := by
  simp [State.inClaimPeriod, State.runTimeToGo, and_assoc]
theorem claimPlaced_iff (r : Run) : s.claimPlaced r = true ↔ Claims.waiting s r := by
  simp [State.claimPlaced, Claims.waiting]
section
variable {r : Run} {cost fleet : Nat} (hr : s.runOf r.run = some r) (hi : s.inRun = true) (hp : s.inClaimPeriod r = true)
  (hb : s.bestSpare r = some (cost, fleet))
include hr hi hp hb

theorem claimTest_pending (hs : r.state = .pending) : s.claimTest r.run = s.claimRun r cost fleet := by
  simp [State.claimTest, hr, hi, hp, hs, hb]
/-- A run claimed elsewhere is claimed where the spare is the better one. -/
theorem claimTest_elsewhere (hs : r.state = .claimedElsewhere) {h : HeardClaim} (hh : r.best = some h) : s.claimTest r.run =
    if betterPair (cost, s.cfg.station) (h.cost, h.station) then s.claimRun r cost fleet else s := by
  simp [State.claimTest, hr, hi, hp, hs, hb, hh]

end
theorem claimTest_idle {r : Run} (hr : s.runOf r.run = some r)
    (h : s.inRun = false ∨ ¬ Claims.waiting s r ∨ s.bestSpare r = none) : s.claimTest r.run = s := by
  unfold State.claimTest
  rw [hr]
  dsimp only
  split
  · rename_i hc
    obtain ⟨hi, hp⟩ := (Bool.and_eq_true _ _).mp hc
    rcases h with h | h | h
    · simp [h] at hi
    · have hs : ¬ (r.state = .pending ∨ r.state = .claimedElsewhere) := fun hs => h ⟨hp, hs⟩
      split
      · exact absurd (.inl ‹_›) hs
      · exact absurd (.inr ‹_›) hs
      · rfl
    · rw [h]
      split <;> simp_all
  · rfl

/-! ### Claims withdrawn (R150) -/

theorem withdrawClaim_none {r : Run} (hr : s.runOf r.run = some r) (hs : r.state ≠ .claiming) :
    s.withdrawClaim r.run = s := by
  unfold State.withdrawClaim
  rw [hr]
  dsimp only
  split
  · exact absurd ‹_› hs
  · rfl
section
variable {r : Run} {c : OwnClaim} {k : BusClass} (hr : s.runOf r.run = some r) (hs : r.state = .claiming)
  (hc : r.claim = some c) (hd : r.demand = .ofClass k)
include hr hs hc hd

theorem withdrawClaim_claiming : s.withdrawClaim r.run =
    if s.buses.records.any (fun b => b.fleet == some c.fleet && b.spareFor k) then s
    else (s.updateRun r.run Run.fallBack).sendClaim r.run c.fleet noFit := by
  simp [State.withdrawClaim, hr, hs, hc, hd]
theorem withdrawClaim_stays (h : ∃ b ∈ s.buses.records, b.fleet = some c.fleet ∧ Claims.spare b k) :
    s.withdrawClaim r.run = s :=
  (withdrawClaim_claiming hr hs hc hd).trans (if_pos (by simpa [spareFor_iff] using h))
theorem withdrawClaim_goes (h : ¬ ∃ b ∈ s.buses.records, b.fleet = some c.fleet ∧ Claims.spare b k) :
    s.withdrawClaim r.run = (s.updateRun r.run Run.fallBack).sendClaim r.run c.fleet noFit :=
  (withdrawClaim_claiming hr hs hc hd).trans (if_neg (by simpa [spareFor_iff] using h))

end

/-! ### The tests called for (R145) -/

theorem claimCalled_iff (before : State) (r : Run) : State.claimCalled before s r = true ↔ Claims.waiting s r ∧
    ((∀ old, before.runOf r.run = some old → ¬ Claims.waiting before old ∨ old.state ≠ r.state) ∨
      ∃ b, (∃ k, r.demand = .ofClass k ∧ Claims.eligible s b k) ∧
        ∀ k old, r.demand = .ofClass k → old.id = b.id → ¬ Claims.eligible before old k) := by
  have had : ∀ b : Bus, (before.buses.records.any fun o => o.id == b.id && before.eligibleSpare r o) = true ↔
      ∃ k old, r.demand = .ofClass k ∧ old.id = b.id ∧ Claims.eligible before old k := fun b => by
    simp only [List.any_eq_true, Bool.and_eq_true, beq_iff_eq]
    constructor
    · rintro ⟨o, ho, hid, he⟩
      obtain ⟨k, hd, hk⟩ := (eligibleSpare_exists r o).mp ⟨ho, he⟩
      exact ⟨k, o, hd, hid, hk⟩
    · rintro ⟨k, o, hd, hid, hk⟩
      obtain ⟨ho, he⟩ := (eligibleSpare_exists r o).mpr ⟨k, hd, hk⟩
      exact ⟨o, ho, hid, he⟩
  unfold State.claimCalled
  rw [Bool.and_eq_true, claimPlaced_iff, Bool.or_eq_true]
  refine and_congr_right fun _ => or_congr ?_ ?_
  · cases before.runOf r.run with
    | none => simp
    | some old => simp [← claimPlaced_iff]
  · rw [List.any_eq_true]
    refine exists_congr fun b => ?_
    rw [Bool.and_eq_true, ← and_assoc, eligibleSpare_exists, Bool.not_eq_true', ← Bool.not_eq_true, had]
    refine and_congr_right fun _ => ?_
    push Not
    rfl

end Sys2Proof.Machine

open Sys2Proof Sys2Proof.Machine

/-- Settles O39: the best spare is `bestSpare_some`, at the cost `spareCost_ready` or `spareCost_short`; the claim test
claims by `claimTest_pending` and `claimTest_elsewhere`, and is called for by `claimCalled_iff`. -/
theorem claimsAreMadeAndWithdrawn : Obligations.ClaimsAreMadeAndWithdrawn := by
  unfold Obligations.ClaimsAreMadeAndWithdrawn
  refine ⟨fun s r k hd => ⟨bestSpare_none hd, fun cost fleet h => bestSpare_some hd h, fun b lane pos hp =>
      ⟨spareCost_ready hp, fun hn => ?_⟩⟩,
    fun s r hr => ⟨fun cost fleet hi hp hb => ⟨claimTest_pending hr hi hp hb, fun h hs hh => ?_⟩, claimTest_idle hr,
      inClaimPeriod_iff r, fun c k hs hc hd => ⟨withdrawClaim_stays hr hs hc hd, withdrawClaim_goes hr hs hc hd⟩,
      withdrawClaim_none hr⟩,
    fun s before extra => ⟨fun r => extra.contains r.run || State.claimCalled before s r, fun r => ?_, rfl⟩⟩
  · rw [spareCost_short hp hn]
    cases b.need <;> rfl
  · rw [claimTest_elsewhere hr hi hp hb hs hh]
    exact ⟨fun hbetter => if_pos ((betterPair_iff _ _).mpr hbetter), fun hn => if_neg (mt (betterPair_iff _ _).mp hn)⟩
  · rw [Bool.or_eq_true, claimCalled_iff, List.contains_iff_mem]
end

section
/-! SUPPORT. The wash lane's words: its room, its stages and its mode as the statements say them (R43, R48, R51, R52, R62). -/

namespace Sys2Proof.Machine

open Sys2Proof

variable {s : State}

theorem apronRoom_iff : s.apronRoom = true ↔ s.wash.apron.length + (if s.wash.promised then 1 else 0) < 4 := by
  unfold State.apronRoom
  cases s.wash.promised <;> simp
theorem active_iff : s.active = true ↔ s.node.state = .listen ∨ s.node.state = .run ∨ s.node.state = .mute := by
  unfold State.active
  cases s.node.state <;> simp
theorem washes_iff : s.washes = true ↔ s.active = true ∧ s.cfg.washLane = true := by simp [State.washes]
theorem not_washes (h : s.active = false ∨ s.cfg.washLane = false) : ¬ s.washes = true := by
  rcases h with h | h <;> simp [State.washes, h]
theorem okFleet_iff (fleet : Nat) : okFleet fleet = true ↔ 1 ≤ fleet ∧ fleet ≤ 9999 := by simp [okFleet]

/-! ### New buses (R44 to R46) -/

theorem createQueued_queued (fleet : Nat) : s.createQueued fleet = Claims.queued fleet s := by
  unfold State.createQueued Claims.queued State.tableRoom
  simp only [addNamed_named, decide_eq_true_eq]
theorem takeBypass_onApron (fleet : Nat) : s.takeBypass fleet = Claims.onApron fleet s := by
  unfold State.takeBypass Claims.onApron State.createApron State.tableRoom
  simp only [addNamed_named, decide_eq_true_eq, apronRoom_iff]
/-- At the entry the queue comes first; past it the entry is as the bypass. -/
theorem takeEntry_placed (fleet : Nat) : s.takeEntry fleet =
    if (s.buses.records.filter (fun b => b.place == .queued)).length < 8 then Claims.queued fleet s
    else Claims.onApron fleet s := by
  rw [← createQueued_queued, ← takeBypass_onApron]
  rfl
/-- A reading of a fleet that no node takes in: none in LOADING and CONFIG_FAULT, none out of range, none with a record. -/
theorem reading_untaken {fleet : Nat} (h : s.active = false ∨ fleet = 0 ∨ 9999 < fleet ∨ (s.busOf fleet).isSome = true)
    (used : Bool) : ¬ (s.active && used && okFleet fleet && (s.busOf fleet).isNone) = true := by
  simp only [Bool.and_eq_true, okFleet_iff, Option.isNone_iff_eq_none]
  rintro ⟨⟨⟨ha, -⟩, h1, h2⟩, hb⟩
  rcases h with h | h | h | h
  · simp [ha] at h
  · omega
  · omega
  · simp [hb] at h
theorem reading_taken {fleet : Nat} (ha : s.active = true) (h1 : 1 ≤ fleet) (h2 : fleet ≤ 9999) (hb : s.busOf fleet = none)
    {used : Bool} (hu : used = true) : (s.active && used && okFleet fleet && (s.busOf fleet).isNone) = true := by
  simp [ha, (okFleet_iff fleet).mpr ⟨h1, h2⟩, hb, hu]

end Sys2Proof.Machine

open Sys2Proof Sys2Proof.Machine

/-- Settles O15: a reading taken in finds its place by `takeEntry_placed` or `takeBypass_onApron`. -/
theorem newBusFindsItsPlaceAtTheEntry : Obligations.NewBusFindsItsPlaceAtTheEntry := by
  unfold Obligations.NewBusFindsItsPlaceAtTheEntry
  intro s fleet
  refine ⟨fun h => ⟨if_neg (reading_untaken h _), if_neg (reading_untaken h _)⟩, fun hw =>
    if_neg (by simp [not_washes (.inr hw)]), fun hb => if_neg (by simp [hb]), fun ha h1 h2 hn => ⟨fun hw => ?_, fun hb => ?_⟩⟩
  · rw [← takeEntry_placed]
    exact if_pos (reading_taken ha h1 h2 hn hw)
  · rw [← takeBypass_onApron]
    exact if_pos (reading_taken ha h1 h2 hn hb)

/-- Settles O60: the order is that of `State.settle`, and each test keeps the ground (Laws/Ground.lean). -/
theorem testsAfterACommandKeepTheGround : Obligations.TestsAfterACommandKeepTheGround := by
  unfold Obligations.TestsAfterACommandKeepTheGround
  refine ⟨fun s before extra => ⟨fun ha => if_pos ha, fun ha => if_neg (by simp [ha]), rfl, rfl, rfl⟩, fun s before extra => ?_⟩
  show Grounds s (s.settle before extra)
  unfold State.settle
  split
  · have bound := withdrawClaims_grounds (bindAll_grounds (raiseFront_grounds before (Grounds.refl s)))
    have departed := withdrawClaims_grounds (departureTests_grounds bound)
    have claimed := keepRefresh_grounds before (claimTests_grounds before extra departed)
    exact callTest_grounds (washTests_grounds claimed)
  · exact Grounds.refl s
end

section
/-! SUPPORT. Stage detectors, the wash timers and the stop input (R52 to R58, R62). -/

namespace Sys2Proof.Machine

open Sys2Proof

variable {s : State}

/-! ### Stages entered, held and left (R54, R56, R62) -/

theorem receiveInto_arrives (id stage : Nat) (s : State) : s.receiveInto id stage = Claims.arrives id stage s := by
  unfold State.receiveInto Claims.arrives State.enterSpinup
  simp only [beq_iff_eq]
  by_cases hm : s.wash.mode = .stopped
  · exact (if_pos hm).trans (if_pos hm).symm
  · refine (if_neg hm).trans (Eq.trans ?_ (if_neg hm).symm)
    by_cases hr : s.stageState stage = .runon
    · exact (if_pos hr).trans (if_pos (.inl hr)).symm
    · refine (if_neg hr).trans ?_
      by_cases ht : (s.stageTimes stage).spinup = 0
      · exact (if_pos ht).trans (if_pos (.inr ht)).symm
      · exact (if_neg ht).trans (if_neg (not_or.mpr ⟨hr, ht⟩)).symm
theorem enterStopped_stopped (s : State) : s.enterStopped = Claims.stopped s := by
  unfold State.enterStopped Claims.stopped
  rw [show (heldStage : Stage → Stage) = Claims.held from funext keptStages_held]
  simp only [beq_iff_eq]
/-- Two changes of one record, the first of which keeps its handle, are one. -/
theorem updateBus_updateBus (id : Nat) {f : Bus → Bus} (hf : ∀ b, (f b).id = b.id) (g : Bus → Bus) (s : State) :
    (s.updateBus id f).updateBus id g = s.updateBus id (fun b => g (f b)) := by
  unfold State.updateBus
  simp only [State.setBuses_buses, List.map_map]
  refine congrArg (fun bs => s.setBuses { s.buses with records := bs }) (List.map_congr_left fun b _ => ?_)
  by_cases h : b.id = id <;> simp [h, hf]
/-- The last stage's bus comes to the apron, washed, its promised place taken (R56, R57). -/
theorem confirmApron_sentOn (b : Bus) (fleet stage : Nat) (s : State) : s.confirmApron b fleet stage =
    let t := s.updateBus b.id (fun x => { x with place := .apron false none, washed := true })
    Claims.sentOn stage (t.setWash { t.wash with apron := t.wash.apron ++ [fleet], promised := false }) := by
  have moved : (s.updateBus b.id (fun x => { x with washed := true })).setPlace b.id (.apron false none)
      = s.updateBus b.id (fun x => { x with place := .apron false none, washed := true }) :=
    updateBus_updateBus b.id (f := fun x => { x with washed := true }) (fun _ => rfl) _ s
  unfold State.confirmApron State.joinApron
  rw [moved, vacate_sentOn]
  rfl

/-! ### What a detector change comes to (R52) -/

theorem stageCount_eq (h : s.cfg.washLane = true) : s.stageCount = s.cfg.stageCount := if_pos h
theorem stageShows_count {stage : Nat} {level : Bool} (h : Claims.stageShows s stage level) : s.stageCount = s.cfg.stageCount :=
  stageCount_eq h.2.1
/-- A changed level at a stage in use has its effect, and the tests of the wash lane follow. -/
theorem exec_stageShows {stage : Nat} {level : Bool} (h : Claims.stageShows s stage level)
    {t : State} (ht : (s.setStageDetector stage level).stageChanged stage level = t) :
    exec (.stageDetectorChange stage level) s = .next t.settleWash := by
  subst ht
  have hc := stageShows_count h
  obtain ⟨ha, -, h1, h2, hd⟩ := h
  show execStageDetectorChange stage level s = _
  unfold execStageDetectorChange
  rw [if_neg (by simp [hd])]
  refine congrArg Host.Outcome.next (if_pos ?_)
  have ha' : (s.setStageDetector stage level).active = true := ha
  have hc' : (s.setStageDetector stage level).stageCount = s.cfg.stageCount := hc
  simp [ha', hc', h1, h2]
/-- A change at a node or a stage that takes none is taken into the levels alone. -/
theorem exec_stageUnused {stage : Nat} {level : Bool} (hd : s.stageDetector stage ≠ level)
    (h : s.active = false ∨ s.cfg.washLane = false ∨ stage = 0 ∨ s.cfg.stageCount < stage) :
    exec (.stageDetectorChange stage level) s = .next (s.setStageDetector stage level) := by
  have hle : s.stageCount ≤ s.cfg.stageCount := by unfold State.stageCount; split <;> omega
  have unused : ¬ (s.active && decide (1 ≤ stage) && decide (stage ≤ s.stageCount)) = true := by
    rcases h with h | h | h | h
    · simp [h]
    · simp [State.stageCount, h]
      omega
    · simp [h]
    · simp only [Bool.and_eq_true, decide_eq_true_eq]
      omega
  show execStageDetectorChange stage level s = _
  unfold execStageDetectorChange
  rw [if_neg (by simpa using hd)]
  exact congrArg Host.Outcome.next (if_neg unused)
theorem stageChanged_intruded {stage : Nat} (hb : s.stageBus stage = none) (hc : s.comingInto stage = none) :
    s.stageChanged stage true = Claims.stopped (s.setStage stage .fault none) := by
  simp [State.stageChanged, State.stageShown, hb, hc, enterStopped_stopped]
/-- The last stage's bus gone on is confirmed on the apron (R56, R57). -/
theorem stageChanged_gone {b : Bus} {stage fleet : Nat} (hb : s.stageBus stage = some b) (hf : b.fleet = some fleet)
    (hc : stage = s.stageCount) (hs : s.stageState stage = .leaving ∨ s.stageState stage = .fault) :
    s.stageChanged stage false =
      let t := s.updateBus b.id (fun x => { x with place := .apron false none, washed := true })
      Claims.sentOn stage (t.setWash { t.wash with apron := t.wash.apron ++ [fleet], promised := false }) := by
  rw [← confirmApron_sentOn]
  subst hc
  rcases hs with hs | hs <;> simp [State.stageChanged, State.stageCleared, hb, hf, hs]
theorem stageChanged_cleared {stage : Nat} (hb : s.stageBus stage = none) (hs : s.stageState stage = .fault) :
    s.stageChanged stage false = s.setStage stage .empty none := by
  simp [State.stageChanged, State.stageCleared, hb, hs]
/-- A stage with its bus in it shows nothing new but the last stage's bus gone; a stage without one clears only out of FAULT. -/
theorem stageChanged_idle {stage : Nat} {level : Bool} (h : s.stageBus stage ≠ none ∧ (level = true ∨ stage ≠ s.stageCount ∨
      ¬ (s.stageState stage = .leaving ∨ s.stageState stage = .fault)) ∨
    s.stageBus stage = none ∧ level = false ∧ s.stageState stage ≠ .fault) : s.stageChanged stage level = s := by
  unfold State.stageChanged
  rcases h with ⟨hb, h⟩ | ⟨hb, rfl, hs⟩
  · obtain ⟨b, hb⟩ := Option.ne_none_iff_exists'.mp hb
    cases level with
    | true => simp [hb]
    | false =>
      have hn : ¬ (stage = s.stageCount ∧ (s.stageState stage = .leaving ∨ s.stageState stage = .fault)) := by
        simpa [imp_iff_not_or] using h
      simp only [Bool.false_eq_true, if_false, State.stageCleared, hb]
      exact if_neg (by simpa using hn)
  · simp [State.stageCleared, hb, hs]

/-- The called bus is confirmed in stage 1 (R52, R54). -/
theorem stageChanged_called {b : Bus} {fleet : Nat} (hn : s.stageBus 1 = none) (hc : s.wash.called = some fleet)
    (hb : s.busOf fleet = some b) : s.stageChanged 1 true =
      let t := Claims.arrives b.id 1 s
      t.setWash { t.wash with called := none, callTimer := none } := by
  have hi : s.comingInto 1 = some (b, 0) := by simp [State.comingInto, hc, hb]
  rw [← receiveInto_arrives]
  simp [State.stageChanged, State.stageShown, State.confirmInto, hn, hi]
theorem comingInto_uncalled (h : s.wash.called = none) : s.comingInto 1 = none := by simp [State.comingInto, h]
section
variable {stage : Nat} (h2 : 2 ≤ stage)
include h2

/-- A bus sent on, or overdue, is confirmed in the next stage and leaves the one before (R52, R56, R57). -/
theorem stageChanged_sent {b : Bus} (hn : s.stageBus stage = none)
    (hs : s.stageState (stage - 1) = .leaving ∨ s.stageState (stage - 1) = .fault) (hb : s.stageBus (stage - 1) = some b) :
    s.stageChanged stage true = Claims.sentOn (stage - 1) (Claims.arrives b.id stage s) := by
  have hi : s.comingInto stage = some (b, stage - 1) := by
    unfold State.comingInto
    rw [if_neg (by simp; omega), if_pos (by simpa using hs), hb]
    rfl
  have hk : stage - 1 ≠ 0 := by omega
  rw [← receiveInto_arrives, ← vacate_sentOn]
  simp [State.stageChanged, State.stageShown, State.confirmInto, hn, hi, hk]
theorem comingInto_unsent (h : s.stageState (stage - 1) ≠ .leaving ∧ s.stageState (stage - 1) ≠ .fault ∨
    s.stageBus (stage - 1) = none) : s.comingInto stage = none := by
  unfold State.comingInto
  rw [if_neg (by simp; omega)]
  split
  · rename_i hs
    rw [h.resolve_left (by simpa [imp_iff_not_or] using hs)]
    rfl
  · rfl

end

/-! ### Timers (R51, R54 to R57) -/

theorem stageExpired_of {stage e : Nat} {st : StageState} (ha : s.active = true) (h1 : 1 ≤ stage) (he : e ≤ s.now)
    (h : s.wash.stages[stage - 1]? = some ⟨st, some e⟩) : s.stageExpired stage st = true := by
  simp [State.stageExpired, ha, h1, h, expired, he]

end Sys2Proof.Machine

open Sys2Proof Sys2Proof.Machine

/-- Settles O16: a detector changed is `exec_stageShows`, its effect one of the cases of `State.stageChanged`. -/
theorem stageDetectorConfirmsTheMove : Obligations.StageDetectorConfirmsTheMove := by
  unfold Obligations.StageDetectorConfirmsTheMove
  refine fun s b stage level => ⟨fun fleet hsh hn hc hb => exec_stageShows hsh (stageChanged_called hn hc hb),
    fun hsh h2 hn hs hb => exec_stageShows hsh (stageChanged_sent h2 hn hs hb),
    fun fleet hsh hb hf hs => exec_stageShows hsh (stageChanged_gone hb hf (stageShows_count hsh).symm hs),
    fun hsh hn hs => exec_stageShows hsh (stageChanged_cleared hn hs),
    fun hsh h => exec_stageShows hsh (stageChanged_idle ((stageShows_count hsh).symm ▸ h)),
    fun h => if_pos (by simp [h]), fun hd hout => exec_stageUnused hd hout⟩

/-- Settles O17: a timer that has run out is `stageExpired_of`, an intruding bus `stageChanged_intruded`. -/
theorem washTimersAndStops : Obligations.WashTimersAndStops := by
  unfold Obligations.WashTimersAndStops
  refine ⟨fun s stage e ha h1 he => ⟨fun h => if_pos (stageExpired_of ha h1 he h), fun h => if_pos (stageExpired_of ha h1 he h),
    fun h => if_pos (stageExpired_of ha h1 he h), fun b fleet h hb hf => ?_, fun fleet hc ht => ?_⟩,
    fun s stage hsh hn hcall hsent => ?_, fun s => ⟨fun ha hw => ?_, fun h => ?_, rfl⟩⟩
  · show execAdvanceTimeout stage s = _
    unfold execAdvanceTimeout
    simp only [stageExpired_of ha h1 he h, if_true, hb, hf, Option.getD_some, enterStopped_stopped]
  · show execEntryCallTimeout s = _
    unfold execEntryCallTimeout
    simp only [ha, hc, ht, expired, he, decide_true, Bool.and_self, enterStopped_stopped]
  · have hc : s.comingInto stage = none := by
      rcases Nat.lt_or_ge stage 2 with hlt | h2
      · obtain rfl : stage = 1 := by have := hsh.2.2.1; omega
        exact comingInto_uncalled (hcall rfl)
      · exact comingInto_unsent h2 (hsent h2)
    exact exec_stageShows hsh (stageChanged_intruded hn hc)
  · rw [← enterStopped_stopped]
    exact congrArg Host.Outcome.next (if_pos (washes_iff.mpr ⟨ha, hw⟩))
  · exact congrArg Host.Outcome.next (if_neg (not_washes (s := s.setInputs { s.inputs with stop := true }) h))
end

section
/-! SUPPORT. The frost flag (R60) and the orders WASH_SKIP and WASH_RESUME (R63, R64). -/

namespace Sys2Proof.Machine

open Sys2Proof

variable {s : State}

/-! ### The frost flag (R50, R60) -/

theorem exec_temperature_idle (h : s.active = false ∨ s.cfg.washLane = false) (d : Int) :
    exec (.temperatureReading d) s = .next (s.setInputs { s.inputs with temperature := d }) :=
  if_neg (not_washes (s := s.setInputs { s.inputs with temperature := d }) h)
section
variable (ha : s.active = true) (hw : s.cfg.washLane = true) {d : Int} {frost : Bool} {clearing : Option Nat}
include ha hw

/-- A temperature taken in at a wash lane sets the flag and its clearing timer, and FROST_HOLD follows the flag. -/
theorem exec_temperature (hf : (s.wash.frost || decide (d < s.cfg.frostThreshold)) = frost)
    (hc : s.clearingUnder frost d = clearing) : exec (.temperatureReading d) s =
      .next (Claims.frosted frost clearing (s.setInputs { s.inputs with temperature := d })).settleWash := by
  subst hf hc
  refine (if_pos (washes_iff.mpr ⟨ha, hw⟩)).trans ?_
  rw [enterFrostHold_frosted]
  rfl

end
/-- The clearing timer is stopped while the flag is clear, and below two degrees above the threshold. -/
theorem clearingUnder_stopped {frost : Bool} {d : Int} (h : frost = true → d < s.cfg.frostThreshold + 2) :
    s.clearingUnder frost d = none := by
  refine if_neg ?_
  simp only [Bool.and_eq_true, decide_eq_true_eq, not_and, Int.not_le]
  exact h
theorem clearingUnder_timed {d : Int} (h : s.cfg.frostThreshold + 2 ≤ d) :
    s.clearingUnder true d = some (s.wash.clearing.getD (s.now + 600)) := by
  refine (if_pos (by simp [h])).trans ?_
  cases s.wash.clearing <;> rfl

/-! ### Stages resumed (R63) -/

theorem getElem?_updateAt {α : Type} (f : α → α) (l : List α) (i j : Nat) :
    (updateAt f i l)[j]? = if j = i then l[j]?.map f else l[j]? := by
  induction l generalizing i j with
  | nil => cases i <;> simp [updateAt]
  | cons a as ih => cases i <;> cases j <;> simp [updateAt, ih]
/-- A stage changed to what it is leaves the lane as it is. -/
theorem updateAt_self {α : Type} {f : α → α} {l : List α} {i : Nat} (h : ∀ a, l[i]? = some a → f a = a) : updateAt f i l = l := by
  refine List.ext_getElem? fun j => ?_
  rw [getElem?_updateAt]
  split
  case isTrue hj =>
    subst hj
    cases hl : l[j]? with
    | none => rfl
    | some a => rw [Option.map_some, h a hl]
  case isFalse => rfl
theorem updateAt_congr {α : Type} {f g : α → α} {l : List α} {i : Nat} (h : ∀ a, l[i]? = some a → f a = g a) :
    updateAt f i l = updateAt g i l := by
  refine List.ext_getElem? fun j => ?_
  rw [getElem?_updateAt, getElem?_updateAt]
  split
  case isTrue hj =>
    subst hj
    cases hl : l[j]? with
    | none => rfl
    | some a => rw [Option.map_some, Option.map_some, h a hl]
  case isFalse => rfl

/-- A lane with these stages. -/
def State.setStages (stages : List Stage) (s : State) : State := s.setWash { s.wash with stages := stages }

theorem resumeStage_stage {i : Nat} {st : Stage} (hi : s.wash.stages[i]? = some st) :
    s.resumeStage (i + 1) = s.setStages (updateAt (fun _ => Claims.resumed s (i + 1) st) i s.wash.stages) := by
  have hs : s.stageState (i + 1) = st.state := by simp [State.stageState, hi]
  have kept : s = s.setStages (updateAt (fun _ => st) i s.wash.stages) := by
    rw [updateAt_self (by simp [hi])]
    rfl
  obtain ⟨state, timer⟩ := st
  unfold State.resumeStage
  rw [hs]
  cases state with
  | spinup =>
    by_cases ht : (s.stageTimes (i + 1)).spinup = 0
    · simp only [State.enterSpinup, Claims.resumed, ht]
      rfl
    · simp only [State.enterSpinup, Claims.resumed, beq_iff_eq, ht]
      rfl
  | leaving => rfl
  | _ => exact kept
/-- One stage resumed is the rule of R63 for the state it stands in; a stage that is not there is none. -/
theorem resumeStage_resumed (i : Nat) (s : State) :
    s.resumeStage (i + 1) = s.setStages (updateAt (Claims.resumed s (i + 1)) i s.wash.stages) := by
  cases hi : s.wash.stages[i]? with
  | none =>
    have hs : s.stageState (i + 1) = .empty := by simp [State.stageState, hi]
    rw [updateAt_self (by simp [hi])]
    simp only [State.resumeStage, hs]
    rfl
  | some st =>
    rw [updateAt_congr (g := fun _ => Claims.resumed s (i + 1) st) (by simp [hi])]
    exact resumeStage_stage hi

/-- The stages of a lane, the first `n` of them resumed. -/
def State.resumedStages (s : State) (n : Nat) : List Stage :=
  s.wash.stages.mapIdx fun i st => if i < n then Claims.resumed s (i + 1) st else st

theorem resumedStages_succ (n : Nat) :
    updateAt (Claims.resumed s (n + 1)) n (s.resumedStages n) = s.resumedStages (n + 1) := by
  refine List.ext_getElem? fun j => ?_
  simp only [getElem?_updateAt, State.resumedStages, List.getElem?_mapIdx]
  cases s.wash.stages[j]? with
  | none => simp
  | some st =>
    rcases Nat.lt_trichotomy j n with h | rfl | h
    · simp [h, h.ne, Nat.lt_succ_of_lt h]
    · simp
    · simp [h.ne', Nat.not_lt.mpr h.le, Nat.not_lt.mpr h]
theorem resumeStages_resumed (n : Nat) (s : State) :
    (List.range n).foldl (fun s i => s.resumeStage (i + 1)) s = s.setStages (s.resumedStages n) := by
  induction n with
  | zero =>
    have : s.resumedStages 0 = s.wash.stages := List.ext_getElem? fun j => by simp [State.resumedStages]
    rw [this]
    rfl
  | succ n ih =>
    rw [List.range_succ, List.foldl_concat, ih, resumeStage_resumed]
    exact congrArg (fun x => s.setStages x) (resumedStages_succ (s := s) n)

/-! ### The orders (R63, R64) -/

@[simp] theorem cfg_frameEnded : s.frameEnded.cfg = s.cfg := rfl
@[simp] theorem wash_frameEnded : s.frameEnded.wash = s.wash := rfl
@[simp] theorem inputs_frameEnded : s.frameEnded.inputs = s.inputs := rfl
@[simp] theorem apronRoom_frameEnded : s.frameEnded.apronRoom = s.apronRoom := rfl

theorem resumeWash_resumed (hw : s.cfg.washLane = true) : s.resumeWash =
    (Claims.frosted s.wash.frost s.wash.clearing (s.setWash { s.wash with
      mode := .normal, stages := s.resumedStages s.cfg.stageCount
      callTimer := if s.wash.called.isSome then some (s.now + s.cfg.advanceTimeout) else none })).settleWash := by
  unfold State.resumeWash
  dsimp only
  rw [resumeStages_resumed, enterFrostHold_frosted, stageCount_eq hw]
  rfl

end Sys2Proof.Machine

open Sys2Proof Sys2Proof.Machine

/-- Settles O18: a temperature taken in is `exec_temperature`, by where it lies of the threshold. -/
theorem frostFlagFollowsTheTemperature : Obligations.FrostFlagFollowsTheTemperature := by
  unfold Obligations.FrostFlagFollowsTheTemperature
  refine ⟨fun s d h => exec_temperature_idle h d, fun s d ha hw => ⟨fun hd => ?_, fun h1 h2 => ?_, fun hd hf => ?_,
    fun hd hf => ?_, fun e hc he => ?_⟩⟩
  · exact exec_temperature ha hw (by simp [hd]) (clearingUnder_stopped fun _ => by omega)
  · exact exec_temperature ha hw (by simp [h1]) (clearingUnder_stopped fun _ => h2)
  · exact exec_temperature ha hw (by simp [hf]) (clearingUnder_timed hd)
  · exact exec_temperature ha hw (by simp [hf]; omega) (clearingUnder_stopped nofun)
  · show execFrostClearExpiry s = _
    unfold execFrostClearExpiry
    rw [if_pos (by simp [ha, hc, expired, he])]
    simp only [beq_iff_eq]

/-- Settles O19: each order is judged by its tests in turn; the stages of a lane that runs on are `resumeStages_resumed`. -/
theorem washSkipAndResume : Obligations.WashSkipAndResume := by
  unfold Obligations.WashSkipAndResume
  refine ⟨fun s sender tag fleet ho h1 h2 => ?_, fun s sender tag ho => ⟨fun hw => ?_, fun hw hm => ?_, fun hw hm hb => ?_,
    fun hw hm hb => ?_⟩⟩
  · have hp := fleetArgs_be16 fleet h1 h2
    have hl : (be16 fleet).length ≤ 29 := by simp [be16]
    dsimp only
    rw [← apronRoom_iff]
    refine ⟨fun hn => ?_, fun b hb h => ?_, fun b hb hq hc hr => ?_⟩
    · exact congrArg _ (takeOrder_no ho hl hp (by simp [hn]))
    · refine congrArg _ (takeOrder_no ho hl hp ?_)
      have hn : ¬ (b.place = .queued ∧ s.wash.called ≠ some fleet ∧ s.apronRoom = true) := by tauto
      simp only [busOf_frameEnded, hb]
      exact if_neg (by simpa [and_assoc] using hn)
    · refine congrArg _ (takeOrder_plain ho hl hp ?_)
      simp only [busOf_frameEnded, hb]
      exact if_pos (by simp [hq, hc, hr])
  all_goals have hp : args0 [] = some () := rfl
  · exact congrArg _ (takeOrder_no ho (by simp) hp (by simp [hw]))
  · exact congrArg _ (takeOrder_plain ho (by simp) hp (by simp [hw, hm]))
  · exact congrArg _ (takeOrder_no ho (by simp) hp
      ((if_neg (by simp [hw])).trans ((if_neg (by simp [hm])).trans (if_pos (by simpa using hb)))))
  · refine ⟨s.resumedStages s.cfg.stageCount, fun i hi => by simp [State.resumedStages, hi], ?_⟩
    refine congrArg _ (takeOrder_plain ho (by simp) hp
      ((if_neg (by simp [hw])).trans ((if_neg (by simp [hm])).trans ((if_neg (by simpa using hb)).trans ?_))))
    exact congrArg Verdict.plain (resumeWash_resumed (s := s.frameEnded) hw)
end

section
/-! SUPPORT. The tests of the wash lane and its outputs (R47, R49, R51, R53, R55, R61, R202). -/

namespace Sys2Proof.Machine

open Sys2Proof

variable {s : State}

/-! ### The head of the queue (R47) -/

/-- Nothing in a list comes before the head of its sort, by a strict weak order. -/
theorem sortBy_head {α : Type} {before : α → α → Bool} (hasymm : ∀ x y, before x y = true → ¬ before y x = true)
    (hweak : ∀ x y z, before x z = true → before x y = true ∨ before y z = true) {y : α} {ys : List α} :
    ∀ {xs : List α}, sortBy before xs = y :: ys → ∀ x ∈ xs, ¬ before x y = true
  | [], _ => nofun
  | x :: xs, h => by
    have hirr : ∀ z, ¬ before z z = true := fun z hz => hasymm z z hz hz
    have hmem := fun z => mem_sortBy before z xs
    unfold sortBy at h
    cases ht : sortBy before xs with
    | nil =>
      rw [ht] at h hmem
      obtain ⟨rfl, -⟩ := List.cons.inj h
      exact List.forall_mem_cons.mpr ⟨hirr x, fun z hz => nomatch (hmem z).mpr hz⟩
    | cons t ts =>
      have hleast := sortBy_head hasymm hweak ht
      rw [ht, insertBy] at h
      split at h <;> rename_i hb <;> obtain ⟨rfl, -⟩ := List.cons.inj h
      · exact List.forall_mem_cons.mpr ⟨hasymm _ _ hb, hleast⟩
      · exact List.forall_mem_cons.mpr ⟨hirr x, fun z hz h => (hweak z t x h).elim (hleast z hz) hb⟩
theorem mem_washQueue (b : Bus) :
    b ∈ s.washQueue ↔ b ∈ s.buses.records ∧ b.place = .queued ∧ b.fleet ≠ s.wash.called := by
  unfold State.washQueue
  rw [mem_sortBy]
  simp
theorem washQueue_head {b : Bus} {rest : List Bus} (h : s.washQueue = b :: rest) {x : Bus} (hx : x ∈ s.washQueue) :
    s.busService x < s.busService b ∨ s.busService x = s.busService b ∧ b.seq ≤ x.seq := by
  unfold State.washQueue at h hx
  have hx := sortBy_head (fun y z => by simp; omega) (fun y z w => by simp; omega) h x ((mem_sortBy _ _ _).mp hx)
  simp only [Bool.or_eq_true, Bool.and_eq_true, decide_eq_true_eq, beq_iff_eq] at hx
  omega

/-! ### The tests (R49, R53, R55, R61) -/

theorem stageFree_iff (k : Nat) : s.stageFree k = true ↔
    (s.stageState k = .empty ∨ s.stageState k = .runon) ∧ s.stageDetector k = false := by simp [State.stageFree]
theorem onwardFree_iff (k : Nat) : s.onwardFree k = true ↔ Claims.onward s k := by
  unfold State.onwardFree Claims.onward
  by_cases h : k = s.stageCount
  · rw [if_pos h, if_pos (by simpa using h), apronRoom_iff]
  · rw [if_neg h, if_neg (by simpa using h), stageFree_iff]
theorem testOnward_free {k : Nat} (hs : s.stageState k = .doneWait) (ho : Claims.onward s k) : s.testOnward k = s.signalOn k :=
  if_pos (by simp [hs, (onwardFree_iff k).mpr ho])
theorem testOnward_waits {k : Nat} (h : s.stageState k ≠ .doneWait ∨ ¬ Claims.onward s k) : s.testOnward k = s := by
  refine if_neg ?_
  rw [Bool.and_eq_true, beq_iff_eq, onwardFree_iff]
  tauto
theorem spill_head {b : Bus} {rest : List Bus} {fleet : Nat} (k : Nat) (hm : s.wash.mode = .frostHold) (hr : s.apronRoom = true)
    (hq : s.washQueue = b :: rest) (hf : b.fleet = some fleet) : s.spill (k + 1) = State.spill k (s.joinUnwashed b.id fleet) := by
  simp [State.spill, hm, hr, hq, hf]
theorem spill_none (k : Nat) (h : s.wash.mode ≠ .frostHold ∨ ¬ s.apronRoom = true ∨ s.washQueue = []) : s.spill k = s := by
  cases k with
  | zero => rfl
  | succ k =>
    unfold State.spill
    split
    case isTrue hc =>
      rw [Bool.and_eq_true, beq_iff_eq] at hc
      rw [(h.resolve_left (not_not.mpr hc.1)).resolve_left (not_not.mpr hc.2)]
    case isFalse => rfl
/-- A bus may be called: IDLE or RUNNING, stage 1 free, no call standing (R53). -/
theorem entryCall_iff : (s.wash.mode == .normal && s.stageFree 1 && s.wash.called == none) = true ↔ s.wash.mode = .normal ∧
    (s.stageState 1 = .empty ∨ s.stageState 1 = .runon) ∧ s.stageDetector 1 = false ∧ s.wash.called = none := by
  simp only [Bool.and_eq_true, beq_iff_eq, stageFree_iff, and_assoc]

/-! ### The outputs (R51, R202) -/

/-- The wash lane's outputs may be driven: the node drives its outputs, and the lane is out of STOPPED. -/
theorem lit_iff : (s.active && s.node.resetLine == .released && s.wash.mode != .stopped) = true ↔
    Claims.outputsOn s ∧ s.wash.mode ≠ .stopped := by
  simp [Claims.outputsOn, active_iff, and_assoc]
theorem stageState_iff (k : Nat) {st : StageState} (h : st ≠ .empty) :
    s.stageState k = st ↔ ∃ timer, s.wash.stages[k - 1]? = some ⟨st, timer⟩ := by
  unfold State.stageState
  cases s.wash.stages[k - 1]? with
  | none => simp [h.symm]
  | some x =>
    obtain ⟨x, timer⟩ := x
    simp
/-- Equipment runs in every state of a stage but EMPTY and FAULT (R51). -/
theorem equipmentRuns_iff (k : Nat) : s.equipmentRuns k = true ↔
    (s.active && s.node.resetLine == .released && s.wash.mode != .stopped) = true ∧ (s.stageState k = .spinup ∨
      s.stageState k = .dwell ∨ s.stageState k = .doneWait ∨ s.stageState k = .leaving ∨ s.stageState k = .runon) := by
  unfold State.equipmentRuns
  cases s.stageState k <;> simp

end Sys2Proof.Machine

open Sys2Proof Sys2Proof.Machine

/-- Settles O20: the tests by `testOnward_free`, `spill_head` and `entryCall_iff`, the head of the queue by `washQueue_head`,
and the outputs by `lit_iff` and `stageState_iff`. -/
theorem washTestsServeTheLane : Obligations.WashTestsServeTheLane := by
  unfold Obligations.WashTestsServeTheLane
  refine ⟨fun s => ?_, fun s k _ => ?_⟩
  · dsimp only
    rw [← apronRoom_iff, ← entryCall_iff]
    refine ⟨fun ha hw hm => if_pos (by simp [ha, hw, hm]), fun h => if_neg ?_, fun k => rfl,
      fun k hs ho => ?_, fun k h => testOnward_waits h, ⟨fun b rest fleet k hm hr hq hf => spill_head k hm hr hq hf,
        fun k h => spill_none k h⟩, ⟨fun b rest hc hq => ?_, fun h => ?_⟩, ?_, fun b rest hq => ?_⟩
    · rcases h with h | h | h <;> simp [h]
    · rw [testOnward_free hs ho]
      unfold State.signalOn
      simp only [beq_iff_eq]
    · unfold State.testEntryCall
      rw [if_pos hc, hq]
    · unfold State.testEntryCall
      split
      · rw [h.resolve_left (not_not.mpr ‹_›)]
      · rfl
    · simp only [List.eq_nil_iff_forall_not_mem, mem_washQueue]
    · simp only [← mem_washQueue]
      exact ⟨hq ▸ List.mem_cons_self .., fun x hx => washQueue_head hq hx⟩
  · dsimp only
    rw [← lit_iff]
    refine ⟨?_, ?_, ?_⟩
    · simp only [State.entrySignal, Bool.and_eq_true, Option.isSome_iff_exists]
      tauto
    · simp only [State.stageSignal, Bool.and_eq_true, beq_iff_eq, stageState_iff, ne_eq, reduceCtorEq, not_false_eq_true]
    · simp only [equipmentRuns_iff, stageState_iff, ne_eq, reduceCtorEq, not_false_eq_true]
end

section
/-! SUPPORT. A PARK_CALL evaluated, heard or this node's own (R70, R71, R73). -/

namespace Sys2Proof.Machine

open Sys2Proof

variable {s : State}

/-! ### An offer dropped (R70, R73) -/

theorem offerOf_none {caller : Nat} (h : ∀ o ∈ s.alloc.offers, o.caller ≠ caller) : s.offerOf caller = none :=
  List.find?_eq_none.mpr fun o ho => by simpa using h o ho
theorem offerOf_first {pre post : List OfferRecord} {o : OfferRecord} (h : s.alloc.offers = pre ++ o :: post)
    (hp : ∀ x ∈ pre, x.caller ≠ o.caller) : s.offerOf o.caller = some o := by
  have hn : pre.find? (fun x => x.caller == o.caller) = none := List.find?_eq_none.mpr fun x hx => by simpa using hp x hx
  unfold State.offerOf
  rw [h, List.find?_append, hn]
  simp
theorem dropOffer_none {caller : Nat} (h : s.offerOf caller = none) : s.dropOffer caller = s := by
  unfold State.dropOffer
  rw [h]
/-- Dropping an offer changes the lanes and the offer records alone. -/
theorem dropOffer_only (caller : Nat) (s : State) : ∃ l a, s.dropOffer caller = (s.setLanes l).setAlloc a := by
  unfold State.dropOffer
  split
  · exact ⟨_, _, rfl⟩
  · exact ⟨s.lanes, s.alloc, rfl⟩
theorem dropOffer_buses (caller : Nat) (s : State) : (s.dropOffer caller).buses = s.buses := by
  obtain ⟨l, a, h⟩ := dropOffer_only caller s
  rw [h]
  rfl

/-! ### The offer for a call (R71, R73) -/

section
variable {caller : Nat} {c : Call}

/-- A call that neither a record here nor a full table stands against is offered the best lane. -/
theorem evaluateCall_offered (hm : (s.dropOffer caller).mayOffer caller c = true)
    (hr : (s.dropOffer caller).tableRoomFor c.fleet = true) : s.evaluateCall caller c = Claims.offered caller c s := by
  have hd := dropOffer_keeps caller (Keeps.refl s)
  unfold State.evaluateCall Claims.offered
  dsimp only
  rw [if_pos (by simp [hm, hr])]
  cases (s.dropOffer caller).bestLane ((s.dropOffer caller).callNeed caller c) none with
  | none => rfl
  | some p =>
    rw [← hd.now, ← hd.cfg]
    rfl
/-- A call that this node may not offer for, or has no room for, leaves it without an offer to that caller. -/
theorem evaluateCall_unoffered (h : (s.dropOffer caller).mayOffer caller c = false ∨
    (s.dropOffer caller).tableRoomFor c.fleet = false) : s.evaluateCall caller c = s.dropOffer caller := by
  unfold State.evaluateCall
  rcases h with h | h <;> simp [h]
/-- A peer's call is offered for when its fleet has no record here and the table has room. -/
theorem evaluateCall_unknown (hb : s.busOf c.fleet = none) (hr : s.buses.records.length < 64) :
    s.evaluateCall caller c = Claims.offered caller c s := by
  have hbuses := dropOffer_buses caller s
  refine evaluateCall_offered ?_ ?_
  · simp [State.mayOffer, busOf_congr hbuses, hb]
  · simp [State.tableRoomFor, State.tableRoom, hbuses, hr]
/-- This node's own call is offered for, with the record of its bus on the apron. -/
theorem evaluateCall_own {b : Bus} (hb : s.busOf c.fleet = some b) (ha : b.isApron = true) :
    s.evaluateCall s.cfg.station c = Claims.offered s.cfg.station c s := by
  have hbus := busOf_congr (dropOffer_buses s.cfg.station s) c.fleet
  have hcfg := (dropOffer_keeps s.cfg.station (Keeps.refl s)).cfg
  refine evaluateCall_offered ?_ ?_
  · simp [State.mayOffer, hbus, hb, hcfg, ha]
  · simp [State.tableRoomFor, hbus, hb, ha]

end

/-! ### A PARK_CALL heard (R71, R73) -/

theorem exec_parkCall {sender : Nat} {c : Call} (h : Claims.heardFrom s sender) (hr : s.inRun = true) (h1 : c.seq ≤ 255)
    (h2 : 1 ≤ c.fleet) (h3 : c.fleet ≤ 9999) (h4 : ∀ r, c.route = some r → r ≤ 255)
    (h5 : ∀ m, c.pullOut = some m → m ≤ 1439) :
    exec (.parkCall sender c.seq c.fleet c.cls c.route c.pullOut c.washed) s =
      .next (s.frameEnded.evaluateCall sender c) := by
  obtain ⟨hh, hp⟩ := heardFrom_peer h
  have hroute : okOptional okByte c.route = true := by
    cases hc : c.route with
    | none => rfl
    | some r => exact decide_eq_true (h4 r hc)
  have hpull : okOptional okMinute c.pullOut = true := by
    cases hc : c.pullOut with
    | none => rfl
    | some m => exact decide_eq_true (h5 m hc)
  refine congrArg Host.Outcome.next ((hear_accepted hh ?_).trans (if_pos hr))
  simp [hp, okByte, okFleet, h1, h2, h3, hroute, hpull]

end Sys2Proof.Machine

open Sys2Proof Sys2Proof.Machine

/-- Settles O22: an offer dropped by `offerOf_first`, a call by `evaluateCall_unknown` or `evaluateCall_unoffered`. -/
theorem parkCallIsOfferedTheBestLane : Obligations.ParkCallIsOfferedTheBestLane := by
  unfold Obligations.ParkCallIsOfferedTheBestLane
  refine ⟨fun s caller => ⟨fun h => dropOffer_none (offerOf_none h), fun pre o post h hp ho => ?_⟩,
    fun s sender c hh hr h1 h2 h3 h4 h5 => ?_⟩
  · subst ho
    rw [dropOffer_unheld (offerOf_first h hp)]
    rfl
  · dsimp only
    rw [exec_parkCall hh hr h1 h2 h3 h4 h5]
    refine ⟨fun h => congrArg _ (evaluateCall_unoffered ?_), fun hb hl => congrArg _ (evaluateCall_unknown hb hl)⟩
    have hbuses := dropOffer_buses sender s.frameEnded
    have hpeer : sender ≠ (s.frameEnded.dropOffer sender).cfg.station := by
      rw [(dropOffer_keeps sender (Keeps.refl s.frameEnded)).cfg]
      exact hh.2.2
    have hbus : (s.frameEnded.dropOffer sender).busOf c.fleet = s.busOf c.fleet := busOf_congr hbuses _
    cases hb : s.busOf c.fleet with
    | some b => exact .inl (by simp [State.mayOffer, hbus, hb, hpeer])
    | none =>
      have hfull : 64 ≤ s.buses.records.length := h.resolve_left (by simp [hb])
      refine .inr ?_
      simp only [State.tableRoomFor, State.tableRoom, hbus, hb, hbuses, Bool.or_false, decide_eq_false_iff_not]
      exact Nat.not_lt.mpr hfull
end

section
/-! SUPPORT. The call test and the caller's timers (R68, R69, R78). -/

namespace Sys2Proof.Machine

open Sys2Proof

variable {s : State}

/-! ### The bus to call (R68) -/

theorem isApron_iff (b : Bus) : b.isApron = true ↔ ∃ u retry, b.place = .apron u retry := by
  unfold Bus.isApron
  cases b.place <;> simp
theorem eligibleForCall_iff (b : Bus) :
    b.eligibleForCall = true ↔ ∃ u retry, b.place = .apron u retry ∧ (u = false ∨ retry = none) := by
  unfold Bus.eligibleForCall
  cases b.place <;> simp
theorem nextToCall_none (h : ∀ f ∈ s.wash.apron, ∀ b, s.busOf f = some b → b.eligibleForCall = false) :
    s.nextToCall = none := by
  refine List.find?_eq_none.mpr fun p hp => ?_
  obtain ⟨f, hf, hm⟩ := List.mem_filterMap.mp hp
  obtain ⟨b, hb, rfl⟩ := Option.map_eq_some_iff.mp hm
  simp [h f hf b hb]
theorem nextToCall_first {pre post : List Nat} {f : Nat} {b : Bus} (ha : s.wash.apron = pre ++ f :: post)
    (hp : ∀ g ∈ pre, ∀ x, s.busOf g = some x → x.eligibleForCall = false) (hb : s.busOf f = some b)
    (he : b.eligibleForCall = true) : s.nextToCall = some (b, f) := by
  have hn : (pre.filterMap (fun f => (s.busOf f).map (fun b => (b, f)))).find? (fun p => p.1.eligibleForCall) = none :=
    nextToCall_none (s := s.setWash { s.wash with apron := pre }) hp
  unfold State.nextToCall
  rw [ha, List.filterMap_append, List.find?_append, hn, List.filterMap_cons, hb]
  simp [he]

/-! ### The calls of a series (R68, R71) -/

theorem makeCall_calls {b : Bus} {fleet : Nat} (count : Nat) (hb : s.busOf fleet = some b) (ha : b.isApron = true) :
    s.makeCall b fleet count = Claims.calls b fleet count s := by
  unfold State.makeCall Claims.calls
  dsimp only
  generalize hu : (s.setAlloc _).send _ = u
  have hcfg : u.cfg = s.cfg := by rw [← hu, send_cfg]; rfl
  have hbus : u.busOf fleet = some b := by
    rw [← hb, ← hu]
    exact busOf_congr (send_buses _ _) fleet
  exact hcfg ▸ evaluateCall_own hbus ha
theorem callTest_first {pre post : List Nat} {f : Nat} {b : Bus} (hr : s.inRun = true) (hi : s.alloc.caller = .idle)
    (ha : s.wash.apron = pre ++ f :: post) (hp : ∀ g ∈ pre, ∀ x, s.busOf g = some x → x.eligibleForCall = false)
    (hb : s.busOf f = some b) (he : b.eligibleForCall = true) : s.callTest = Claims.calls b f 1 s := by
  obtain ⟨u, retry, hplace, -⟩ := (eligibleForCall_iff b).mp he
  unfold State.callTest
  rw [if_pos (by simp [hr, hi]), nextToCall_first ha hp hb he]
  exact makeCall_calls 1 hb ((isApron_iff b).mpr ⟨u, retry, hplace⟩)
theorem callTest_idle (h : s.inRun = false ∨ s.alloc.caller ≠ .idle ∨
    ∀ f ∈ s.wash.apron, ∀ b, s.busOf f = some b → b.eligibleForCall = false) : s.callTest = s := by
  unfold State.callTest
  split
  · rename_i hc
    simp only [Bool.and_eq_true, beq_iff_eq] at hc
    obtain ⟨hr, hi⟩ := hc
    have hn : s.nextToCall = none := nextToCall_none ((h.resolve_left (by simp [hr])).resolve_left (not_not.mpr hi))
    rw [hn]
  · rfl

/-! ### The caller's timers (R68, R69, R78) -/

theorem apronBus_some {fleet : Nat} {b : Bus} (hb : s.busOf fleet = some b) (ha : b.isApron = true) :
    s.apronBus fleet = some b := by
  simp [State.apronBus, hb, ha]
theorem apronBus_none {fleet : Nat} (h : ∀ b, s.busOf fleet = some b → b.isApron = false) : s.apronBus fleet = none := by
  simpa [State.apronBus] using h
theorem apronBus_told (code : AlertCode) (n fleet : Nat) (s : State) :
    (s.raise code n).callerIdle.apronBus fleet = s.apronBus fleet :=
  congrArg (Option.filter Bus.isApron) (busOf_congr (raise_buses code n s) fleet)
/-- A series whose third call found no berth: its bus is unplaced, and called again in 5 min. -/
theorem endSeries_apron {fleet : Nat} {b : Bus} (h : s.apronBus fleet = some b) : s.endSeries fleet =
    (((s.raise .noBerth fleet).updateBus b.id
      (fun x => { x with place := .apron true (some (s.now + 300)) })).callerIdle) := by
  unfold State.endSeries
  dsimp only
  rw [apronBus_told, h, ← (raise_keeps .noBerth fleet (Keeps.refl s)).now]
  rfl
theorem endSeries_gone {fleet : Nat} (h : s.apronBus fleet = none) :
    s.endSeries fleet = (s.raise .noBerth fleet).callerIdle := by
  unfold State.endSeries
  dsimp only
  rw [apronBus_told, h]
theorem exec_callTimerExpiry {c : Call} {count timer : Nat} (hc : s.alloc.caller = .calling c count timer)
    (ht : timer ≤ s.now) : exec .callTimerExpiry s = if count < 3 then
      match s.apronBus c.fleet with
      | some b => .next (s.makeCall b c.fleet (count + 1))
      | none => .next s.callerIdle.settleWash
    else .next (s.endSeries c.fleet).settleWash := by
  show execCallTimerExpiry s = _
  unfold execCallTimerExpiry
  rw [hc]
  exact if_neg (Nat.not_lt.mpr ht)
theorem exec_unplacedRetryExpiry {fleet e : Nat} {b : Bus} {u : Bool} (hb : s.busOf fleet = some b)
    (hp : b.place = .apron u (some e)) (he : e ≤ s.now) :
    exec (.unplacedRetryExpiry fleet) s = .next (s.setPlace b.id (.apron u none)).settleWash := by
  show execUnplacedRetryExpiry fleet s = _
  unfold execUnplacedRetryExpiry
  rw [hb]
  dsimp only
  rw [hp]
  exact if_pos (decide_eq_true he)
theorem exec_takeWaitExpiry {c : Call} {count timer : Nat} {best : HeardTake}
    (hc : s.alloc.caller = .taken c count best timer) (ht : timer ≤ s.now) :
    exec .takeWaitExpiry s = .next s.callerIdle.settleWash := by
  show execTakeWaitExpiry s = _
  unfold execTakeWaitExpiry
  rw [hc]
  exact if_neg (Nat.not_lt.mpr ht)

end Sys2Proof.Machine

open Sys2Proof Sys2Proof.Machine

/-- Settles O21: the call test by `callTest_first`, the call timer by `exec_callTimerExpiry` and the ends of a series. -/
theorem callsAreStartedAndRenewed : Obligations.CallsAreStartedAndRenewed := by
  unfold Obligations.CallsAreStartedAndRenewed
  refine ⟨fun s => ?_, fun s b c count timer e u retry hb ht he => ⟨fun hc hp hn => ?_, fun hc hp hn => ?_, fun hp => ?_⟩,
    fun s c count timer best hc ht => exec_takeWaitExpiry hc ht, fun s c count timer hc ht hgone => ?_⟩
  · simp only [← eligibleForCall_iff, not_and, Bool.not_eq_true]
    exact ⟨fun pre f post b hr hi ha hp hb => callTest_first hr hi ha hp hb.1 hb.2, callTest_idle⟩
  · have ha := (isApron_iff b).mpr ⟨u, retry, hp⟩
    rw [exec_callTimerExpiry hc ht, if_pos hn, apronBus_some hb ha]
    exact congrArg _ (makeCall_calls _ hb ha)
  · have ha := (isApron_iff b).mpr ⟨u, retry, hp⟩
    rw [exec_callTimerExpiry hc ht, if_neg (Nat.not_lt.mpr hn), endSeries_apron (apronBus_some hb ha)]
    rfl
  · exact exec_unplacedRetryExpiry hb hp he
  · have hnone := apronBus_none hgone
    rw [exec_callTimerExpiry hc ht]
    dsimp only
    split
    · rw [hnone]
      rfl
    · rw [endSeries_gone hnone]
      rfl
end

section
/-! SUPPORT. OFFER and TAKE heard (R74, R77 to R79). -/

namespace Sys2Proof.Machine

open Sys2Proof

variable {s : State}

/-! ### What a notice does to the offers and the takes (R74, R77) -/

theorem collectOffer_collected (sender caller seq cost : Nat) (s : State) :
    s.collectOffer sender caller seq cost = Claims.collected sender caller seq cost s := by
  unfold State.collectOffer Claims.collected
  refine congrArg (fun l => s.setAlloc { s.alloc with offers := l }) (List.map_congr_left fun o _ => ?_)
  simp only [Bool.and_eq_true, beq_iff_eq]
  refine if_congr Iff.rfl ?_ rfl
  cases o with
  | mk _ _ _ _ _ best =>
    cases best with
    | none => rfl
    | some b =>
      obtain ⟨c, t⟩ := b
      simp only [betterPair_iff, Claims.better]
      split <;> rfl
theorem losesTo_eq (x : SentTake) (own station caller seq cost : Nat) : x.losesTo own station caller seq cost =
    decide (x.caller = caller ∧ x.seq = seq ∧ x.watch.isSome = true ∧
      (cost < x.cost ∨ cost = x.cost ∧ station < own)) := by
  rw [Bool.eq_iff_iff]
  simp [SentTake.losesTo, betterPair_iff, and_assoc]
theorem deletions_cfg (bs : List Bus) (s : State) : (bs.foldl (fun t b => t.deleteBus b.id) s).cfg = s.cfg :=
  (foldl_keeps (fun t (b : Bus) => t.deleteBus b.id) (fun _ _ => deleteBus_keeps _ (Keeps.refl _)) bs (Keeps.refl s)).cfg
theorem compareTakes_yielded (sender caller seq cost : Nat) (s : State) :
    s.compareTakes sender caller seq cost = Claims.yielded sender caller seq cost s := by
  unfold State.compareTakes Claims.yielded State.lostTakes
  dsimp only
  simp only [List.foldl_map, losesTo_eq, deletions_cfg]
  rfl

/-! ### A TAKE for this node's call (R78, R79) -/

theorem callerTake_other {sender caller seq lane cost : Nat} (h : caller ≠ s.cfg.station) :
    s.callerTake sender caller seq lane cost = s := if_neg (by simpa using h)
/-- A TAKE that is not the first for this node's current call deletes no record. -/
theorem callerTake_later {sender seq lane cost : Nat} (h : ∀ c count timer, s.alloc.caller = .calling c count timer → c.seq ≠ seq) :
    s.callerTake sender s.cfg.station seq lane cost = Claims.shown sender seq lane cost s := by
  unfold State.callerTake
  rw [if_pos (by simp), ← takeForCall_shown]
  split
  · rename_i c count timer hc
    simp [State.takeForCall, hc, h c count timer hc]
  · rfl
  · rename_i hc
    simp only [State.takeForCall, hc]
/-- The first TAKE for this node's current call deletes the called record, where it stands on the apron still. -/
theorem callerTake_first {sender seq lane cost : Nat} {c : Call} {count timer : Nat}
    (hc : s.alloc.caller = .calling c count timer) (hs : c.seq = seq) :
    s.callerTake sender s.cfg.station seq lane cost = (s.apronBus c.fleet).elim
      (Claims.shown sender seq lane cost s) (fun b => (Claims.shown sender seq lane cost s).deleteBus b.id) := by
  unfold State.callerTake
  rw [if_pos (by simp), hc, ← takeForCall_shown]
  dsimp only
  rw [if_pos (by simpa using hs)]
  cases s.apronBus c.fleet <;> rfl

/-! ### The notices taken (R74, R77, R78) -/

section
variable {sender caller seq lane cost : Nat}

theorem exec_offer (h : Claims.heardFrom s sender) (hr : s.inRun = true) (h1 : 1 ≤ caller) (h2 : caller ≤ 31)
    (h3 : seq ≤ 255) (h4 : cost ≤ 4094) :
    exec (.offer sender caller seq cost) s = .next (Claims.collected sender caller seq cost s.frameEnded) := by
  obtain ⟨hh, hp⟩ := heardFrom_peer h
  rw [← collectOffer_collected]
  exact congrArg Host.Outcome.next
    ((hear_accepted hh (by simp [hp, okPeer, okByte, okCost, h1, h2, h3, h4])).trans (if_pos hr))
theorem exec_take (h : Claims.heardFrom s sender) (hr : s.inRun = true) (h1 : 1 ≤ caller) (h2 : caller ≤ 31)
    (h3 : seq ≤ 255) (h4 : 1 ≤ lane) (h5 : lane ≤ 8) (h6 : cost ≤ 4094) {t : State}
    (ht : (Claims.yielded sender caller seq cost (Claims.collected sender caller seq cost s.frameEnded)).callerTake
      sender caller seq lane cost = t) :
    exec (.take sender caller seq lane cost) s = .next (t.settle s.frameEnded []) := by
  obtain ⟨hh, hp⟩ := heardFrom_peer h
  rw [← ht, ← compareTakes_yielded, ← collectOffer_collected]
  exact congrArg Host.Outcome.next
    ((hear_accepted hh (by simp [hp, okPeer, okByte, okLane, okCost, h1, h2, h3, h4, h5, h6])).trans (if_pos hr))

end

end Sys2Proof.Machine

open Sys2Proof Sys2Proof.Machine

/-- Settles O25: the notices by `exec_offer` and `exec_take`, a TAKE for this node's own call by `callerTake_first` and
`callerTake_later`. -/
theorem offersAndTakesAreCollected : Obligations.OffersAndTakesAreCollected := by
  unfold Obligations.OffersAndTakesAreCollected
  intro s sender caller seq lane cost h hr h1 h2 h3 h4 h5 h6
  have hcfg : (Claims.yielded sender caller seq cost (Claims.collected sender caller seq cost s.frameEnded)).cfg = s.cfg := by
    rw [← compareTakes_yielded, ← collectOffer_collected]
    exact (compareTakes_keeps _ _ _ _ (collectOffer_keeps _ _ _ _ (frameEnded_keeps (Keeps.refl s)))).cfg
  refine ⟨exec_offer h hr h1 h2 h3 h6, fun hc => ?_, fun hc => ⟨fun hn => ?_, fun c count timer hcall hseq => ⟨fun b hb ha => ?_,
    fun hgone => ?_⟩⟩⟩
  · exact exec_take h hr h1 h2 h3 h4 h5 h6 (callerTake_other (by rwa [hcfg]))
  · refine exec_take h hr h1 h2 h3 h4 h5 h6 ?_
    rw [← callerTake_later hn, hcfg, ← hc]
  · refine exec_take h hr h1 h2 h3 h4 h5 h6 ?_
    have hf := callerTake_first (sender := sender) (lane := lane) (cost := cost) hcall hseq
    rwa [hcfg, ← hc, apronBus_some hb ha] at hf
  · refine exec_take h hr h1 h2 h3 h4 h5 h6 ?_
    have hf := callerTake_first (sender := sender) (lane := lane) (cost := cost) hcall hseq
    rwa [hcfg, ← hc, apronBus_none hgone] at hf
end

section
/-! SUPPORT. A clash of station numbers, and the entry to MUTE (R85, R102, R129, R151, R188, R191, R209, R212). -/

namespace Sys2Proof.Machine

open Sys2Proof

variable {s : State}

/-! ### What each block gives up on entry to MUTE -/

theorem unheld_lanes {t : State} (o : OfferRecord) (h : t.lanes = s.lanes) :
    (Claims.unheld o t).lanes = (Claims.unheld o s).lanes := by
  simp only [Claims.unheld, State.updateLane, State.setLanes_lanes, h]
/-- With one offer to each caller, dropping the offers of a list in turn releases the hold of each. -/
theorem dropOffers_unheld (os : List OfferRecord) : ∀ s t : State, t.lanes = s.lanes → t.alloc.offers = os →
    (os.map (·.caller)).Nodup → (os.map (·.caller)).foldl (fun t c => t.dropOffer c) t =
      (t.setLanes (os.foldl (fun t o => Claims.unheld o t) s).lanes).setAlloc { t.alloc with offers := [] } := by
  induction os with
  | nil =>
    intro s t hl ho _
    rw [List.map_nil, List.foldl_nil, List.foldl_nil, ← hl, ← ho]
    rfl
  | cons o os ih =>
    intro s t hl ho hn
    obtain ⟨hnot, hn⟩ := List.nodup_cons.mp hn
    have hd : t.dropOffer o.caller = Claims.unheld o (t.removeOffer o.caller) :=
      dropOffer_unheld (offerOf_first (pre := []) ho (by simp))
    have hrest : (Claims.unheld o (t.removeOffer o.caller)).alloc.offers = os := by
      show t.alloc.offers.filter (fun x => x.caller != o.caller) = os
      rw [ho, List.filter_cons_of_neg (by simp), List.filter_eq_self]
      intro x hx
      simpa using fun e : x.caller = o.caller => hnot (List.mem_map.mpr ⟨x, hx, e⟩)
    rw [List.map_cons, List.foldl_cons, hd,
      ih (Claims.unheld o s) (Claims.unheld o (t.removeOffer o.caller)) (unheld_lanes o hl) hrest hn]
    rfl
/-- Every offer dropped, its hold released (R85). -/
theorem dropAllOffers_unheld {t : State} (hl : t.lanes = s.lanes) (ha : t.alloc = s.alloc)
    (hn : (s.alloc.offers.map (·.caller)).Nodup) : t.dropAllOffers =
      (t.setLanes (s.alloc.offers.foldl (fun t o => Claims.unheld o t) s).lanes).setAlloc { s.alloc with offers := [] } := by
  unfold State.dropAllOffers
  rw [ha, dropOffers_unheld s.alloc.offers s t hl (by rw [ha]) hn, ha]
/-- Every take watch ended (R85). -/
theorem endWatches_unwatched (s : State) :
    s.endWatches = s.setBuses { s.buses with records := s.buses.records.map Claims.unwatched } := by
  refine congrArg (fun l => s.setBuses { s.buses with records := l }) (List.map_congr_left fun b _ => ?_)
  obtain ⟨id, fleet, kind, cls, place, washed, run, pullOut, route, need, hold, seq⟩ := b
  cases place with
  | transit lane start lost sent => cases sent <;> rfl
  | _ => rfl
theorem mutedRun_eq (r : Run) :
    { (if r.state == .claiming then r.fallBack else r) with refresh := none } = Claims.mutedRun r := by
  obtain ⟨run, pullOut, route, demand, allowance, state, ownMark, claim, best, heardOther, window, refresh, own⟩ := r
  cases state with
  | claiming => cases best <;> rfl
  | _ => rfl
/-- The order in execution is a RESTART. -/
def Order.isRestart (o : Order) : Bool := match o.work with | .restart _ => true | .survey _ _ => false
/-- The send queue emptied, and with it a RESTART whose answer waited there (R188, R209). -/
theorem emptyQueue_eq (s : State) : s.emptyQueue = { s with
    link := { s.link with urgent := [], other := [], sending := none, latch := false }
    order := if (s.link.urgent ++ s.link.other).any (·.ofRestart) then s.order.filter (fun o => !o.isRestart) else s.order } := by
  unfold State.emptyQueue
  dsimp only
  generalize (s.link.urgent ++ s.link.other).any (·.ofRestart) = held
  obtain ⟨now, node, clock, inputs, cfg, link, lanes, buses, wash, alloc, feeders, charging, runs, departures, order, alerts,
    pending⟩ := s
  cases order with
  | none => cases held <;> rfl
  | some o =>
    obtain ⟨station, tag, work⟩ := o
    cases work <;> cases held <;> rfl

/-! ### The entry to MUTE -/

theorem enterMute_muted (hn : (s.alloc.offers.map (·.caller)).Nodup) : s.enterMute = Claims.muted s := by
  unfold State.enterMute
  dsimp only
  rw [dropAllOffers_unheld (s := s) (hl := ?_) (ha := ?_) hn, endWatches_unwatched, emptyQueue_eq]
  · simp only [mutedRun_eq]
    rfl
  · rfl
  · rfl

/-! ### A clash heard (R191) -/

theorem clash_mute (h : s.node.state = .mute) : s.clash = s := if_neg (by simp [State.listenOrRun, h])
theorem clash_muted (h : s.listenOrRun = true) (hn : (s.alloc.offers.map (·.caller)).Nodup) :
    s.clash = (Claims.muted s).settle s [] := by
  unfold State.clash
  rw [if_pos h, enterMute_muted hn]
theorem okKilowatts_groups {x : PerGroup Nat} (h : ∀ g, groupGet x g ≤ 4000) :
    okKilowatts x.a = true ∧ okKilowatts x.b = true ∧ okKilowatts x.c = true :=
  ⟨decide_eq_true (h .a), decide_eq_true (h .b), decide_eq_true (h .c)⟩
theorem exec_roll_own {d : Description} {x : PerGroup Nat} (ask : Bool) (h : Claims.hearing s) (hs : s.cfg.station ≤ 31)
    (h1 : 1 ≤ d.lanes) (h2 : d.lanes ≤ 8) (h3 : 1 ≤ d.berths) (h4 : d.berths ≤ 48) (h5 : d.chargers ≤ 48)
    (hx : ∀ g, groupGet x g ≤ 4000) :
    exec (.roll s.cfg.station ask d.wash d.bypass d.lanes d.berths d.chargers x.a x.b x.c) s = .next s.frameEnded.clash := by
  refine congrArg Host.Outcome.next ((hear_accepted (takesFrame_of_hearing h) ?_).trans (if_pos (by simp)))
  simp [okStation, okLane, hs, h1, h2, h3, h4, h5, okKilowatts_groups hx]
theorem exec_draw_own {x y : PerGroup Nat} (h : Claims.hearing s) (hs : s.cfg.station ≤ 31)
    (hx : ∀ g, groupGet x g ≤ 4000) (hy : ∀ g, groupGet y g ≤ 4000) :
    exec (.draw s.cfg.station x.a x.b x.c y.a y.b y.c) s = .next s.frameEnded.clash := by
  refine congrArg Host.Outcome.next ((hear_accepted (takesFrame_of_hearing h) ?_).trans (if_pos (by simp)))
  simp [okStation, hs, okKilowatts_groups hx, okKilowatts_groups hy]

end Sys2Proof.Machine

open Sys2Proof Sys2Proof.Machine

/-- Settles O34: a ROLL and a DRAW of the own number are one clash, and the entry to MUTE is `enterMute_muted`. -/
theorem stationClashMutesTheNode : Obligations.StationClashMutesTheNode := by
  unfold Obligations.StationClashMutesTheNode
  intro s ask d x y h hs hn h1 h2 h3 h4 h5 hxy
  dsimp only
  rw [exec_roll_own ask h hs h1 h2 h3 h4 h5 fun g => (hxy g).1]
  exact ⟨exec_draw_own h hs (fun g => (hxy g).1) fun g => (hxy g).2, fun hm => congrArg _ (clash_mute hm),
    fun hr => congrArg _ (clash_muted hr hn)⟩
end

section
/-! SUPPORT. The figures of a feeder group: its effective cap, its available figure, and its totals (R88, R90, R95, R97). -/

namespace Sys2Proof.Machine

open Sys2Proof

variable {s : State}

theorem effectiveCap_eq (s : State) (g : Group) : s.effectiveCap g =
    (if (groupGet s.feeders.groups g).state = .unknown ∨ (groupGet s.feeders.groups g).state = .told .shed
      then (groupGet s.cfg.groups g).shedCap else (groupGet s.cfg.groups g).cap) *
    (if (groupGet s.feeders.groups g).hot = true then min (groupGet s.cfg.groups g).duty (groupGet s.cfg.groups g).hotDuty
      else (groupGet s.cfg.groups g).duty) / 16 := by
  unfold State.effectiveCap
  dsimp only
  generalize (groupGet s.feeders.groups g).state = state
  cases state with
  | unknown => rfl
  | told st => cases st <;> rfl
/-- A cap of at most 4 000 kW under a duty of at most 16 sixteenths stays one (R90). -/
theorem capped_duty {base duty : Nat} (hb : base ≤ 4000) (hd : duty ≤ 16) : base * duty / 16 ≤ 4000 :=
  Nat.div_le_of_le_mul ((Nat.mul_le_mul hb hd).trans (by decide))

end Sys2Proof.Machine

open Sys2Proof Sys2Proof.Machine

/-- Settles O30: the model's `match` on the state is the statement's test of it. -/
theorem effectiveCapFollowsStateAndHeat : Obligations.EffectiveCapFollowsStateAndHeat := by
  unfold Obligations.EffectiveCapFollowsStateAndHeat
  intro s g
  dsimp only
  rw [effectiveCap_eq]
  exact ⟨rfl, capped_duty⟩
end

section
/-! SUPPORT. The grants of the groups and the cuts to them: what each leaves of the state (R97, R98, R101). -/

namespace Sys2Proof.Machine

open Sys2Proof

variable {s : State}

theorem expired_some {now e : Nat} {timer : Option Nat} (h : timer = some e) (he : e ≤ now) : expired now timer = true := by
  subst h
  exact decide_eq_true he

/-- The end of a plan hold, for one charger: its planned target taken (R101). -/
theorem endHold_eq (expiry : Nat) (c : Charger) : c.endHold expiry =
    let taken := if c.target < c.planned then
        { c with target := c.planned, ramp := if c.present < c.planned then some expiry else none }
      else if c.planned < c.target then Claims.lowered c.planned c else c
    if taken.figures.isSome ∧ taken.phase = .connected then
      { taken with turnAge := if taken.target = 0 then min (taken.turnAge + 1) 255 else 0 } else taken := by
  unfold Charger.endHold Charger.ages
  simp only [lowerTo_lowered, Charger.raiseTo, Bool.and_eq_true, beq_iff_eq]
theorem setGrants_granted (s : State) (figure : Group → Nat) :
    ((s.setGrant .a (figure .a)).setGrant .b (figure .b)).setGrant .c (figure .c) = Claims.granted figure s := rfl
/-- The plans cut to the grants leave the timebase and the configuration (R101). -/
theorem cutPlans_calm (s : State) : (((s.cutPlan .a).cutPlan .b).cutPlan .c).now = s.now ∧
    (((s.cutPlan .a).cutPlan .b).cutPlan .c).cfg = s.cfg := by
  have k := cutPlan_keeps .c (cutPlan_keeps .b (cutPlan_keeps .a (Keeps.refl s)))
  exact ⟨k.now, k.cfg⟩

end Sys2Proof.Machine

open Sys2Proof Sys2Proof.Machine

/-- Settles O28: the boundary is `takeBoundary_turned`; at the end of a hold each charger is as `endHold_eq` says. -/
theorem turnBoundaryAndPlanHold : Obligations.TurnBoundaryAndPlanHold := by
  unfold Obligations.TurnBoundaryAndPlanHold
  refine ⟨fun s e hr hb he => ?_, fun s e hr hp he => ?_⟩
  · show execTurnBoundary s = _
    unfold execTurnBoundary
    rw [if_pos (by simp [hr, expired_some hb he]), takeBoundary_turned]
  · show execPlanHoldExpiry s = _
    unfold execPlanHoldExpiry
    rw [if_pos (by simp [hr, expired_some hp he])]
    unfold State.endPlanHold
    dsimp only
    generalize hs : s.setFeeders { s.feeders with planHold := none } = t
    have ha : t.available = s.available := hs ▸ rfl
    obtain ⟨hnow, hcfg⟩ := cutPlans_calm (Claims.granted t.available t)
    rw [setGrants_granted, hnow, hcfg, ← ha]
    subst hs
    rw [funext (endHold_eq _)]
    rfl
end

section
/-! SUPPORT. The available figure, the fall of the grants, and the cut procedure (R95, R97, R98). -/

namespace Sys2Proof.Machine

open Sys2Proof

variable {s : State}

/-! ### The available figure (R95, R97) -/

theorem assumed_eq (e : StationEntry) (g : Group) : e.assumed g =
    if e.fresh = none then groupGet e.maxima g else max (groupGet e.committed g) (groupGet e.planned g) := by
  unfold StationEntry.assumed
  cases e.fresh <;> rfl
theorem available_eq (s : State) (g : Group) : s.available g = Claims.figure s g := by
  unfold State.available Claims.figure State.peerSum
  simp only [State.inRun, beq_iff_eq, clamp_eq (Nat.zero_le _), Nat.zero_max, assumed_eq]

/-! ### Grants set and charges cut do not meet (R97) -/

/-- Setting a grant leaves the state of every group as it stands. -/
theorem setGrant_groupState (g : Group) (n : Nat) (s : State) : (s.setGrant g n).groupState = s.groupState :=
  funext fun h => by cases g <;> cases h <;> rfl
theorem setGrant_drawingGroup (g : Group) (n : Nat) (s : State) : (s.setGrant g n).drawingGroup = s.drawingGroup :=
  funext fun c => congrArg (drawingUnder · c.mask) (setGrant_groupState g n s)
theorem setGrant_available (g : Group) (n : Nat) (s : State) : (s.setGrant g n).available = s.available :=
  funext fun h => by cases g <;> cases h <;> rfl
theorem setGrant_committed (g : Group) (n : Nat) (s : State) : (s.setGrant g n).committed = s.committed := by
  funext h
  unfold State.committed State.drawers
  rw [setGrant_drawingGroup]
  rfl
theorem setGrant_grant (g h : Group) (n : Nat) (s : State) : (s.setGrant g n).grant h = if h = g then n else s.grant h := by
  cases g <;> cases h <;> rfl
theorem cutOver_setGrant (value : Charger → Nat) (apply : Nat → Charger → Charger) (g h : Group) (n : Nat) (bs : List Nat) :
    ∀ (x : Nat) (s : State), State.cutOver value apply g bs x (s.setGrant h n) = (State.cutOver value apply g bs x s).setGrant h n := by
  induction bs with
  | nil => exact fun _ _ => rfl
  | cons b bs ih =>
    intro x s
    have hc : (s.setGrant h n).chargerOf b = s.chargerOf b := rfl
    unfold State.cutOver
    rw [hc, setGrant_drawingGroup]
    split
    · rfl
    · cases s.chargerOf b with
      | none => exact ih x s
      | some c =>
        dsimp only
        split
        · exact ih _ (s.updateCharger b _)
        · exact ih x s
/-- The plans of a group's chargers announce no more than is committed: the second step of a cut (log 14). -/
def State.capPlans (s : State) (g : Group) (t : State) : State :=
  t.setCharging { t.charging with chargers := t.charging.chargers.map (fun c =>
    if s.drawingGroup c = g then { c with planned := min c.planned c.target } else c) }

theorem cutGroup_within {g : Group} (h : s.committed g ≤ s.grant g) : s.cutGroup g = s := if_neg (Nat.not_lt.mpr h)
theorem cutGroup_beyond {g : Group} (h : s.grant g < s.committed g) : s.cutGroup g = s.capPlans g
    (State.cutOver (·.target) Charger.lowerTo g s.charging.order.reverse (s.committed g - s.grant g) s) := by
  unfold State.cutGroup State.capPlans
  rw [if_pos h]
  obtain ⟨c, hc⟩ := cutOver_only (·.target) Charger.lowerTo g s.charging.order.reverse (s.committed g - s.grant g) s
  rw [hc]
  simp only [beq_iff_eq]
  rfl
/-- The cut of one group meets no grant of another. -/
theorem cutGroup_setGrant {g h : Group} (hn : g ≠ h) (n : Nat) (s : State) :
    (s.setGrant h n).cutGroup g = (s.cutGroup g).setGrant h n := by
  have hc : (s.setGrant h n).committed g = s.committed g := congrFun (setGrant_committed h n s) g
  have hg : (s.setGrant h n).grant g = s.grant g := (setGrant_grant h g n s).trans (if_neg hn)
  rcases Nat.lt_or_ge (s.grant g) (s.committed g) with hlt | hge
  · rw [cutGroup_beyond hlt, cutGroup_beyond (by rwa [hc, hg]), hc, hg, cutOver_setGrant]
    unfold State.capPlans
    rw [setGrant_drawingGroup]
    rfl
  · rw [cutGroup_within hge, cutGroup_within (by rwa [hc, hg])]
theorem cutGroup_available (g : Group) (s : State) : (s.cutGroup g).available = s.available := by
  obtain ⟨c, h⟩ := cutGroup_only g s
  rw [h]
  rfl
theorem cutGroup_grant (g : Group) (s : State) : (s.cutGroup g).grant = s.grant := by
  obtain ⟨c, h⟩ := cutGroup_only g s
  rw [h]
  rfl
/-- The three grants fall first, and the groups are then cut in turn: the cut of one does not touch the figure or the grant of
the next. -/
theorem followGrants_granted (s : State) : s.followGrants =
    (((Claims.granted (fun g => min (s.grant g) (s.available g)) s).cutGroup .a).cutGroup .b).cutGroup .c := by
  unfold State.followGrants State.followGrant
  simp only [cutGroup_available, cutGroup_grant, setGrant_available, setGrant_grant, reduceCtorEq, if_false]
  rw [← cutGroup_setGrant (by decide), ← cutGroup_setGrant (by decide), ← cutGroup_setGrant (by decide)]
  rfl
theorem followGrants_grant (g : Group) (s : State) : s.followGrants.grant g = min (s.grant g) (s.available g) := by
  rw [followGrants_granted, cutGroup_grant, cutGroup_grant, cutGroup_grant]
  cases g <;> rfl

theorem followGrants_within (h : ∀ g, s.committed g ≤ min (s.grant g) (s.available g)) :
    s.followGrants.charging = s.charging := by
  have hc : (Claims.granted (fun g => min (s.grant g) (s.available g)) s).committed = s.committed := by
    rw [← setGrants_granted, setGrant_committed, setGrant_committed, setGrant_committed]
  have hw : ∀ g, (Claims.granted (fun g => min (s.grant g) (s.available g)) s).committed g ≤
      (Claims.granted (fun g => min (s.grant g) (s.available g)) s).grant g := fun g => by
    rw [hc]
    cases g <;> exact h _
  rw [followGrants_granted, cutGroup_within (hw .a), cutGroup_within (hw .b), cutGroup_within (hw .c)]
  rfl

/-! ### The cut procedure (R98) -/

theorem cutValue_cutTo (pmin v x : Nat) : cutValue pmin v x = Claims.cutTo pmin v x := by
  unfold cutValue Claims.cutTo
  split <;> split <;> omega
section
variable (value : Charger → Nat) (apply : Nat → Charger → Charger) (g : Group) (b : Nat) (bs : List Nat) (x : Nat)

theorem cutOver_done (s : State) : State.cutOver value apply g bs 0 s = s := by cases bs <;> rfl
theorem cutOver_missing (hx : 0 < x) (h : s.chargerOf b = none) :
    State.cutOver value apply g (b :: bs) x s = State.cutOver value apply g bs x s := by
  rw [State.cutOver, if_neg (by simpa using hx.ne'), h]
theorem cutOver_cut (hx : 0 < x) {c : Charger} (h : s.chargerOf b = some c) (hg : s.drawingGroup c = g) (hv : 0 < value c) :
    State.cutOver value apply g (b :: bs) x s = State.cutOver value apply g bs
      (x - (value c - Claims.cutTo c.conf.pmin (value c) x)) (s.updateCharger b (apply (Claims.cutTo c.conf.pmin (value c) x))) := by
  rw [State.cutOver, if_neg (by simpa using hx.ne'), h]
  dsimp only
  rw [if_pos (by simp [hg, hv]), cutValue_cutTo]
theorem cutOver_passed (hx : 0 < x) {c : Charger} (h : s.chargerOf b = some c) (hg : s.drawingGroup c ≠ g ∨ value c = 0) :
    State.cutOver value apply g (b :: bs) x s = State.cutOver value apply g bs x s := by
  rw [State.cutOver, if_neg (by simpa using hx.ne'), h]
  dsimp only
  rw [if_neg (by rcases hg with hg | hg <;> simp [hg])]
end
theorem cutOver_cutsOn (value : Charger → Nat) (apply : Nat → Charger → Charger) (g : Group) : Claims.cutsOn value apply g :=
  fun _ b bs x => ⟨rfl, rfl, fun _ hx hc => ⟨cutOver_cut value apply g b bs x hx hc, cutOver_passed value apply g b bs x hx hc⟩,
    cutOver_missing value apply g b bs x⟩

/-! ### What a cut of the targets leaves (R98) -/

/-- A charger as a cut of the targets of group `g` leaves it, `draw` giving the drawing groups. -/
structure CutFrom (draw : Charger → Group) (g : Group) (old c : Charger) : Prop where
  berth : c.berth = old.berth
  conf : c.conf = old.conf
  group : draw c = draw old
  other : draw old ≠ g → c = old
  target : c.target = old.target ∨ c.target = 0 ∨ c.conf.pmin ≤ c.target ∧ c.target < old.target

theorem CutFrom.refl (draw : Charger → Group) (g : Group) (c : Charger) : CutFrom draw g c c :=
  ⟨rfl, rfl, rfl, fun _ => rfl, .inl rfl⟩
theorem CutFrom.trans {draw : Charger → Group} {g : Group} {a b c : Charger} (h : CutFrom draw g a b) (k : CutFrom draw g b c) :
    CutFrom draw g a c where
  berth := k.berth.trans h.berth
  conf := k.conf.trans h.conf
  group := k.group.trans h.group
  other hg := (k.other (by rwa [h.group])).trans (h.other hg)
  target := by
    have ht := h.target
    have kt := k.target
    rw [k.conf] at kt ⊢
    omega
/-- A charger cut by an excess `x`. -/
theorem CutFrom.lowerTo {g : Group} {c : Charger} {x : Nat} (hg : s.drawingGroup c = g) (hx : 0 < x) (ht : 0 < c.target) :
    CutFrom s.drawingGroup g c (c.lowerTo (Claims.cutTo c.conf.pmin c.target x)) where
  berth := rfl
  conf := rfl
  group := rfl
  other h := absurd hg h
  target := by
    show Claims.cutTo c.conf.pmin c.target x = _ ∨ Claims.cutTo c.conf.pmin c.target x = 0 ∨
      c.conf.pmin ≤ Claims.cutTo c.conf.pmin c.target x ∧ Claims.cutTo c.conf.pmin c.target x < _
    unfold Claims.cutTo
    split <;> omega
theorem berth_ne {pre post : List Charger} {c : Charger} (hs : s.charging.chargers = pre ++ c :: post)
    (hn : (s.charging.chargers.map (·.berth)).Nodup) : ∀ d ∈ pre ++ post, d.berth ≠ c.berth := fun d hd e => by
  rw [hs, List.map_append, List.map_cons, List.nodup_middle, List.nodup_cons, ← List.map_append] at hn
  exact hn.1 (List.mem_map.mpr ⟨d, hd, e⟩)
/-- One charger changed, where berths are distinct. -/
theorem updateCharger_split {pre post : List Charger} {c : Charger} (f : Charger → Charger)
    (hs : s.charging.chargers = pre ++ c :: post) (hn : (s.charging.chargers.map (·.berth)).Nodup) :
    (s.updateCharger c.berth f).charging.chargers = pre ++ f c :: post := by
  have hother : ∀ l : List Charger, (∀ d ∈ l, d ∈ pre ++ post) → l.map (fun d => if d.berth == c.berth then f d else d) = l :=
    fun l hl => (List.map_congr_left fun d hd => if_neg (by simpa using berth_ne hs hn d (hl d hd))).trans (List.map_id l)
  show s.charging.chargers.map _ = _
  rw [hs, List.map_append, List.map_cons, hother pre fun d => List.mem_append_left post,
    hother post fun d => List.mem_append_right pre, if_pos (by simp)]
theorem chargerOf_split {b : Nat} {c : Charger} (h : s.chargerOf b = some c) :
    c.berth = b ∧ ∃ pre post, s.charging.chargers = pre ++ c :: post :=
  ⟨by simpa using List.find?_some h, List.append_of_mem (List.mem_of_find?_eq_some h)⟩
/-- The committed total apart from one charger that draws from the group. -/
theorem committed_split {pre post : List Charger} {c : Charger} {g : Group} (hs : s.charging.chargers = pre ++ c :: post)
    (hg : s.drawingGroup c = g) : s.committed g =
      ((pre.filter (fun d => s.drawingGroup d == g)).map (·.target)).sum + c.target +
      ((post.filter (fun d => s.drawingGroup d == g)).map (·.target)).sum := by
  unfold State.committed State.drawers
  rw [hs, List.filter_append, List.filter_cons_of_pos (by simpa using hg)]
  simp [Nat.add_assoc]
theorem committed_zero {g : Group} (h : ∀ c ∈ s.charging.chargers, s.drawingGroup c = g → c.target = 0) : s.committed g = 0 :=
  List.sum_eq_zero fun n hn => by
    obtain ⟨c, hc, rfl⟩ := List.mem_map.mp hn
    obtain ⟨hc, hg⟩ := List.mem_filter.mp hc
    exact h c hc (by simpa using hg)

/-- Every charger that holds power of the group is in a list. -/
def HeldBy (s : State) (g : Group) (bs : List Nat) : Prop :=
  ∀ c ∈ s.charging.chargers, s.drawingGroup c = g → 0 < c.target → c.berth ∈ bs

theorem HeldBy.tail {g : Group} {b : Nat} {bs : List Nat} (h : HeldBy s g (b :: bs))
    (hb : ∀ c ∈ s.charging.chargers, s.drawingGroup c = g → c.berth = b → c.target = 0) : HeldBy s g bs := fun c hc hg ht =>
  (List.mem_cons.mp (h c hc hg ht)).resolve_left fun e => ht.ne' (hb c hc hg e)

theorem HeldBy.cut {u : State} {g : Group} {bs : List Nat} (h : HeldBy s g bs) (hdraw : u.drawingGroup = s.drawingGroup)
    (hfrom : ∀ c ∈ u.charging.chargers, ∃ old ∈ s.charging.chargers, CutFrom s.drawingGroup g old c) : HeldBy u g bs := by
  intro c hc hg ht
  obtain ⟨old, hold, hcut⟩ := hfrom c hc
  rw [hdraw, hcut.group] at hg
  rw [hcut.berth]
  exact h old hold hg (by have := hcut.target; omega)

/-- One charger of the group cut by an excess `x`: the others stand, and the committed total falls by what it lost. -/
theorem cut_one {g : Group} {c : Charger} {v x : Nat} (hb : s.chargerOf c.berth = some c)
    (hn : (s.charging.chargers.map (·.berth)).Nodup) (hg : s.drawingGroup c = g) (hx : 0 < x) (ht : 0 < c.target)
    (hv : Claims.cutTo c.conf.pmin c.target x = v) {u : State} (hu : s.updateCharger c.berth (Charger.lowerTo v) = u) :
    (u.charging.chargers.map (·.berth)).Nodup ∧ u.committed g + c.target = s.committed g + v ∧
    (∀ d ∈ u.charging.chargers, d.berth = c.berth → d.target = v) ∧
    ∀ d ∈ u.charging.chargers, ∃ old ∈ s.charging.chargers, CutFrom s.drawingGroup g old d := by
  obtain ⟨-, pre, post, hs⟩ := chargerOf_split hb
  have hcut := CutFrom.lowerTo hg hx ht
  have hu' := hu ▸ updateCharger_split (Charger.lowerTo v) hs hn
  have hdraw : u.drawingGroup = s.drawingGroup := hu ▸ rfl
  rw [hv] at hcut
  have hmem : ∀ d ∈ u.charging.chargers, d ∈ pre ++ post ∨ d = c.lowerTo v := fun d hd => by
    rw [hu'] at hd
    simp only [List.mem_append, List.mem_cons] at hd ⊢
    tauto
  refine ⟨?_, ?_, fun d hd e => ?_, fun d hd => ?_⟩
  · rw [hs] at hn
    simpa [hu', hcut.berth] using hn
  · have h := committed_split hs hg
    have h' := committed_split hu' ((congrFun hdraw _).trans (hcut.group.trans hg))
    have hlow : (c.lowerTo v).target = v := rfl
    rw [hdraw] at h'
    omega
  · rcases hmem d hd with h | rfl
    · exact absurd e (berth_ne hs hn d h)
    · rfl
  · rcases hmem d hd with h | rfl
    · refine ⟨d, ?_, CutFrom.refl _ g d⟩
      rw [hs]
      simp only [List.mem_append, List.mem_cons] at h ⊢
      tauto
    · exact ⟨c, by simp [hs], hcut⟩
/-- The cut procedure over chargers that hold all the power of the group takes the excess off, each charger cut from what it
was. -/
theorem cutOver_targets (g : Group) (bs : List Nat) : ∀ (x : Nat) (s : State), (s.charging.chargers.map (·.berth)).Nodup →
    HeldBy s g bs →
    (State.cutOver (·.target) Charger.lowerTo g bs x s).committed g ≤ s.committed g - x ∧
    ∀ c ∈ (State.cutOver (·.target) Charger.lowerTo g bs x s).charging.chargers, ∃ old ∈ s.charging.chargers,
      CutFrom s.drawingGroup g old c := by
  have same : ∀ (s : State), ∀ c ∈ s.charging.chargers, ∃ old ∈ s.charging.chargers, CutFrom s.drawingGroup g old c :=
    fun s c hc => ⟨c, hc, CutFrom.refl _ g c⟩
  induction bs with
  | nil =>
    intro x s _ hp
    have hz : s.committed g = 0 := committed_zero fun c hc hg => Nat.eq_zero_of_not_pos fun ht => by simpa using hp c hc hg ht
    exact ⟨hz.le.trans (Nat.zero_le _), same s⟩
  | cons b bs ih =>
    intro x s hn hp
    rcases Nat.eq_zero_or_pos x with rfl | hx
    · exact ⟨le_rfl, same s⟩
    cases hb : s.chargerOf b with
    | none =>
      rw [cutOver_missing (·.target) Charger.lowerTo g _ _ _ hx hb]
      exact ih x s hn (hp.tail fun c hc _ e => absurd e (by simpa using List.find?_eq_none.mp hb c hc))
    | some c =>
      obtain ⟨rfl, pre, post, hs⟩ := chargerOf_split hb
      by_cases hcut : s.drawingGroup c = g ∧ 0 < c.target
      · obtain ⟨hg, ht⟩ := hcut
        rw [cutOver_cut (·.target) Charger.lowerTo g _ _ _ hx hb hg ht]
        generalize hv : Claims.cutTo c.conf.pmin c.target x = v
        generalize hu : s.updateCharger c.berth (Charger.lowerTo v) = u
        obtain ⟨hn', hcom, hval, hfrom⟩ := cut_one hb hn hg hx ht hv hu
        have hdraw : u.drawingGroup = s.drawingGroup := hu ▸ rfl
        unfold Claims.cutTo at hv
        split at hv
        · rw [show x - (c.target - v) = 0 by omega, cutOver_done]
          exact ⟨by omega, hfrom⟩
        · have hp' : HeldBy u g bs := (HeldBy.cut hp hdraw hfrom).tail fun d hd _ e => (hval d hd e).trans hv.symm
          obtain ⟨hle, hrest⟩ := ih (x - (c.target - v)) u hn' hp'
          refine ⟨by omega, fun d hd => ?_⟩
          obtain ⟨mid, hmid, hd⟩ := hrest d hd
          obtain ⟨old, hold, hm⟩ := hfrom mid hmid
          exact ⟨old, hold, hm.trans (hdraw ▸ hd)⟩
      · rw [cutOver_passed (·.target) Charger.lowerTo g _ _ _ hx hb (by rcases not_and_or.mp hcut with h | h; exacts [.inl h, .inr (by omega)])]
        refine ih x s hn (hp.tail fun d hd hg e => Nat.eq_zero_of_not_pos fun ht => ?_)
        have hd' : d = c := List.inj_on_of_nodup_map hn hd (List.mem_of_find?_eq_some hb) e
        exact hcut (hd' ▸ ⟨hg, ht⟩)

theorem map_totals {α : Type} {p : α → Bool} {w : α → Nat} {f : α → α} (hp : ∀ x, p (f x) = p x) (hw : ∀ x, w (f x) = w x)
    (l : List α) : ((l.map f).filter p).map w = (l.filter p).map w := by
  simp only [List.filter_map, Function.comp_def, hp, List.map_map, hw]
/-- Capping the plans changes no target. -/
theorem capPlans_committed (g h : Group) (t : State) :
    (s.capPlans g t).committed h = t.committed h := by
  refine congrArg List.sum (map_totals (fun c => ?_) (fun c => ?_) t.charging.chargers)
  · show (t.drawingGroup _ == h) = (t.drawingGroup c == h)
    split <;> rfl
  · split <;> rfl
theorem CutFrom.capPlan {g : Group} (c : Charger) : CutFrom s.drawingGroup g c
    (if s.drawingGroup c = g then { c with planned := min c.planned c.target } else c) := by
  split
  · exact ⟨rfl, rfl, rfl, fun h => absurd ‹_› h, .inl rfl⟩
  · exact CutFrom.refl _ g c
/-- A cut that caps the plans too: the group is within its grant, and each charger cut from what it was. -/
theorem cutGroup_targets {g : Group} (hn : (s.charging.chargers.map (·.berth)).Nodup) (hp : HeldBy s g s.charging.order) :
    (s.cutGroup g).committed g ≤ s.grant g ∧ ∀ c ∈ (s.cutGroup g).charging.chargers, ∃ old ∈ s.charging.chargers,
      CutFrom s.drawingGroup g old c := by
  rcases Nat.lt_or_ge (s.grant g) (s.committed g) with hlt | hge
  · rw [cutGroup_beyond hlt]
    obtain ⟨hle, hfrom⟩ := cutOver_targets g s.charging.order.reverse (s.committed g - s.grant g) s hn fun c hc hg ht =>
      List.mem_reverse.mpr (hp c hc hg ht)
    obtain ⟨k, hk⟩ := cutOver_only (·.target) Charger.lowerTo g s.charging.order.reverse (s.committed g - s.grant g) s
    rw [hk] at hle hfrom ⊢
    rw [capPlans_committed]
    refine ⟨by omega, fun c hc => ?_⟩
    obtain ⟨d, hd, rfl⟩ := List.mem_map.mp hc
    obtain ⟨old, hold, hcut⟩ := hfrom d hd
    exact ⟨old, hold, hcut.trans (CutFrom.capPlan d)⟩
  · rw [cutGroup_within hge]
    exact ⟨hge, fun c hc => ⟨c, hc, CutFrom.refl _ g c⟩⟩

end Sys2Proof.Machine

open Sys2Proof Sys2Proof.Machine

/-- Settles O31: the grants fall first and the cuts follow (`followGrants_granted`), each cut is the procedure of
`cutOver_cutsOn`, and what it leaves is `cutGroup_targets`. -/
theorem grantsFallAndCutTheTargets : Obligations.GrantsFallAndCutTheTargets := by
  unfold Obligations.GrantsFallAndCutTheTargets
  refine ⟨fun s g => ⟨available_eq s g, rfl, rfl⟩, lowerTo_lowered,
    fun s => ⟨followGrants_granted s, fun g => followGrants_grant g s, followGrants_within⟩,
    fun g => ⟨cutOver_cutsOn _ _ g, cutOver_cutsOn _ _ g⟩,
    fun s g => ⟨cutGroup_within, cutGroup_beyond, rfl⟩, fun s g hn _ hp => ?_⟩
  obtain ⟨hle, hfrom⟩ := cutGroup_targets hn hp
  refine ⟨hle, fun c hc => ?_⟩
  obtain ⟨old, hold, h⟩ := hfrom c hc
  exact ⟨old, hold, h.berth, h.conf, h.other, h.target⟩
end

section
/-! SUPPORT. Effective state, drawing group and ceiling of a charger, and what a change of them does to it (R114 to R119). -/

namespace Sys2Proof.Machine

open Sys2Proof

variable {s : State}

/-! ### Effective state, drawing group, ceiling (R114, R117) -/

theorem groupState_eq (s : State) : s.groupState = Claims.groupIs s := by
  funext g
  unfold State.groupState Claims.groupIs GroupState.effective
  cases (groupGet s.feeders.groups g).state <;> rfl
theorem morePermissive_opened (x y : FeederState) : morePermissive x y = .opened ↔ x = .opened ∨ y = .opened := by
  cases x <;> cases y <;> decide
theorem morePermissive_shed (x y : FeederState) : morePermissive x y = .shed ↔ x = .shed ∧ y = .shed := by
  cases x <;> cases y <;> decide
theorem foldl_opened (st : Group → FeederState) (gs : List Group) : ∀ acc,
    gs.foldl (fun acc g => morePermissive acc (st g)) acc = .opened ↔ acc = .opened ∨ ∃ g ∈ gs, st g = .opened := by
  induction gs with
  | nil => simp
  | cons g gs ih => simp [ih, morePermissive_opened, or_assoc]
theorem foldl_shed (st : Group → FeederState) (gs : List Group) : ∀ acc,
    gs.foldl (fun acc g => morePermissive acc (st g)) acc = .shed ↔ acc = .shed ∧ ∀ g ∈ gs, st g = .shed := by
  induction gs with
  | nil => simp
  | cons g gs ih => simp [ih, morePermissive_shed, and_assoc]
theorem mem_maskGroups (m : Mask) (p : Group → Prop) : (∃ g ∈ allGroups.filter (groupGet m), p g) ↔
    m.a = true ∧ p .a ∨ m.b = true ∧ p .b ∨ m.c = true ∧ p .c := by
  simp only [List.mem_filter, allGroups, List.mem_cons, List.not_mem_nil, or_false, and_assoc, or_and_right, exists_or,
    exists_eq_left, groupGet]
/-- The most permissive state among the groups of a mask (R114). -/
theorem effectiveUnder_eq (st : Group → FeederState) (m : Mask) : effectiveUnder st m = Claims.effective st m := by
  have hopened := foldl_opened st (allGroups.filter (groupGet m)) .shed
  have hshed := foldl_shed st (allGroups.filter (groupGet m)) .shed
  rw [mem_maskGroups] at hopened
  unfold Claims.effective
  dsimp only
  split
  · exact hopened.mpr (.inr ‹_›)
  · rename_i hno
    have hne : effectiveUnder st m ≠ .opened := fun h => hno ((hopened.mp h).resolve_left nofun)
    split
    · rename_i hp
      obtain ⟨g, hg, hp⟩ := (mem_maskGroups m (fun g => st g = .peak)).mpr hp
      have hns : effectiveUnder st m ≠ .shed := fun h => nomatch hp.symm.trans ((hshed.mp h).2 g hg)
      cases h : effectiveUnder st m with
      | opened => exact absurd h hne
      | peak => rfl
      | shed => exact absurd h hns
    · rename_i hp
      refine hshed.mpr ⟨rfl, fun g hg => ?_⟩
      cases h : st g with
      | opened => exact absurd ((mem_maskGroups m (fun g => st g = .opened)).mp ⟨g, hg, h⟩) hno
      | peak => exact absurd ((mem_maskGroups m (fun g => st g = .peak)).mp ⟨g, hg, h⟩) hp
      | shed => rfl
theorem find?_allGroups (p : Group → Bool) : (allGroups.find? p).getD .a =
    if p .a = true then .a else if p .b = true then .b else if p .c = true then .c else .a := by
  unfold allGroups
  simp only [List.find?_cons, List.find?_nil]
  cases p .a <;> cases p .b <;> cases p .c <;> rfl
theorem drawingUnder_eq (st : Group → FeederState) (m : Mask) : drawingUnder st m = Claims.drawn st m := by
  unfold drawingUnder Claims.drawn
  rw [effectiveUnder_eq, find?_allGroups]
  simp only [groupGet, Bool.and_eq_true, beq_iff_eq]
theorem ceilingIn_eq (c : ChargerConfig) (st : FeederState) : ceilingIn c st = Claims.top c st := by
  unfold ceilingIn Claims.top
  cases st with
  | opened => rfl
  | peak => cases c.peak <;> rfl
  | shed => cases c.shed <;> rfl
theorem capped_eq (top : Nat) (c : Charger) :
    (let d := if top < c.target then c.lowerTo top else c
    { d with planned := min d.planned top }) = Claims.capped top c := by
  unfold Claims.capped
  dsimp only
  split
  · rw [lowerTo_lowered]
    rfl
  · rfl
theorem revise_revised (old new : FeederState) (left taken : Group) (stagger : Nat) (c : Charger) :
    c.revise old new left taken stagger = Claims.revised old new left taken stagger c := by
  unfold Charger.revise Claims.revised
  rw [← ceilingIn_eq, ← capped_eq]
  by_cases h : left = taken
  · subst h
    simp only [bne_self_eq_false, Bool.false_eq_true, if_false, if_true, Bool.and_eq_true, beq_iff_eq, bne_iff_ne, and_assoc]
  · simp only [bne_iff_ne, ne_eq, h, not_false_eq_true, if_true, if_false, Bool.and_eq_true, beq_iff_eq, and_assoc]
    rfl

/-! ### The chargers under a change (R88, R115) -/

theorem drawingGroup_eq (c : Charger) : s.drawingGroup c = Claims.drawn (Claims.groupIs s) c.mask := by
  rw [← groupState_eq]
  exact drawingUnder_eq _ _
theorem effectiveState_eq (c : Charger) : s.effectiveState c = Claims.effective (Claims.groupIs s) c.mask := by
  rw [← groupState_eq]
  exact effectiveUnder_eq _ _
theorem ceiling_eq (c : Charger) : s.ceiling c = Claims.top c.conf (Claims.effective (Claims.groupIs s) c.mask) := by
  rw [← effectiveState_eq]
  exact ceilingIn_eq _ _
/-- The chargers picked are revised, and the places of those with a new drawing group lapse. -/
theorem reviseChargers_eq (before : Group → FeederState) (touched : Charger → Bool) (s : State) :
    let st := Claims.groupIs s
    let moved := fun (c : Charger) => touched c && Claims.drawn before c.mask != Claims.drawn st c.mask
    s.reviseChargers before touched = s.setCharging { s.charging with
      chargers := s.charging.chargers.map (fun c => if touched c then
        Claims.revised (Claims.effective before c.mask) (Claims.effective st c.mask) (Claims.drawn before c.mask)
          (Claims.drawn st c.mask) (s.now + (c.conf.rank - 1) * s.cfg.staggerInterval) c else c)
      order := s.charging.order.filter (fun b => !s.charging.chargers.any (fun c => c.berth == b && moved c)) } := by
  have hplace : ∀ (p : Charger → Bool) (b : Nat), ((s.charging.chargers.filter p).map (·.berth)).contains b =
      s.charging.chargers.any (fun c => c.berth == b && p c) := fun p b => by
    rw [Bool.eq_iff_iff]
    simp [and_comm, and_left_comm, and_assoc]
  unfold State.reviseChargers State.staggerFor
  simp only [drawingUnder_eq, drawingGroup_eq, effectiveUnder_eq, effectiveState_eq, revise_revised, hplace]

/-! ### FEEDER heard and told (R88, R89) -/

theorem applyFeeder_fed (g : Group) (st : FeederState) (hot : Bool) (s : State) :
    s.applyFeeder g st hot = Claims.fed g st hot s := by
  unfold State.applyFeeder Claims.fed
  simp only [Bool.and_eq_true, beq_iff_eq]
theorem listenOrRun_active (h : s.listenOrRun = true) : s.active = true := by
  rw [active_iff]
  simp only [State.listenOrRun, Bool.or_eq_true, beq_iff_eq] at h
  tauto
theorem mute_listenOrRun (h : s.node.state = .mute) : s.listenOrRun = false ∧ s.active = true := by
  simp [State.listenOrRun, State.active, h]

section
variable {g : Group} {st : FeederState} {hot : Bool}

theorem feederInputChange_stands (h : groupGet s.inputs.groups g = ⟨st, hot⟩) :
    exec (.feederInputChange g st hot) s = .next s := if_pos (by simp [h])
theorem feederInputChange_changes (h : groupGet s.inputs.groups g ≠ ⟨st, hot⟩) {t : State}
    (ht : s.setInputs { s.inputs with groups := groupSet s.inputs.groups g ⟨st, hot⟩ } = t) :
    exec (.feederInputChange g st hot) s = if s.cfg.monitor && s.listenOrRun then .next (t.announce g)
      else if s.cfg.monitor && s.active then .next (t.applyFeeder g st hot) else .next t := by
  subst ht
  exact if_neg (by simpa using h)
end
theorem groupGet_groupSet {α : Type} (p : PerGroup α) (g : Group) (x : α) : groupGet (groupSet p g x) g = x := by
  cases g <;> rfl

end Sys2Proof.Machine

open Sys2Proof Sys2Proof.Machine

/-- Settles O32: the chargers by `reviseChargers_eq`; each input and refresh is `announce_told` or `applyFeeder_fed`. -/
theorem feederStatesAreTakenAndTold : Obligations.FeederStatesAreTakenAndTold := by
  unfold Obligations.FeederStatesAreTakenAndTold
  refine ⟨fun s before touched => ⟨groupState_eq s, fun c => ⟨effectiveState_eq c, drawingGroup_eq c, ceiling_eq c⟩,
    reviseChargers_eq before touched s⟩, fun s sender g st hot e => ?_⟩
  dsimp only
  generalize ht : s.setInputs { s.inputs with groups := groupSet s.inputs.groups g ⟨st, hot⟩ } = t
  have hin : groupGet t.inputs.groups g = ⟨st, hot⟩ := ht ▸ groupGet_groupSet ..
  refine ⟨fun h => ?_, feederInputChange_stands, fun hc => ⟨fun hm hl => ?_, fun hm hs => ?_, fun h => ?_⟩, fun hm hl hr he => ?_⟩
  · obtain ⟨hh, hp⟩ := heardFrom_peer h
    exact congrArg Host.Outcome.next ((hear_accepted hh hp).trans (applyFeeder_fed g st hot _))
  · rw [feederInputChange_changes hc ht, if_pos (by simp [hm, hl]), announce_told, hin]
  · obtain ⟨hl, ha⟩ := mute_listenOrRun hs
    rw [feederInputChange_changes hc ht, if_neg (by simp [hl]), if_pos (by simp [hm, ha]), applyFeeder_fed]
  · rw [feederInputChange_changes hc ht]
    rcases h with h | h
    · simp [h]
    · have hl : s.listenOrRun = false := Bool.eq_false_iff.mpr fun hl => by simp [listenOrRun_active hl] at h
      simp [h, hl]
  · show execFeederRefreshExpiry g s = _
    unfold execFeederRefreshExpiry
    rw [if_pos (by simp [hm, hl, expired_some hr he]), announce_told]
end

section
/-! SUPPORT. The station table under the notices of the peers and the orders about it (R91 to R96, R99). -/

namespace Sys2Proof.Machine

open Sys2Proof

variable {s : State}

/-! ### ROLL and DRAW of a peer (R92 to R94) -/

section
variable {sender : Nat} {new : StationEntry} {f : StationEntry → StationEntry}

theorem entered_known (h : (s.entryOf sender).isSome = true) : Claims.entered sender f new s = s.updateEntry sender f := by
  unfold Claims.entered
  rw [if_pos h]
  rfl
theorem entered_new (h : s.entryOf sender = none) : Claims.entered sender f new s = s.addEntry new := by
  unfold Claims.entered
  rw [if_neg (by simp [h])]
  rfl
end
theorem takeRoll_entered (sender : Nat) (d : Description) (x : PerGroup Nat) (s : State) : s.takeRoll sender d x =
    (Claims.entered sender (fun e => { e with maxima := x, description := some d })
      ⟨sender, x, some d, ⟨0, 0, 0⟩, ⟨0, 0, 0⟩, none, none⟩ s).followGrants := by
  unfold State.takeRoll
  cases h : s.entryOf sender with
  | none => rw [entered_new h]
  | some e => rw [entered_known (by simp [h])]
theorem takeDraw_known {sender : Nat} (x y : PerGroup Nat) {new : StationEntry} (h : (s.entryOf sender).isSome = true) :
    s.takeDraw sender x y = (Claims.entered sender
      (fun e => { e with committed := x, planned := y, lastDraw := some s.now, fresh := some (s.now + 30) }) new s).followGrants := by
  obtain ⟨e, h'⟩ := Option.isSome_iff_exists.mp h
  unfold State.takeDraw
  rw [entered_known h, h']
theorem takeDraw_new {sender : Nat} (x y : PerGroup Nat) {f : StationEntry → StationEntry} (h : s.entryOf sender = none) :
    s.takeDraw sender x y = ((Claims.entered sender f ⟨sender, groupMake (fun g => max (groupGet x g) (groupGet y g)), none, x, y,
      some s.now, some (s.now + 30)⟩ s).sendRoll true).followGrants := by
  unfold State.takeDraw
  rw [entered_new h, h]
theorem rollWaits_iff (l : Link) : l.rollWaits = false ↔
    ∀ f ∈ (if l.sending = some .other then l.other.tail else l.other), f.notice.isRoll = false := by
  unfold Link.rollWaits Link.waiting Link.frames
  simp
theorem answerAsk_eq (ask : Bool) (s : State) : s.answerAsk ask =
    if ask = true ∧ (∀ f ∈ (if s.link.sending = some .other then s.link.other.tail else s.link.other), f.notice.isRoll = false)
    then s.send (.roll false (Claims.described s) (groupMake (Claims.declared s))) else s := by
  unfold State.answerAsk
  simp only [← rollWaits_iff, Bool.and_eq_true, Bool.not_eq_true']
  rfl

section
variable {sender : Nat} {x y : PerGroup Nat}

theorem exec_roll_peer (ask : Bool) (d : Description) (h : Claims.heardFrom s sender) (hs : 1 ≤ sender) (h1 : 1 ≤ d.lanes)
    (h2 : d.lanes ≤ 8) (h3 : 1 ≤ d.berths) (h4 : d.berths ≤ 48) (h5 : d.chargers ≤ 48) (hx : ∀ g, groupGet x g ≤ 4000) :
    exec (.roll sender ask d.wash d.bypass d.lanes d.berths d.chargers x.a x.b x.c) s =
      .next ((s.frameEnded.takeRoll sender d x).answerAsk ask) := by
  obtain ⟨hh, hle, hne⟩ := h
  refine congrArg Host.Outcome.next ((hear_accepted (takesFrame_of_hearing hh) ?_).trans ?_)
  · simp [okStation, okLane, hle, h1, h2, h3, h4, h5, okKilowatts_groups hx]
  · rw [if_neg (by simpa using hne), if_neg (by simp; omega)]
theorem exec_draw_peer (h : Claims.heardFrom s sender) (hs : 1 ≤ sender) (hx : ∀ g, groupGet x g ≤ 4000)
    (hy : ∀ g, groupGet y g ≤ 4000) :
    exec (.draw sender x.a x.b x.c y.a y.b y.c) s = .next (s.frameEnded.takeDraw sender x y) := by
  obtain ⟨hh, hle, hne⟩ := h
  refine congrArg Host.Outcome.next ((hear_accepted (takesFrame_of_hearing hh) ?_).trans ?_)
  · simp [okStation, hle, okKilowatts_groups hx, okKilowatts_groups hy]
  · rw [if_neg (by simpa using hne), if_neg (by simp; omega)]
end

/-! ### Freshness, FORGET, the DRAW timer (R95, R96, R99) -/

@[simp] theorem entryOf_frameEnded (n : Nat) : s.frameEnded.entryOf n = s.entryOf n := rfl
theorem feeders_frameEnded : s.frameEnded.feeders = s.feeders := rfl
theorem forgetArgs_byte {n : Nat} (h1 : 1 ≤ n) (h2 : n ≤ 31) : forgetArgs [byte n] = some n := by
  simp [forgetArgs, args1, byte_toNat n (by omega), okPeer, h1, h2]
theorem exec_forget_stale {sender tag station : Nat} {x : StationEntry} (ho : Claims.ordered s sender tag) (h1 : 1 ≤ station)
    (h2 : station ≤ 31) (hx : s.entryOf station = some x) (hf : x.fresh = none) :
    exec (.forget sender tag [byte station]) s = .next (Claims.answered sender tag .done (s.frameEnded.setFeeders
      { s.feeders with stations := s.feeders.stations.filter (fun e => e.station != station) }).followGrants) := by
  refine congrArg Host.Outcome.next (takeOrder_plain ho (by simp) (forgetArgs_byte h1 h2) ?_)
  simp [hx, hf, feeders_frameEnded]
theorem freshnessExpiry_stale {station e : Nat} {x : StationEntry} (ha : s.active = true) (hx : s.entryOf station = some x)
    (hf : x.fresh = some e) (he : e ≤ s.now) :
    exec (.freshnessTimerExpiry station) s = .next (s.updateEntry station (fun e => { e with fresh := none })).followGrants := by
  show execFreshnessTimerExpiry station s = _
  unfold execFreshnessTimerExpiry
  rw [ha, hx]
  exact if_pos (expired_some hf he)
theorem drawTimerExpiry_draws {e : Nat} (hl : s.listenOrRun = true) (hd : s.feeders.drawTimer = some e) (he : e ≤ s.now) :
    exec .drawTimerExpiry s = .next (s.setFeeders { s.feeders with drawTimer := some (s.now + 10) }).sendDraw :=
  if_pos (by simp [hl, expired_some hd he])

end Sys2Proof.Machine

open Sys2Proof Sys2Proof.Machine

/-- Settles O33: the table by `takeRoll_entered`, `takeDraw_known` and `takeDraw_new`; FORGET is judged by the entry's freshness. -/
theorem stationTableFollowsThePeers : Obligations.StationTableFollowsThePeers := by
  unfold Obligations.StationTableFollowsThePeers
  refine ⟨fun s sender ask d x y h hs h1 h2 h3 h4 h5 hxy => ⟨?_, ?_⟩, fun s sender tag station e h1 h2 =>
    ⟨fun x => freshnessExpiry_stale, fun ho => ⟨fun hn => ?_, fun x hx hf => ?_, fun x hx hf => ?_⟩, drawTimerExpiry_draws⟩⟩
  · rw [exec_roll_peer ask d h hs h1 h2 h3 h4 h5 fun g => (hxy g).1, answerAsk_eq, takeRoll_entered]
  · rw [exec_draw_peer h hs (fun g => (hxy g).1) fun g => (hxy g).2]
    by_cases hk : (s.entryOf sender).isSome = true
    · rw [if_pos hk]
      exact congrArg _ (takeDraw_known x y hk)
    · rw [if_neg hk]
      exact congrArg _ (takeDraw_new x y (Option.not_isSome_iff_eq_none.mp hk))
  · exact congrArg _ (takeOrder_no ho (by simp) (forgetArgs_byte h1 h2) (by simp [hn]))
  · exact congrArg _ (takeOrder_no ho (by simp) (forgetArgs_byte h1 h2) (by simp [hx, hf]))
  · exact exec_forget_stale ho h1 h2 hx hf
end

section
/-! SUPPORT. The items of a REPORT, byte by byte (R104, R132, R153, R210). -/

namespace Sys2Proof.Machine

open Sys2Proof

variable {s : State}

/-! ### Fields and codes (R180, R183, R210) -/

theorem bytes_nil : Claims.bytes [] = [] := rfl
theorem bytes_one (v : Nat) (fs : List (Nat × Nat)) : Claims.bytes ((1, v) :: fs) = byte v :: Claims.bytes fs := by
  simp [Claims.bytes, byte]
theorem bytes_two (v : Nat) (fs : List (Nat × Nat)) : Claims.bytes ((2, v) :: fs) = be16 v ++ Claims.bytes fs := by
  simp [Claims.bytes, be16, List.range_succ]
theorem bytes_three (v : Nat) (fs : List (Nat × Nat)) : Claims.bytes ((3, v) :: fs) = be24 v ++ Claims.bytes fs := by
  simp [Claims.bytes, be24, List.range_succ]
theorem bytes_append (xs ys : List (Nat × Nat)) : Claims.bytes (xs ++ ys) = Claims.bytes xs ++ Claims.bytes ys :=
  List.flatMap_append
theorem flags_eq (bs : List Bool) : flagBits bs = Claims.flags bs := by
  induction bs with
  | nil => rfl
  | cons b bs ih => cases b <;> simp [flagBits, Claims.flags, ih]
theorem classCode_eq (c : BusClass) : classCode c = Claims.classCode c := by cases c <;> rfl
theorem feederCode_eq (st : FeederState) : feederCode st = Claims.feederCode st := by cases st <;> rfl
theorem groupCode_eq (g : Group) : groupCode g = Claims.groupCode g := by cases g <;> rfl
theorem stageStateCode_eq (st : StageState) : stageStateCode st = Claims.stageCode st := by cases st <;> rfl
theorem runStateCode_eq (st : RunState) : runStateCode st = Claims.runCode st := by cases st <;> rfl
theorem alertCode_eq (c : AlertCode) : alertCode c = Claims.alertNumber c := by cases c <;> rfl
theorem laneKindCode_eq (k : LaneKind) : laneKindCode k = Claims.code [.deadEnd, .through] k := by cases k <;> rfl
theorem placeholderCode_eq (k : PlaceholderKind) : placeholderCode k = Claims.code [.named, .occupied, .gap] k := by
  cases k <;> rfl
theorem fleetCode_eq (b : Option Bus) : fleetCode b = Claims.fleetField b := by cases b <;> rfl
theorem secondsSince_eq (t : Option Nat) : s.secondsSince t = Claims.since s t := by cases t <;> rfl

/-! ### Lanes, wash lane, queue, apron -/

theorem laneStateCode_eq (l : Lane) : laneStateCode l.state = if l.closed then 3 else if l.suspect then 2 else 1 := by
  unfold Lane.state
  cases l.closed <;> cases l.suspect <;> rfl
/-- With the outputs on, an exit signal is green at the lane of the release (R154). -/
theorem exitSignal_eq (ha : s.active = true) (hr : s.node.resetLine = .released) (n : Nat) : s.exitSignal n =
    match s.departures.release with | some rel => rel.lane == n | none => false := by
  unfold State.exitSignal
  cases s.departures.release <;> simp [ha, hr]
theorem laneItem_eq (ha : s.active = true) (hr : s.node.resetLine = .released) (l : Lane) : s.laneItem l = Claims.laneItem s l := by
  unfold State.laneItem Claims.laneItem
  rw [show List.range 6 = [0, 1, 2, 3, 4, 5] from rfl]
  simp only [bytes_append, bytes_one, bytes_two, bytes_nil, List.map_cons, List.map_nil, List.flatMap_cons, List.flatMap_nil,
    laneKindCode_eq, laneStateCode_eq, flags_eq, exitSignal_eq ha hr, fleetCode_eq] <;> rfl
theorem washItem_eq : s.washItem = Claims.washItem s := by
  have hstate : washStateCode s.washState = match s.wash.mode with
      | .frostHold => 3
      | .stopped => 4
      | .normal => if s.wash.called.isSome || s.wash.stages.any (fun st => st.state != .empty) then 2 else 1 := by
    unfold State.washState
    cases s.wash.mode with
    | normal =>
      dsimp only
      rw [Bool.or_comm]
      split <;> rfl
    | frostHold => rfl
    | stopped => rfl
  unfold State.washItem Claims.washItem
  rw [show List.range 4 = [0, 1, 2, 3] from rfl]
  simp only [bytes_append, bytes_one, bytes_two, bytes_nil, List.map_cons, List.map_nil, List.flatMap_cons, List.flatMap_nil,
    hstate, flags_eq, stageStateCode_eq, fleetCode_eq] <;> rfl
theorem queueItem_eq (b : Bus) : s.queueItem b = Claims.queueItem s b := by
  unfold State.queueItem Claims.queueItem
  simp only [bytes_two, bytes_nil, List.append_nil]
theorem apronItem_eq (b : Bus) : apronItem b = Claims.apronItem b := by
  unfold apronItem Claims.apronItem Claims.unplaced
  simp only [bytes_one, bytes_two, bytes_nil, classCode_eq, flags_eq]

/-! ### Chargers -/

theorem chargerFirst_eq (c : Charger) : s.chargerFirst c = Claims.chargerFirst s c := by
  have hcode : chargerStateCode (s.chargerState c) = Claims.chargerCode c (s.chargerNeed c) (s.ceiling c) := by
    unfold State.chargerState Claims.chargerCode
    cases c.phase with
    | connected =>
      simp only [beq_iff_eq]
      repeat' split
      all_goals rfl
    | _ => rfl
  unfold State.chargerFirst Claims.chargerFirst
  simp only [bytes_one, bytes_two, bytes_nil, hcode, groupCode_eq, drawingGroup_eq, feederCode_eq, effectiveState_eq, ceiling_eq,
    secondsSince_eq, maskCode, flags_eq, beq_iff_eq]
  rfl
theorem placeIn_eq (order : List Nat) (b : Nat) : placeIn order b = if b ∈ order then order.idxOf b + 1 else 0xFF := by
  unfold placeIn
  split
  · rename_i i hi
    obtain ⟨hlt, rfl⟩ := List.findIdx?_eq_some_iff_findIdx_eq.mp hi
    exact (if_pos (List.idxOf_lt_length_iff.mp hlt)).symm
  · rename_i hn
    exact (if_neg fun hm => by simpa using List.findIdx?_eq_none_iff.mp hn b hm).symm
theorem chargerSecond_eq (c : Charger) : s.chargerSecond c = Claims.chargerSecond s c := by
  unfold State.chargerSecond Claims.chargerSecond
  rw [placeIn_eq]
  simp only [bytes_append, bytes_one, bytes_nil]
  cases c.figures <;> simp only [bytes_one, bytes_three, bytes_nil] <;> rfl

/-! ### Bus records, runs, groups, stations, alerts -/

theorem busItem_eq (b : Bus) : s.busItem b = Claims.busItem s b := by
  unfold State.busItem Claims.busItem Claims.unplaced
  cases b.place <;> simp only [placeFields, placeCode, bytes_one, bytes_two, bytes_nil, placeholderCode_eq, classCode_eq, flags_eq,
    secondsSince_eq] <;> rfl
theorem runItem_eq (r : Run) : s.runItem r = Claims.runItem s r := by
  have hdemand : demandCode r.demand = match r.demand with
      | .fleet f => f
      | .ofClass k => 0xFF00 + Claims.classCode k := by
    unfold demandCode
    cases r.demand with
    | fleet f => rfl
    | ofClass k => exact congrArg (0xFF00 + ·) (classCode_eq k)
  unfold State.runItem Claims.runItem
  simp only [bytes_append, bytes_one, bytes_two, bytes_nil, hdemand, runStateCode_eq, flags_eq, fleetCode_eq]
  cases r.claim <;> cases r.best <;> simp only [bytes_one, bytes_two, bytes_nil] <;> rfl
theorem groupItem_eq (g : Group) : s.groupItem g = Claims.groupItem s g := by
  have hstate : groupStateCode (groupGet s.feeders.groups g).state = match (groupGet s.feeders.groups g).state with
      | .unknown => 0
      | .told st => Claims.feederCode st := by
    unfold groupStateCode
    cases (groupGet s.feeders.groups g).state with
    | unknown => rfl
    | told st => exact feederCode_eq st
  unfold State.groupItem Claims.groupItem
  simp only [bytes_one, bytes_two, bytes_nil, groupCode_eq, hstate, flags_eq, feederCode_eq] <;> rfl
theorem stationItems_eq (e : StationEntry) : [s.stationFirst e, stationSecond e] = Claims.stationItems s e := by
  unfold State.stationFirst stationSecond Claims.stationItems three16
  simp only [bytes_append, bytes_one, bytes_two, bytes_nil, flags_eq, secondsSince_eq, List.map_cons, List.map_nil]
  cases e.description <;> simp only [List.map_cons, List.map_nil, bytes_one, bytes_nil] <;> rfl
theorem alertItem_eq (e : AlertEntry) : alertItem e = Claims.alertItem e := by
  unfold alertItem Claims.alertItem
  simp only [bytes_one, bytes_two, bytes_three, bytes_nil, alertCode_eq]
  cases e.acknowledged <;> rfl

/-! ### The answer (R210) -/

theorem reportItems_reported (ha : s.active = true) (hr : s.node.resetLine = .released) {subject : Nat} (h1 : 1 ≤ subject)
    (h2 : subject ≤ 7) : Claims.reported s subject (s.reportItems subject) := by
  match subject, h1, h2 with
  | 1, _, _ =>
    show s.laneSubject = _
    unfold State.laneSubject
    rw [funext (laneItem_eq ha hr), washItem_eq, funext queueItem_eq, funext apronItem_eq]
  | 2, _, _ =>
    refine ⟨_, sortBy_perm _ _, sortBy_ascend Charger.berth _, ?_⟩
    show s.chargerSubject = _
    unfold State.chargerSubject
    rw [funext chargerFirst_eq, funext chargerSecond_eq]
  | 3, _, _ =>
    refine ⟨_, sortBy_perm _ _, sortBy_ascend Bus.seq _, ?_⟩
    show s.busSubject = _
    unfold State.busSubject
    rw [funext busItem_eq]
  | 4, _, _ => exact congrArg (fun f => s.runs.runs.map f) (funext runItem_eq)
  | 5, _, _ => exact congrArg (fun f => allGroups.map f) (funext groupItem_eq)
  | 6, _, _ => exact congrArg (fun f => s.feeders.stations.flatMap f) (funext stationItems_eq)
  | 7, _, _ => exact congrArg (fun f => s.alerts.entries.map f) (funext alertItem_eq)
theorem subjectHead_eq (subject : Nat) : s.reportHead subject = Claims.bytes (if subject = 4 then [(2, s.runs.frontMark)]
    else if subject = 7 then [(1, if s.alerts.full then 1 else 0)] else []) := by
  unfold State.reportHead
  split
  · rw [if_pos rfl, bytes_two, bytes_nil, List.append_nil]
  · rw [if_neg (by decide), if_pos rfl, bytes_one, bytes_nil]
    cases s.alerts.full <;> rfl
  · rw [if_neg ‹_›, if_neg ‹_›, bytes_nil]
theorem subjectHead_length (subject : Nat) : (s.reportHead subject).length ≤ 2 := by
  unfold State.reportHead
  split <;> simp [be16]
theorem reportHead_eq (subject : Nat) :
    [byte (nodeStateCode s.node.state), byte subject] ++ s.reportHead subject = Claims.reportHead s subject := by
  unfold Claims.reportHead
  rw [bytes_append, ← subjectHead_eq]
  cases s.node.state <;> simp only [nodeStateCode, bytes_one, bytes_nil]
/-- As many whole items as fit, from the first on. -/
theorem fitItems_spec (items : List (List Byte)) : ∀ room, ∃ k ≤ items.length,
    fitItems room items = ((items.take k).flatten, items.length - k) ∧ (items.take k).flatten.length ≤ room ∧
    ∀ item, items[k]? = some item → room < (items.take k).flatten.length + item.length := by
  induction items with
  | nil => exact fun room => ⟨0, le_rfl, rfl, Nat.zero_le _, nofun⟩
  | cons x xs ih =>
    intro room
    unfold fitItems
    by_cases hx : x.length ≤ room
    · obtain ⟨k, hk, he, hle, hnext⟩ := ih (room - x.length)
      refine ⟨k + 1, Nat.succ_le_succ hk, ?_, ?_, fun item hi => ?_⟩
      · rw [if_pos hx, he]
        simp
      · rw [List.take_succ_cons, List.flatten_cons, List.length_append]
        omega
      · have := hnext item hi
        rw [List.take_succ_cons, List.flatten_cons, List.length_append]
        omega
    · refine ⟨0, Nat.zero_le _, if_neg hx, Nat.zero_le _, fun item hi => ?_⟩
      obtain rfl : x = item := by simpa using hi
      simpa using hx
theorem reportAnswer_spec (subject start : Nat) : ∃ k ≤ ((s.reportItems subject).drop start).length,
    let payload := Claims.reportHead s subject ++ (((s.reportItems subject).drop start).take k).flatten
    payload.length ≤ 28 ∧
    (∀ item, ((s.reportItems subject).drop start)[k]? = some item → 28 < payload.length + item.length) ∧
    s.reportAnswer subject start = (if start + k < (s.reportItems subject).length then start + k else 0, payload) := by
  generalize hitems : s.reportItems subject = items
  have hhead : (Claims.reportHead s subject).length ≤ 4 := by
    rw [← reportHead_eq, List.length_append]
    exact Nat.add_le_add_left (subjectHead_length subject) 2
  obtain ⟨k, hk, he, hle, hnext⟩ := fitItems_spec (items.drop start) (28 - (Claims.reportHead s subject).length)
  refine ⟨k, hk, ?_, fun item hi => ?_, ?_⟩
  · rw [List.length_append]
    omega
  · have := hnext item hi
    rw [List.length_append]
    omega
  · unfold State.reportAnswer
    rw [reportHead_eq, hitems]
    dsimp only
    rw [he]
    rw [List.length_drop] at hk ⊢
    simp only [beq_iff_eq]
    congr 1
    split <;> split <;> omega

theorem reportArgs_bytes {subject start : Nat} (h1 : 1 ≤ subject) (h2 : subject ≤ 7) (h3 : start ≤ 255) :
    reportArgs [byte subject, byte start] = some (subject, start) := by
  simp [reportArgs, args11, byte_toNat subject (by omega), byte_toNat start h3, okByte, h1, h2, h3]
theorem exec_report {sender tag subject start : Nat} (ho : Claims.ordered s sender tag) (h1 : 1 ≤ subject) (h2 : subject ≤ 7)
    (h3 : start ≤ 255) : exec (.report sender tag [byte subject, byte start]) s = .next (s.frameEnded.send
      (.answer sender tag .done (s.frameEnded.reportAnswer subject start).1 (s.frameEnded.reportAnswer subject start).2)) :=
  congrArg Host.Outcome.next (takeOrder_judged ho (by simp) (reportArgs_bytes h1 h2 h3) _)

end Sys2Proof.Machine
end

section
/-! SUPPORT. FEED: the mask of a charger, and what it brings (R93, R116). -/

namespace Sys2Proof.Machine

open Sys2Proof

variable {s : State}

theorem feedArgs_bytes {x y : Nat} (h1 : 1 ≤ x) (h2 : x ≤ 99) (h3 : y ≤ 7) :
    feedArgs [byte x, byte y] = some (x, maskOfNat y) := by
  simp [feedArgs, args11, byte_toNat x (by omega), byte_toNat y (by omega), okBerth, h1, h2, h3]
theorem maskOfNat_any {y : Nat} (h : y ≤ 7) : allGroups.any (groupGet (maskOfNat y)) = decide (y ≠ 0) := by
  interval_cases y <;> rfl
@[simp] theorem chargerOf_frameEnded (n : Nat) : s.frameEnded.chargerOf n = s.chargerOf n := rfl

section
variable {sender tag x y : Nat} (ho : Claims.ordered s sender tag) (h1 : 1 ≤ x) (h2 : x ≤ 99) (h3 : y ≤ 7)
include ho h1 h2 h3

theorem exec_feed_missing (hc : s.chargerOf x = none) :
    exec (.feed sender tag [byte x, byte y]) s = .next (Claims.answered sender tag .notFound s.frameEnded) :=
  congrArg Host.Outcome.next (takeOrder_no ho (by simp) (feedArgs_bytes h1 h2 h3) (by simp [hc]))
theorem exec_feed_empty {c : Charger} (hc : s.chargerOf x = some c) (hy : y = 0) :
    exec (.feed sender tag [byte x, byte y]) s = .next (Claims.answered sender tag .refused s.frameEnded) := by
  have hm : allGroups.any (groupGet (maskOfNat y)) = false := (maskOfNat_any h3).trans (decide_eq_false (not_not.mpr hy))
  exact congrArg Host.Outcome.next (takeOrder_no ho (by simp) (feedArgs_bytes h1 h2 h3)
    (by simp only [chargerOf_frameEnded, hc, hm, Bool.false_eq_true, if_false]))
theorem exec_feed_set {c : Charger} (hc : s.chargerOf x = some c) (hy : y ≠ 0) :
    exec (.feed sender tag [byte x, byte y]) s =
      .next (Claims.answered sender tag .done (s.frameEnded.feed c (maskOfNat y))) := by
  have hm : allGroups.any (groupGet (maskOfNat y)) = true := (maskOfNat_any h3).trans (decide_eq_true hy)
  exact congrArg Host.Outcome.next (takeOrder_plain ho (by simp) (feedArgs_bytes h1 h2 h3)
    (by simp only [chargerOf_frameEnded, hc, hm, if_true]))
end
/-- A mask set (R116), the charger's place lapsing where its drawing group changes (R115). -/
theorem setMask_eq (c : Charger) (m : Mask) (s : State) : s.setMask c m =
    let state := Claims.effective (Claims.groupIs s)
    let group := Claims.drawn (Claims.groupIs s)
    let changed := s.updateCharger c.berth (fun z => { Claims.revised (state c.mask) (state m) (group c.mask) (group m)
      (s.now + (c.conf.rank - 1) * s.cfg.staggerInterval) z with mask := m })
    if group c.mask ≠ group m then changed.setCharging { changed.charging with
      order := s.charging.order.filter (fun b => b != c.berth) } else changed := by
  unfold State.setMask State.staggerFor
  simp only [groupState_eq, effectiveUnder_eq, drawingUnder_eq, revise_revised, bne_iff_ne]
  rfl
theorem feed_eq (c : Charger) (m : Mask) (s : State) : s.feed c m =
    let t := s.setMask c m
    if groupMake (Claims.declared t) ≠ groupMake (Claims.declared s)
    then t.send (.roll false (Claims.described t) (groupMake (Claims.declared t))) else t := by
  unfold State.feed
  simp only [bne_iff_ne]
  rfl

end Sys2Proof.Machine

open Sys2Proof Sys2Proof.Machine

/-- Settles O52: FEED is judged by its charger and mask (`feed_eq`, `setMask_eq`); a REPORT's items are those of
`reportItems_reported`, filled in as `reportAnswer_spec` says. -/
theorem feedAndReport : Obligations.FeedAndReport := by
  unfold Obligations.FeedAndReport
  intro s sender tag x y ho
  dsimp only
  refine ⟨fun h1 h2 h3 => ⟨exec_feed_missing ho h1 h2 h3, fun c hc => exec_feed_empty ho h1 h2 h3 hc, fun c hc hy => ?_⟩,
    fun h1 h2 h3 => ?_⟩
  · obtain ⟨rfl, -⟩ := chargerOf_split hc
    rw [exec_feed_set ho h1 h2 h3 hc hy, feed_eq, setMask_eq]
    rfl
  · obtain ⟨⟨ha, hr, -⟩, -⟩ := id ho
    obtain ⟨k, hk, hle, hnext, hans⟩ := reportAnswer_spec (s := s.frameEnded) x y
    rw [exec_report ho h1 h2 h3, hans]
    exact ⟨s.reportItems x, k, reportItems_reported ha hr h1 h2, hk, hle, hnext, rfl⟩
end

section
/-! SUPPORT. One second of the timebase: what it counts, and what falls due in it (R186, R194, R201; log 2, 6, 10). -/

namespace Sys2Proof.Machine

open Sys2Proof

variable {s : State}

/-! ### Clock arithmetic (R1, R2) -/

theorem secondsBetween_cast (x y : Nat) : (secondsBetween x y : Int) = ((x : Int) - y) % 86400 :=
  Int.toNat_of_nonneg (Int.emod_nonneg _ (by decide))
theorem timeToGo_eq (now x : Nat) : timeToGo now x =
    if secondsBetween x now ≤ 72000 then (secondsBetween x now : Int) else secondsBetween x now - 86400 := by
  unfold timeToGo
  dsimp only
  split <;> split <;> omega

/-! ### The second (R179, R186, R194) -/

theorem bitsPerSecond_eq (rate : Nat) : bitsPerSecond rate = Claims.bits rate := by
  unfold bitsPerSecond bitMicros Claims.bits
  split <;> simp_all
theorem mayDrive_iff : s.mayDrive = true ↔
    s.node.resetLine = .released ∧ (s.active = true ∨ s.node.state = .configFault) := by
  simp [State.mayDrive]
theorem lineIdle_iff : s.lineIdle = true ↔ Claims.countsIdle s := by
  unfold State.lineIdle Claims.countsIdle
  simp only [Bool.and_eq_true, mayDrive_iff, Option.isNone_iff_eq_none, bne_iff_ne, and_assoc]
theorem idleFor_counting (bits : Nat) (h : Claims.countsIdle s) : s.idleFor bits = Claims.idled bits s :=
  if_pos (lineIdle_iff.mpr h)
theorem idleFor_busy (bits : Nat) (h : ¬ Claims.countsIdle s) : s.idleFor bits = s := if_neg (h ∘ lineIdle_iff.mp)
/-- The state with the second counted, before the line's idle count. -/
def State.ticked (s : State) : State :=
  (s.setNow (s.now + 1)).setClock ⟨if s.clock.time = 86399 then 0 else s.clock.time + 1, s.clock.isSet⟩

theorem countsIdle_ticked : Claims.countsIdle s.ticked ↔ Claims.countsIdle s := Iff.rfl
theorem second_eq (hc : s.clock.time < 86400) : s.second = s.ticked.idleFor (Claims.bits s.cfg.lineRate) := by
  have ht : (s.clock.time + 1) % 86400 = if s.clock.time = 86399 then 0 else s.clock.time + 1 := by
    split <;> omega
  unfold State.second State.ticked
  rw [ht, bitsPerSecond_eq]
theorem second_counting (hc : s.clock.time < 86400) (h : Claims.countsIdle s) :
    s.second = Claims.idled (Claims.bits s.cfg.lineRate) s.ticked := by
  rw [second_eq hc, idleFor_counting _ (countsIdle_ticked.mpr h)]
theorem second_busy (hc : s.clock.time < 86400) (h : ¬ Claims.countsIdle s) : s.second = s.ticked := by
  rw [second_eq hc, idleFor_busy _ (mt countsIdle_ticked.mp h)]
theorem step_second (h : s.pending = []) : step s = .next (s.second.setPending s.second.due) := by
  unfold step State.tick
  rw [h]
  rfl

/-! ### What falls due -/

theorem mem_whenDue {due : Bool} {c d : Instr} : c ∈ whenDue due d ↔ c = d ∧ due = true := by
  cases due <;> simp [whenDue]
/-- A place counted from 1 in a list. -/
theorem exists_place {α : Type} (xs : List α) (p : Nat → α → Prop) :
    (∃ q ∈ xs.zipIdx, p (q.2 + 1) q.1) ↔ ∃ k, 1 ≤ k ∧ ∃ x, xs[k - 1]? = some x ∧ p k x := by
  constructor
  · rintro ⟨⟨x, i⟩, hm, hp⟩
    exact ⟨i + 1, Nat.le_add_left 1 i, x, List.mem_zipIdx_iff_getElem?.mp hm, hp⟩
  · rintro ⟨k, hk, x, hx, hp⟩
    refine ⟨(x, k - 1), List.mem_zipIdx_iff_getElem?.mpr hx, ?_⟩
    rwa [Nat.sub_add_cancel hk]

theorem mem_dueNode {c : Instr} : c ∈ s.dueNode ↔
    (c = .resetHoldExpiry ∧ ∃ level, s.node.resetLine = .held s.now level) ∨
    (c = .restartAnswerLeft ∧ ∃ o, s.order = some o ∧ o.work = .restart true) ∨
    (c = .listenTimerExpiry ∧ s.node.listenTimer = some s.now) := by
  have hline : (match s.node.resetLine with | .held e _ => e == s.now | _ => false) = true ↔
      ∃ level, s.node.resetLine = .held s.now level := by
    cases s.node.resetLine <;> simp
  have horder : (match s.order with | some o => o.work == .restart true | none => false) = true ↔
      ∃ o, s.order = some o ∧ o.work = .restart true := by
    cases s.order <;> simp
  unfold State.dueNode
  simp only [List.mem_append, mem_whenDue, beq_iff_eq, or_assoc]
  exact or_congr (and_congr_right' hline) (or_congr_left (and_congr_right' horder))
/-- The timer of a settle state runs out at an instant. -/
theorem settleTimer_iff (st : BerthSettle) (e : Nat) : st.timer = some e ↔ st = .awaitEvent e ∨ st = .awaitDetector e := by
  cases st <;> simp [BerthSettle.timer]
theorem mem_dueLanes {c : Instr} : c ∈ s.dueLanes ↔
    (∃ l ∈ s.lanes, ∃ pos, 1 ≤ pos ∧ c = .berthSettleExpiry l.number pos ∧
      (l.settle[pos - 1]? = some (.awaitEvent s.now) ∨ l.settle[pos - 1]? = some (.awaitDetector s.now))) ∨
    ∃ l ∈ s.lanes, c = .surveyPeriodEnd l.number ∧ l.survey = some s.now := by
  unfold State.dueLanes
  have hplace : ∀ l : Lane, (∃ q ∈ l.settle.zipIdx, c = .berthSettleExpiry l.number (q.2 + 1) ∧ q.1.timer = some s.now) ↔
      ∃ pos, 1 ≤ pos ∧ c = .berthSettleExpiry l.number pos ∧
        (l.settle[pos - 1]? = some (.awaitEvent s.now) ∨ l.settle[pos - 1]? = some (.awaitDetector s.now)) := fun l => by
    rw [exists_place l.settle fun pos st => c = .berthSettleExpiry l.number pos ∧ st.timer = some s.now]
    refine exists_congr fun pos => and_congr_right fun _ => ?_
    cases l.settle[pos - 1]? <;> simp [settleTimer_iff]
  simp only [List.mem_append, List.mem_flatMap, mem_whenDue, beq_iff_eq, hplace]
theorem mem_stageExpiry {c : Instr} (k : Nat) (st : StageState) : c ∈ stageExpiry k st ↔
    st = .spinup ∧ c = .spinupExpiry k ∨ st = .dwell ∧ c = .dwellExpiry k ∨ st = .runon ∧ c = .runonExpiry k ∨
    st = .leaving ∧ c = .advanceTimeout k := by
  cases st <;> simp [stageExpiry]
/-- The stage `k` is in a state whose timer runs out now. -/
def State.stageDue (s : State) (k : Nat) (st : StageState) : Prop := 1 ≤ k ∧ s.wash.stages[k - 1]? = some ⟨st, some s.now⟩

theorem mem_dueWash {c : Instr} : c ∈ s.dueWash ↔
    (c = .entryCallTimeout ∧ s.wash.callTimer = some s.now) ∨
    (∃ k st, c ∈ stageExpiry k st ∧ s.stageDue k st) ∨
    (c = .frostClearExpiry ∧ s.wash.clearing = some s.now) := by
  have hstage : (∃ q ∈ s.wash.stages.zipIdx, c ∈ if q.1.timer == some s.now then stageExpiry (q.2 + 1) q.1.state else []) ↔
      ∃ k st, c ∈ stageExpiry k st ∧ s.stageDue k st := by
    rw [exists_place s.wash.stages fun k st => c ∈ if st.timer == some s.now then stageExpiry k st.state else []]
    refine exists_congr fun k => ⟨?_, ?_⟩
    · rintro ⟨hk, ⟨st, timer⟩, hx, hc⟩
      split at hc
      · rename_i ht
        obtain rfl : timer = some s.now := by simpa using ht
        exact ⟨st, hc, hk, hx⟩
      · exact absurd hc (List.not_mem_nil)
    · rintro ⟨st, hc, hk, hx⟩
      exact ⟨hk, _, hx, by rwa [if_pos (by simp)]⟩
  unfold State.dueWash
  simp only [List.mem_append, List.mem_flatMap, mem_whenDue, beq_iff_eq, or_assoc]
  exact or_congr_right (or_congr_left (by simpa using hstage))
theorem mem_dueCaller {c : Instr} : c ∈ s.dueCaller ↔
    (c = .callTimerExpiry ∧ ∃ call count, s.alloc.caller = .calling call count s.now) ∨
    (c = .takeWaitExpiry ∧ ∃ call count best, s.alloc.caller = .taken call count best s.now) := by
  unfold State.dueCaller
  cases s.alloc.caller <;> simp [mem_whenDue, and_comm]
theorem mem_dueBus {c : Instr} {b : Bus} : c ∈ s.dueBus b ↔ ∃ f, b.fleet = some f ∧
    ((c = .unplacedRetryExpiry f ∧ ∃ u, b.place = .apron u (some s.now)) ∨
    (c = .takeWatchExpiry f ∧ ∃ lane start lost take, b.place = .transit lane start lost (some take) ∧ take.watch = some s.now) ∨
    (c = .transitTimeout f ∧ ∃ lane start lost take, b.place = .transit lane start lost take ∧
      start + s.cfg.transitTimeout * 60 = s.now)) := by
  unfold State.dueBus
  cases b.fleet with
  | none => simp
  | some f =>
    cases b.place with
    | transit lane start lost sent => cases sent <;> simp [mem_whenDue, and_comm]
    | _ => simp [mem_whenDue, and_comm]

theorem mem_dueAlloc {c : Instr} : c ∈ s.dueAlloc ↔
    (∃ o ∈ s.alloc.offers, c = .offerWindowExpiry o.caller ∧ o.window = s.now) ∨ c ∈ s.dueCaller ∨
    (∃ b ∈ s.buses.records, c ∈ s.dueBus b) ∨
    ∃ a ∈ s.alloc.arrived, c = .takeWatchExpiry a.fleet ∧ a.sent.watch = some s.now := by
  unfold State.dueAlloc
  simp only [List.mem_append, List.mem_flatMap, mem_whenDue, beq_iff_eq, or_assoc]
theorem mem_duePower {c : Instr} : c ∈ s.duePower ↔
    (∃ x ∈ s.charging.chargers, c = .chargerSettleExpiry x.berth ∧ x.phase = .settling s.now ∨
      c = .rampTimerExpiry x.berth ∧ x.ramp = some s.now) ∨
    (∃ x ∈ s.feeders.stations, c = .freshnessTimerExpiry x.station ∧ x.fresh = some s.now) ∨
    (c = .planHoldExpiry ∧ s.feeders.planHold = some s.now) ∨ (c = .turnBoundary ∧ s.charging.boundary = some s.now) ∨
    (c = .drawTimerExpiry ∧ s.feeders.drawTimer = some s.now) ∨
    ∃ g, c = .feederRefreshExpiry g ∧ (groupGet s.feeders.groups g).refresh = some s.now := by
  have hg : ∀ g, g ∈ allGroups := fun g => by cases g <;> decide
  unfold State.duePower State.dueCharger
  simp only [List.mem_append, List.mem_flatMap, mem_whenDue, beq_iff_eq, or_assoc, hg, true_and]
theorem leadNow_iff (r : Run) (lead : Int) : s.leadNow r lead = true ↔
    s.clock.isSet = true ∧ timeToGo s.clock.time (r.pullOut * 60) = lead := by
  simp [State.leadNow, State.runTimeToGo]
theorem mem_dueRun {c : Instr} {r : Run} : c ∈ s.dueRun r ↔
    (c = .claimWindowExpiry r.run ∧ r.window = some s.now) ∨ (c = .claimRefreshExpiry r.run ∧ r.refresh = some s.now) ∨
    (c = .claimPeriodEntry r.run ∧ s.leadNow r (s.cfg.claimLead * 60 : Nat) = true) ∨
    (c = .shuntLeadReached r.run ∧ s.leadNow r (s.cfg.shuntLead * 60 : Nat) = true) ∨
    (c = .releaseLeadReached r.run ∧ s.leadNow r (s.cfg.releaseLead * 60 : Nat) = true) ∨
    (c = .gracePassed r.run ∧ s.leadNow r (-(s.cfg.lateGrace * 60 : Nat)) = true) := by
  unfold State.dueRun
  simp only [List.mem_append, mem_whenDue, beq_iff_eq, or_assoc]
theorem mem_dueDepartures {c : Instr} : c ∈ s.dueDepartures ↔
    (c = .releaseTimerExpiry ∧ ∃ rel, s.departures.release = some rel ∧ rel.timer = s.now) ∨
    (∃ o ∈ s.departures.shunts, c = .shuntTimerExpiry o.fleet ∧ o.timer = s.now) ∨
    (c = .exitGapHolds ∧ ∃ x, s.departures.lastExit = some x ∧ secondsBetween s.clock.time x = s.cfg.exitGap) := by
  have hrel : (match s.departures.release with | some r => r.timer == s.now | none => false) = true ↔
      ∃ rel, s.departures.release = some rel ∧ rel.timer = s.now := by
    cases s.departures.release <;> simp
  have hexit : (match s.departures.lastExit with | some x => secondsBetween s.clock.time x == s.cfg.exitGap | none => false) = true ↔
      ∃ x, s.departures.lastExit = some x ∧ secondsBetween s.clock.time x = s.cfg.exitGap := by
    cases s.departures.lastExit <;> simp
  unfold State.dueDepartures
  simp only [List.mem_append, List.mem_flatMap, mem_whenDue, beq_iff_eq, or_assoc]
  exact or_congr (and_congr_right' hrel) (or_congr_right (and_congr_right' hexit))
/-- The head of the send queue between two frames: the urgent frames first (R188). -/
theorem head?_unsent {l : Link} (h : l.sending = none) : l.head? = (l.urgent ++ l.other).head? := by
  unfold Link.head? Link.headClass
  rw [h]
  cases hu : l.urgent with
  | cons f fs => simp [Link.frames, hu]
  | nil => cases ho : l.other <;> simp [Link.frames, ho]
theorem gapReached_iff : s.gapReached = true ↔ Claims.instant s .frameSendStart := by
  unfold State.gapReached State.gapWithin
  rw [Bool.and_eq_true, lineIdle_iff]
  refine and_congr_right fun hc => ?_
  rw [head?_unsent hc.2.2.1]
  cases (s.link.urgent ++ s.link.other).head? with
  | none => exact ⟨nofun, fun ⟨_, hf, _⟩ => nomatch hf⟩
  | some f => exact ⟨fun h => ⟨f, rfl, of_decide_eq_true h⟩, fun ⟨_, hf, h⟩ => Option.some.inj hf ▸ decide_eq_true h⟩
theorem mem_due {c : Instr} : c ∈ s.due ↔ c ∈ s.dueNode ∨ c ∈ s.dueLanes ∨ c ∈ s.dueWash ∨ c ∈ s.dueAlloc ∨
    c ∈ s.duePower ∨ (∃ r ∈ s.runs.runs, c ∈ s.dueRun r) ∨ c ∈ s.dueDepartures ∨ (c = .frameSendStart ∧ s.gapReached = true) := by
  unfold State.due
  simp only [List.mem_append, List.mem_flatMap, mem_whenDue, or_assoc]
/-- What falls due is an expiry of this second, or an instant that it brings. -/
theorem timed_of_due {c : Instr} (m : c ∈ s.due) : Claims.timed s (fun e => e = s.now) c ∨ Claims.instant s c := by
  rcases mem_due.mp m with m | m | m | m | m | ⟨r, hr, m⟩ | m | ⟨rfl, h⟩
  · rcases mem_dueNode.mp m with ⟨rfl, level, h⟩ | ⟨rfl, h⟩ | ⟨rfl, h⟩
    · exact .inl ⟨s.now, level, h, rfl⟩
    · exact .inr h
    · exact .inl ⟨s.now, h, rfl⟩
  · rcases mem_dueLanes.mp m with ⟨l, hl, pos, hp, rfl, h⟩ | ⟨l, hl, rfl, h⟩
    · exact .inl ⟨s.now, l, hl, rfl, hp, h, rfl⟩
    · exact .inl ⟨s.now, l, hl, rfl, h, rfl⟩
  · rcases mem_dueWash.mp m with ⟨rfl, h⟩ | ⟨k, st, hc, hk, h⟩ | ⟨rfl, h⟩
    · exact .inl ⟨s.now, h, rfl⟩
    · rcases (mem_stageExpiry k st).mp hc with ⟨rfl, rfl⟩ | ⟨rfl, rfl⟩ | ⟨rfl, rfl⟩ | ⟨rfl, rfl⟩ <;> exact .inl ⟨s.now, hk, h, rfl⟩
    · exact .inl ⟨s.now, h, rfl⟩
  · rcases mem_dueAlloc.mp m with ⟨o, ho, rfl, h⟩ | m | ⟨b, hb, m⟩ | ⟨a, ha, rfl, h⟩
    · exact .inl ⟨o, ho, rfl, h⟩
    · rcases mem_dueCaller.mp m with ⟨rfl, call, count, h⟩ | ⟨rfl, call, count, best, h⟩
      · exact .inl ⟨call, count, s.now, h, rfl⟩
      · exact .inl ⟨call, count, best, s.now, h, rfl⟩
    · rcases mem_dueBus.mp m with ⟨f, hf, ⟨rfl, u, h⟩ | ⟨rfl, h⟩ | ⟨rfl, lane, start, lost, take, hp, h⟩⟩
      · exact .inl ⟨s.now, b, hb, u, hf, h, rfl⟩
      · obtain ⟨lane, start, lost, take, hp, h⟩ := h
        exact .inl ⟨s.now, rfl, .inl ⟨b, hb, lane, start, lost, take, hf, hp, h⟩⟩
      · exact .inl ⟨b, hb, lane, start, lost, take, hf, hp, h⟩
    · exact .inl ⟨s.now, rfl, .inr ⟨a, ha, rfl, h⟩⟩
  · rcases mem_duePower.mp m with ⟨x, hx, ⟨rfl, h⟩ | ⟨rfl, h⟩⟩ | ⟨x, hx, rfl, h⟩ | ⟨rfl, h⟩ | ⟨rfl, h⟩ | ⟨rfl, h⟩ | ⟨g, rfl, h⟩
    · exact .inl ⟨s.now, x, hx, rfl, h, rfl⟩
    · exact .inl ⟨s.now, x, hx, rfl, h, rfl⟩
    · exact .inl ⟨s.now, x, hx, rfl, h, rfl⟩
    all_goals exact .inl ⟨s.now, h, rfl⟩
  · rcases mem_dueRun.mp m with ⟨rfl, h⟩ | ⟨rfl, h⟩ | ⟨rfl, h⟩ | ⟨rfl, h⟩ | ⟨rfl, h⟩ | ⟨rfl, h⟩
    · exact .inl ⟨s.now, r, hr, rfl, h, rfl⟩
    · exact .inl ⟨s.now, r, hr, rfl, h, rfl⟩
    all_goals exact .inr ⟨r, hr, rfl, (leadNow_iff r _).mp h⟩
  · rcases mem_dueDepartures.mp m with ⟨rfl, h⟩ | ⟨o, ho, rfl, h⟩ | ⟨rfl, h⟩
    · exact .inl h
    · exact .inl ⟨o, ho, rfl, h⟩
    · exact .inr h
  · exact .inr (gapReached_iff.mp h)
/-- An expiry of this second falls due. -/
theorem due_of_timed {c : Instr} (h : Claims.timed s (fun e => e = s.now) c) : c ∈ s.due := by
  have node : c ∈ s.dueNode → c ∈ s.due := fun m => mem_due.mpr (.inl m)
  have lanes : c ∈ s.dueLanes → c ∈ s.due := fun m => mem_due.mpr (.inr (.inl m))
  have wash : c ∈ s.dueWash → c ∈ s.due := fun m => mem_due.mpr (.inr (.inr (.inl m)))
  have alloc : c ∈ s.dueAlloc → c ∈ s.due := fun m => mem_due.mpr (.inr (.inr (.inr (.inl m))))
  have power : c ∈ s.duePower → c ∈ s.due := fun m => mem_due.mpr (.inr (.inr (.inr (.inr (.inl m)))))
  have run : (∃ r ∈ s.runs.runs, c ∈ s.dueRun r) → c ∈ s.due := fun m => mem_due.mpr (.inr (.inr (.inr (.inr (.inr (.inl m))))))
  have departures : c ∈ s.dueDepartures → c ∈ s.due := fun m =>
    mem_due.mpr (.inr (.inr (.inr (.inr (.inr (.inr (.inl m)))))))
  have stage : ∀ k st, s.stageDue k st → c ∈ stageExpiry k st → c ∈ s.due := fun k st h m =>
    wash (mem_dueWash.mpr (.inr (.inl ⟨k, st, m, h⟩)))
  have caller : c ∈ s.dueCaller → c ∈ s.due := fun m => alloc (mem_dueAlloc.mpr (.inr (.inl m)))
  have bus : (∃ b ∈ s.buses.records, c ∈ s.dueBus b) → c ∈ s.due := fun m => alloc (mem_dueAlloc.mpr (.inr (.inr (.inl m))))
  cases c with
  | resetHoldExpiry =>
    obtain ⟨_, level, h, rfl⟩ := h
    exact node (mem_dueNode.mpr (.inl ⟨rfl, level, h⟩))
  | listenTimerExpiry =>
    obtain ⟨_, h, rfl⟩ := h
    exact node (mem_dueNode.mpr (.inr (.inr ⟨rfl, h⟩)))
  | berthSettleExpiry n pos =>
    obtain ⟨_, l, hl, rfl, hp, h, rfl⟩ := h
    exact lanes (mem_dueLanes.mpr (.inl ⟨l, hl, pos, hp, rfl, h⟩))
  | surveyPeriodEnd n =>
    obtain ⟨_, l, hl, rfl, h, rfl⟩ := h
    exact lanes (mem_dueLanes.mpr (.inr ⟨l, hl, rfl, h⟩))
  | entryCallTimeout =>
    obtain ⟨_, h, rfl⟩ := h
    exact wash (mem_dueWash.mpr (.inl ⟨rfl, h⟩))
  | spinupExpiry k =>
    obtain ⟨_, hk, h, rfl⟩ := h
    exact stage k .spinup ⟨hk, h⟩ (List.mem_singleton.mpr rfl)
  | dwellExpiry k =>
    obtain ⟨_, hk, h, rfl⟩ := h
    exact stage k .dwell ⟨hk, h⟩ (List.mem_singleton.mpr rfl)
  | runonExpiry k =>
    obtain ⟨_, hk, h, rfl⟩ := h
    exact stage k .runon ⟨hk, h⟩ (List.mem_singleton.mpr rfl)
  | advanceTimeout k =>
    obtain ⟨_, hk, h, rfl⟩ := h
    exact stage k .leaving ⟨hk, h⟩ (List.mem_singleton.mpr rfl)
  | frostClearExpiry =>
    obtain ⟨_, h, rfl⟩ := h
    exact wash (mem_dueWash.mpr (.inr (.inr ⟨rfl, h⟩)))
  | callTimerExpiry =>
    obtain ⟨call, count, _, h, rfl⟩ := h
    exact caller (mem_dueCaller.mpr (.inl ⟨rfl, call, count, h⟩))
  | takeWaitExpiry =>
    obtain ⟨call, count, best, _, h, rfl⟩ := h
    exact caller (mem_dueCaller.mpr (.inr ⟨rfl, call, count, best, h⟩))
  | offerWindowExpiry k =>
    obtain ⟨o, ho, rfl, h⟩ := h
    exact alloc (mem_dueAlloc.mpr (.inl ⟨o, ho, rfl, h⟩))
  | unplacedRetryExpiry f =>
    obtain ⟨_, b, hb, u, hf, h, rfl⟩ := h
    exact bus ⟨b, hb, mem_dueBus.mpr ⟨f, hf, .inl ⟨rfl, u, h⟩⟩⟩
  | takeWatchExpiry f =>
    obtain ⟨_, rfl, ⟨b, hb, lane, start, lost, take, hf, hp, h⟩ | ⟨a, ha, rfl, h⟩⟩ := h
    · exact bus ⟨b, hb, mem_dueBus.mpr ⟨f, hf, .inr (.inl ⟨rfl, lane, start, lost, take, hp, h⟩)⟩⟩
    · exact alloc (mem_dueAlloc.mpr (.inr (.inr (.inr ⟨a, ha, rfl, h⟩))))
  | transitTimeout f =>
    obtain ⟨b, hb, lane, start, lost, take, hf, hp, h⟩ := h
    exact bus ⟨b, hb, mem_dueBus.mpr ⟨f, hf, .inr (.inr ⟨rfl, lane, start, lost, take, hp, h⟩)⟩⟩
  | chargerSettleExpiry k =>
    obtain ⟨_, x, hx, rfl, h, rfl⟩ := h
    exact power (mem_duePower.mpr (.inl ⟨x, hx, .inl ⟨rfl, h⟩⟩))
  | rampTimerExpiry k =>
    obtain ⟨_, x, hx, rfl, h, rfl⟩ := h
    exact power (mem_duePower.mpr (.inl ⟨x, hx, .inr ⟨rfl, h⟩⟩))
  | freshnessTimerExpiry k =>
    obtain ⟨_, x, hx, rfl, h, rfl⟩ := h
    exact power (mem_duePower.mpr (.inr (.inl ⟨x, hx, rfl, h⟩)))
  | planHoldExpiry =>
    obtain ⟨_, h, rfl⟩ := h
    exact power (mem_duePower.mpr (.inr (.inr (.inl ⟨rfl, h⟩))))
  | turnBoundary =>
    obtain ⟨_, h, rfl⟩ := h
    exact power (mem_duePower.mpr (.inr (.inr (.inr (.inl ⟨rfl, h⟩)))))
  | drawTimerExpiry =>
    obtain ⟨_, h, rfl⟩ := h
    exact power (mem_duePower.mpr (.inr (.inr (.inr (.inr (.inl ⟨rfl, h⟩))))))
  | feederRefreshExpiry g =>
    obtain ⟨_, h, rfl⟩ := h
    exact power (mem_duePower.mpr (.inr (.inr (.inr (.inr (.inr ⟨g, rfl, h⟩))))))
  | claimWindowExpiry n =>
    obtain ⟨_, r, hr, rfl, h, rfl⟩ := h
    exact run ⟨r, hr, mem_dueRun.mpr (.inl ⟨rfl, h⟩)⟩
  | claimRefreshExpiry n =>
    obtain ⟨_, r, hr, rfl, h, rfl⟩ := h
    exact run ⟨r, hr, mem_dueRun.mpr (.inr (.inl ⟨rfl, h⟩))⟩
  | releaseTimerExpiry => exact departures (mem_dueDepartures.mpr (.inl ⟨rfl, h⟩))
  | shuntTimerExpiry f =>
    obtain ⟨o, ho, rfl, h⟩ := h
    exact departures (mem_dueDepartures.mpr (.inr (.inl ⟨o, ho, rfl, h⟩)))
  | _ => exact h.elim
/-- An instant that this second brings falls due. -/
theorem due_of_instant {c : Instr} (h : Claims.instant s c) : c ∈ s.due := by
  have run : (∃ r ∈ s.runs.runs, c ∈ s.dueRun r) → c ∈ s.due := fun m => mem_due.mpr (.inr (.inr (.inr (.inr (.inr (.inl m))))))
  cases c with
  | claimPeriodEntry n =>
    obtain ⟨r, hr, rfl, h⟩ := h
    exact run ⟨r, hr, mem_dueRun.mpr (.inr (.inr (.inl ⟨rfl, (leadNow_iff r _).mpr h⟩)))⟩
  | shuntLeadReached n =>
    obtain ⟨r, hr, rfl, h⟩ := h
    exact run ⟨r, hr, mem_dueRun.mpr (.inr (.inr (.inr (.inl ⟨rfl, (leadNow_iff r _).mpr h⟩))))⟩
  | releaseLeadReached n =>
    obtain ⟨r, hr, rfl, h⟩ := h
    exact run ⟨r, hr, mem_dueRun.mpr (.inr (.inr (.inr (.inr (.inl ⟨rfl, (leadNow_iff r _).mpr h⟩)))))⟩
  | gracePassed n =>
    obtain ⟨r, hr, rfl, h⟩ := h
    exact run ⟨r, hr, mem_dueRun.mpr (.inr (.inr (.inr (.inr (.inr ⟨rfl, (leadNow_iff r _).mpr h⟩)))))⟩
  | exitGapHolds => exact mem_due.mpr (.inr (.inr (.inr (.inr (.inr (.inr (.inl (mem_dueDepartures.mpr (.inr (.inr ⟨rfl, h⟩))))))))))
  | frameSendStart => exact mem_due.mpr (.inr (.inr (.inr (.inr (.inr (.inr (.inr ⟨rfl, gapReached_iff.mpr h⟩)))))))
  | restartAnswerLeft => exact mem_due.mpr (.inl (mem_dueNode.mpr (.inr (.inl ⟨rfl, h⟩))))
  | _ => exact h.elim

/-! ### Overtaken expiries (R95, R205; log 6) -/

theorem expired_iff {now : Nat} {t : Option Nat} : expired now t = true ↔ ∃ e, t = some e ∧ e ≤ now := by
  cases t <;> simp [expired]
/-- A command that takes effect under a guard changes nothing where the guard fails. -/
theorem ite_next {P : Prop} [Decidable P] {x : Host.Outcome State Fault Refusal} (h : ¬ P) :
    (if P then x else .next s) = .next s := if_neg h
theorem timed_of_settleExpired {n pos : Nat} (h : s.settleExpired n pos = true) :
    Claims.timed s (fun e => e ≤ s.now) (.berthSettleExpiry n pos) := by
  unfold State.settleExpired at h
  split at h
  next l hl =>
    obtain ⟨hp, ht⟩ := (Bool.and_eq_true _ _).mp h
    split at ht
    next st hst =>
      obtain ⟨e, he, hr⟩ := expired_iff.mp ht
      refine ⟨e, l, laneOf_mem hl, laneOf_number hl, of_decide_eq_true hp, ?_, hr⟩
      rw [hst]
      exact ((settleTimer_iff st e).mp he).imp (congrArg some) (congrArg some)
    next => exact nomatch ht
  next => exact nomatch h
theorem timer_of_stageExpired {k : Nat} {st : StageState} (h : s.stageExpired k st = true) :
    ∃ e, 1 ≤ k ∧ s.wash.stages[k - 1]? = some ⟨st, some e⟩ ∧ e ≤ s.now := by
  unfold State.stageExpired at h
  obtain ⟨hk, hx⟩ := (Bool.and_eq_true _ _).mp h
  split at hx
  next x hst =>
    obtain ⟨hstate, ht⟩ := (Bool.and_eq_true _ _).mp hx
    obtain ⟨e, he, hr⟩ := expired_iff.mp ht
    obtain ⟨state, timer⟩ := x
    obtain rfl : state = st := eq_of_beq hstate
    obtain rfl : timer = some e := he
    exact ⟨e, of_decide_eq_true ((Bool.and_eq_true _ _).mp hk).2, hst, hr⟩
  next => exact nomatch hx

section
variable {n : Nat}

theorem linkCharger_found {c : Charger} (h : s.linkCharger n = some c) : c ∈ s.charging.chargers ∧ c.berth = n := by
  unfold State.linkCharger at h
  split at h
  next => exact ⟨List.mem_of_find?_eq_some h, by simpa using List.find?_some h⟩
  next => exact nomatch h
theorem entryOf_found {e : StationEntry} (h : s.entryOf n = some e) : e ∈ s.feeders.stations ∧ e.station = n :=
  ⟨List.mem_of_find?_eq_some h, by simpa using List.find?_some h⟩
theorem runOf_found {r : Run} (h : s.runOf n = some r) : r ∈ s.runs.runs ∧ r.run = n :=
  ⟨List.mem_of_find?_eq_some h, by simpa using List.find?_some h⟩
theorem shuntOf_found {o : ShuntOrder} (h : s.shuntOf n = some o) : o ∈ s.departures.shunts ∧ o.fleet = n :=
  ⟨List.mem_of_find?_eq_some h, by simpa using List.find?_some h⟩
end

/-- The arrived takes keep their watches while none of the fleet has run out. -/
theorem arrived_kept {f : Nat} (h : ¬ Claims.timed s (fun e => e ≤ s.now) (.takeWatchExpiry f)) :
    s.setAlloc { s.alloc with arrived := s.alloc.arrived.filter (fun a => a.fleet != f || !expired s.now a.sent.watch) } = s := by
  have hall : s.alloc.arrived.filter (fun a => a.fleet != f || !expired s.now a.sent.watch) = s.alloc.arrived := by
    refine List.filter_eq_self.mpr fun a ha => ?_
    rw [Bool.or_eq_true, bne_iff_ne, Bool.not_eq_true']
    refine Decidable.or_iff_not_imp_left.mpr fun hf => Bool.eq_false_iff.mpr fun ht => ?_
    obtain ⟨e, he, hr⟩ := expired_iff.mp ht
    exact h ⟨e, hr, .inr ⟨a, ha, Decidable.not_not.mp hf, he⟩⟩
  rw [hall]
  rfl

section
variable {f : Nat}

theorem unplacedRetry_overtaken (h : ¬ Claims.timed s (fun e => e ≤ s.now) (.unplacedRetryExpiry f)) :
    execUnplacedRetryExpiry f s = .next s := by
  unfold execUnplacedRetryExpiry
  split
  next b hb =>
    split
    next u retry hp =>
      refine ite_next fun ht => ?_
      obtain ⟨e, rfl, hr⟩ := expired_iff.mp ht
      exact h ⟨e, b, busOf_mem hb, u, busOf_fleet hb, hp, hr⟩
    next => rfl
  next => rfl
theorem takeWatch_overtaken (h : ¬ Claims.timed s (fun e => e ≤ s.now) (.takeWatchExpiry f)) :
    execTakeWatchExpiry f s = .next s := by
  unfold execTakeWatchExpiry
  rw [arrived_kept h]
  dsimp only
  split
  next b hb =>
    split
    next lane start lost take hp =>
      refine ite_next fun ht => ?_
      obtain ⟨e, he, hr⟩ := expired_iff.mp ht
      exact h ⟨e, hr, .inl ⟨b, busOf_mem hb, lane, start, lost, take, busOf_fleet hb, hp, he⟩⟩
    next => rfl
  next => rfl
theorem transitTimeout_overtaken (h : ¬ Claims.timed s (fun e => e ≤ s.now) (.transitTimeout f)) :
    execTransitTimeout f s = .next s := by
  unfold execTransitTimeout
  split
  next b _ hb =>
    refine ite_next fun ht => ?_
    unfold State.transitExpired at ht
    split at ht
    next lane start lost take hp =>
      exact h ⟨b, busOf_mem hb, lane, start, lost, take, busOf_fleet hb, hp, of_decide_eq_true ht⟩
    next => exact nomatch ht
  next => rfl
end

theorem exec_overtaken {c : Instr} (hc : Claims.isExpiry c = true) (h : ¬ Claims.timed s (fun e => e ≤ s.now) c) :
    exec c s = .next s := by
  cases c with
  | resetHoldExpiry =>
    show execResetHoldExpiry s = _
    unfold execResetHoldExpiry
    split
    next => rfl
    next e level hl => exact ite_next fun hr => h ⟨e, level, hl, hr⟩
    next => rfl
  | listenTimerExpiry => exact ite_next fun ht => h (expired_iff.mp ((Bool.and_eq_true _ _).mp ht).2)
  | berthSettleExpiry n pos => exact ite_next fun ht => h (timed_of_settleExpired ((Bool.and_eq_true _ _).mp ht).2)
  | surveyPeriodEnd n =>
    show execSurveyPeriodEnd n s = _
    unfold execSurveyPeriodEnd
    split
    next l _ hl =>
      refine ite_next fun ht => ?_
      obtain ⟨e, he, hr⟩ := expired_iff.mp ht
      exact h ⟨e, l, laneOf_mem hl, laneOf_number hl, he, hr⟩
    next => rfl
  | entryCallTimeout =>
    show execEntryCallTimeout s = _
    unfold execEntryCallTimeout
    split
    next ht _ => exact absurd (expired_iff.mp ((Bool.and_eq_true _ _).mp ht).2) h
    next => rfl
  | spinupExpiry k => exact ite_next fun ht => h (timer_of_stageExpired ht)
  | dwellExpiry k => exact ite_next fun ht => h (timer_of_stageExpired ht)
  | runonExpiry k => exact ite_next fun ht => h (timer_of_stageExpired ht)
  | advanceTimeout k => exact ite_next fun ht => h (timer_of_stageExpired ht)
  | frostClearExpiry => exact ite_next fun ht => h (expired_iff.mp ((Bool.and_eq_true _ _).mp ht).2)
  | callTimerExpiry =>
    show execCallTimerExpiry s = _
    unfold execCallTimerExpiry
    split
    next call count e hcall => exact if_pos (Nat.lt_of_not_le fun hr => h ⟨call, count, e, hcall, hr⟩)
    next => rfl
    next => rfl
  | takeWaitExpiry =>
    show execTakeWaitExpiry s = _
    unfold execTakeWaitExpiry
    split
    next call count best e hcall => exact if_pos (Nat.lt_of_not_le fun hr => h ⟨call, count, best, e, hcall, hr⟩)
    next => rfl
    next => rfl
  | offerWindowExpiry k =>
    show execOfferWindowExpiry k s = _
    unfold execOfferWindowExpiry
    split
    next o ho =>
      obtain ⟨hm, hk⟩ := offerOf_caller ho
      exact if_pos (Nat.lt_of_not_le fun hr => h ⟨o, hm, hk, hr⟩)
    next => rfl
  | unplacedRetryExpiry f => exact unplacedRetry_overtaken h
  | takeWatchExpiry f => exact takeWatch_overtaken h
  | transitTimeout f => exact transitTimeout_overtaken h
  | chargerSettleExpiry k =>
    show execChargerSettleExpiry k s = _
    unfold execChargerSettleExpiry
    split
    next x hx =>
      obtain ⟨hm, hk⟩ := linkCharger_found hx
      split
      next e hp => exact if_pos (Nat.lt_of_not_le fun hr => h ⟨e, x, hm, hk, hp, hr⟩)
      all_goals rfl
    next => rfl
  | rampTimerExpiry k =>
    show execRampTimerExpiry k s = _
    unfold execRampTimerExpiry
    split
    next x hx =>
      obtain ⟨hm, hk⟩ := linkCharger_found hx
      refine ite_next fun ht => ?_
      obtain ⟨e, he, hr⟩ := expired_iff.mp ht
      exact h ⟨e, x, hm, hk, he, hr⟩
    next => rfl
  | turnBoundary => exact ite_next fun ht => h (expired_iff.mp ((Bool.and_eq_true _ _).mp ht).2)
  | planHoldExpiry => exact ite_next fun ht => h (expired_iff.mp ((Bool.and_eq_true _ _).mp ht).2)
  | drawTimerExpiry => exact ite_next fun ht => h (expired_iff.mp ((Bool.and_eq_true _ _).mp ht).2)
  | freshnessTimerExpiry k =>
    show execFreshnessTimerExpiry k s = _
    unfold execFreshnessTimerExpiry
    split
    next x _ hx =>
      obtain ⟨hm, hk⟩ := entryOf_found hx
      refine ite_next fun ht => ?_
      obtain ⟨e, he, hr⟩ := expired_iff.mp ht
      exact h ⟨e, x, hm, hk, he, hr⟩
    next => rfl
  | feederRefreshExpiry g => exact ite_next fun ht => h (expired_iff.mp ((Bool.and_eq_true _ _).mp ht).2)
  | claimWindowExpiry n =>
    show execClaimWindowExpiry n s = _
    unfold execClaimWindowExpiry
    split
    next r hr =>
      obtain ⟨hm, hn⟩ := runOf_found hr
      split
      next _ ht _ =>
        obtain ⟨e, he, hle⟩ := expired_iff.mp ht
        exact absurd ⟨e, r, hm, hn, he, hle⟩ h
      next => rfl
    next => rfl
  | claimRefreshExpiry n =>
    show execClaimRefreshExpiry n s = _
    unfold execClaimRefreshExpiry
    split
    next r hr =>
      obtain ⟨hm, hn⟩ := runOf_found hr
      refine ite_next fun ht => ?_
      obtain ⟨e, he, hle⟩ := expired_iff.mp ht
      exact h ⟨e, r, hm, hn, he, hle⟩
    next => rfl
  | shuntTimerExpiry f =>
    show execShuntTimerExpiry f s = _
    unfold execShuntTimerExpiry
    split
    next o x _ ho _ =>
      obtain ⟨hm, hf⟩ := shuntOf_found ho
      exact if_pos (Nat.lt_of_not_le fun hr => h ⟨o, hm, hf, hr⟩)
    next => rfl
  | releaseTimerExpiry =>
    refine ite_next fun ht => ?_
    obtain ⟨e, he, hr⟩ := expired_iff.mp ((Bool.and_eq_true _ _).mp ht).2
    obtain ⟨rel, hrel, rfl⟩ := Option.map_eq_some_iff.mp he
    exact h ⟨rel, hrel, hr⟩
  | _ => exact nomatch hc

end Sys2Proof.Machine

open Sys2Proof Sys2Proof.Machine

/-- Settles O2: a step on an empty queue is `State.second`, its due commands are read off timer by timer, and an expiry whose
timer does not stand at or before now falls through its guard. -/
theorem secondsPassAndTimersExpire : Obligations.SecondsPassAndTimersExpire := by
  refine ⟨fun s hq hc => ⟨fun hi => ?_, fun hi => ?_⟩, ⟨fun s c => ⟨timed_of_due, ?_⟩, fun s c => exec_overtaken⟩,
    fun x y => ⟨secondsBetween_cast x y, timeToGo_eq y x⟩⟩
  · rw [step_second hq, second_counting hc hi]
    rfl
  · rw [step_second hq, second_busy hc hi]
    rfl
  · exact fun h => h.elim due_of_timed due_of_instant
end

section
/-! SUPPORT. The two passes of the allotment as one way of serving claimants in turn, each taking its share of what its group
has left (R125, R126), and the claimants of a boundary in their order (R121 to R124). -/

namespace Sys2Proof.Machine

open Sys2Proof

/-! ### Serving claimants in turn -/

/-- The powers of the groups after the claimant has taken its share of what its group had. -/
def leftAfter (share : Claimant → Nat → Nat) (left : PerGroup Nat) (c : Claimant) : PerGroup Nat :=
  groupSet left c.group (groupGet left c.group - share c (groupGet left c.group))

theorem groupGet_groupSet_if {α : Type} (p : PerGroup α) (g h : Group) (x : α) :
    groupGet (groupSet p g x) h = if g = h then x else groupGet p h := by
  cases g <;> cases h <;> rfl
theorem groupGet_leftAfter (share : Claimant → Nat → Nat) (left : PerGroup Nat) (c : Claimant) (g : Group) :
    groupGet (leftAfter share left c) g = groupGet left g - if c.group = g then share c (groupGet left c.group) else 0 := by
  unfold leftAfter
  rw [groupGet_groupSet_if]
  split_ifs with h
  · rw [h]
  · rw [Nat.sub_zero]

/-- What the claimant at each index takes when each in turn takes its `share` of what its group has left. -/
def turnTake (share : Claimant → Nat → Nat) : PerGroup Nat → List Claimant → Nat → Nat
  | _, [], _ => 0
  | left, c :: _, 0 => share c (groupGet left c.group)
  | left, c :: cs, i + 1 => turnTake share (leftAfter share left c) cs i

section
variable (c : Claimant) (cs : List Claimant) (f : Nat → Nat) (g : Group)

theorem spent_zero : Claims.spent cs f 0 g = 0 := rfl
theorem spent_cons (n : Nat) : Claims.spent (c :: cs) f (n + 1) g =
    (if c.group = g then f 0 else 0) + Claims.spent cs (fun i => f (i + 1)) n g := by
  unfold Claims.spent
  rw [List.range_succ_eq_map, List.filter_cons, List.filter_map, apply_ite (fun l : List Nat => (l.map f).sum)]
  by_cases h : c.group = g <;> simp [h, Function.comp_def]
theorem spent_add (h : Nat → Nat) (n : Nat) :
    Claims.spent cs (fun i => f i + h i) n g = Claims.spent cs f n g + Claims.spent cs h n g :=
  List.sum_map_add
/-- What is spent in a group turns on the claimants' groups alone. -/
theorem spent_mapIdx {w : Nat → Claimant → Claimant} (hw : ∀ i c, (w i c).group = c.group) (n : Nat) :
    Claims.spent (cs.mapIdx w) f n g = Claims.spent cs f n g := by
  unfold Claims.spent
  simp only [List.getElem?_mapIdx, Option.any_map, hw]
theorem allotted_cons : Claims.allotted g (c :: cs) = (if c.group = g then c.power else 0) + Claims.allotted g cs := by
  unfold Claims.allotted
  by_cases h : c.group = g <;> simp [h]
theorem allotted_powers : Claims.allotted g (cs.mapIdx fun i c => { c with power := f i }) = Claims.spent cs f cs.length g := by
  induction cs generalizing f with
  | nil => rfl
  | cons c cs ih => rw [List.mapIdx_cons, allotted_cons, ih, List.length_cons, spent_cons]
end

section
variable (share : Claimant → Nat → Nat) {cs : List Claimant}

theorem spent_turnTake_cons (left : PerGroup Nat) (c : Claimant) (cs : List Claimant) (n : Nat) (g : Group) :
    Claims.spent (c :: cs) (turnTake share left (c :: cs)) (n + 1) g = (if c.group = g then share c (groupGet left c.group) else 0)
      + Claims.spent cs (turnTake share (leftAfter share left c) cs) n g :=
  spent_cons c cs _ g n
/-- What a claimant has left of its group, before its turn, is the group's power less what those before it have taken. -/
theorem turnTake_at (left : PerGroup Nat) {i : Nat} {c : Claimant} (hc : cs[i]? = some c) : turnTake share left cs i =
    share c (groupGet left c.group - Claims.spent cs (turnTake share left cs) i c.group) := by
  induction cs generalizing left i with
  | nil => exact nomatch hc
  | cons d ds ih =>
    cases i with
    | zero =>
      obtain rfl : d = c := Option.some.inj hc
      rfl
    | succ i =>
      rw [spent_turnTake_cons, ← Nat.sub_sub, ← groupGet_leftAfter]
      exact ih (leftAfter share left d) hc
/-- Shares of what is left never spend more than the group had. -/
theorem spent_turnTake_le (hshare : ∀ c x, share c x ≤ x) (left : PerGroup Nat) (g : Group) :
    Claims.spent cs (turnTake share left cs) cs.length g ≤ groupGet left g := by
  induction cs generalizing left with
  | nil => exact Nat.zero_le _
  | cons d ds ih =>
    have htail := ih (leftAfter share left d)
    have hhead : (if d.group = g then share d (groupGet left d.group) else 0) ≤ groupGet left g := by
      split
      next h => exact h ▸ hshare d _
      next => exact Nat.zero_le _
    rw [groupGet_leftAfter] at htail
    rw [List.length_cons, spent_turnTake_cons]
    omega
end

/-! ### The two passes (R125, R126) -/

/-- The share of pass 1: the granted rate, or what the group has left, if that is the Pmin at least (R125). -/
def rateShare (c : Claimant) (x : Nat) : Nat := Claims.atLeast c.charger.conf.pmin (min c.figures.rate x)

/-- The share of pass 2: up to the ceiling, one that has nothing to its Pmin at least (R126). -/
def raiseShare (c : Claimant) (x : Nat) : Nat :=
  if 0 < c.power then min (c.top - c.power) x else Claims.atLeast c.charger.conf.pmin (min c.top x)

theorem atLeast_eq (pmin x : Nat) : (if x < pmin then 0 else x) = Claims.atLeast pmin x := by
  unfold Claims.atLeast
  split_ifs <;> omega
theorem atLeast_cases (pmin x : Nat) :
    Claims.atLeast pmin x = 0 ∨ (pmin ≤ Claims.atLeast pmin x ∧ Claims.atLeast pmin x = x) := by
  unfold Claims.atLeast
  split
  next h => exact .inr ⟨h, rfl⟩
  next => exact .inl rfl
theorem atLeast_le (pmin x : Nat) : Claims.atLeast pmin x ≤ x := by
  rcases atLeast_cases pmin x with h | ⟨-, h⟩ <;> omega
theorem rateShare_le (c : Claimant) (x : Nat) : rateShare c x ≤ x := (atLeast_le _ _).trans (Nat.min_le_right ..)
theorem raiseShare_le (c : Claimant) (x : Nat) : raiseShare c x ≤ x := by
  unfold raiseShare
  split
  · exact Nat.min_le_right ..
  · exact (atLeast_le _ _).trans (Nat.min_le_right ..)
theorem passOne_powers (left : PerGroup Nat) (cs : List Claimant) :
    (passOne left cs).2 = cs.mapIdx fun i c => { c with power := turnTake rateShare left cs i } := by
  induction cs generalizing left with
  | nil => rfl
  | cons c cs ih =>
    simp only [passOne, atLeast_eq, List.mapIdx_cons]
    exact congrArg (List.cons _) (ih _)
theorem passOne_left (left : PerGroup Nat) (cs : List Claimant) (g : Group) : groupGet (passOne left cs).1 g =
    groupGet left g - Claims.spent cs (turnTake rateShare left cs) cs.length g := by
  induction cs generalizing left with
  | nil => rfl
  | cons c cs ih =>
    rw [List.length_cons, spent_turnTake_cons, ← Nat.sub_sub, ← groupGet_leftAfter, ← ih]
    simp only [passOne, atLeast_eq]
    rfl
theorem passTwo_powers (left : PerGroup Nat) (cs : List Claimant) :
    passTwo left cs = cs.mapIdx fun i c => { c with power := c.power + turnTake raiseShare left cs i } := by
  induction cs generalizing left with
  | nil => rfl
  | cons c cs ih =>
    simp only [passTwo, atLeast_eq, List.mapIdx_cons]
    exact congrArg (List.cons _) (ih _)

/-- What pass 1 gives the claimant at each index (R125). -/
def firstTake (grants : PerGroup Nat) (cs : List Claimant) : Nat → Nat := turnTake rateShare grants cs

/-- What pass 2 adds for the claimant at each index (R126). -/
def secondTake (grants : PerGroup Nat) (cs : List Claimant) : Nat → Nat :=
  turnTake raiseShare (passOne grants cs).1 (passOne grants cs).2

section
variable (grants : PerGroup Nat) (cs : List Claimant)

theorem allot_powers :
    allot grants cs = cs.mapIdx fun i c => { c with power := firstTake grants cs i + secondTake grants cs i } := by
  show passTwo (passOne grants cs).1 (passOne grants cs).2 = _
  rw [passTwo_powers, passOne_powers, List.mapIdx_mapIdx]
  unfold secondTake
  rw [passOne_powers]
  rfl
/-- The claimants of pass 2 are those of pass 1 with other powers, and spend what their groups do. -/
theorem spent_passOne (f : Nat → Nat) (n : Nat) (g : Group) :
    Claims.spent (passOne grants cs).2 f n g = Claims.spent cs f n g := by
  rw [passOne_powers, spent_mapIdx]
  exact fun _ _ => rfl
theorem firstTake_at {i : Nat} {c : Claimant} (hc : cs[i]? = some c) : firstTake grants cs i =
    Claims.atLeast c.charger.conf.pmin
      (min c.figures.rate (groupGet grants c.group - Claims.spent cs (firstTake grants cs) i c.group)) :=
  turnTake_at rateShare grants hc
theorem secondTake_at {i : Nat} {c : Claimant} (hc : cs[i]? = some c) :
    let rest := groupGet grants c.group - Claims.spent cs (firstTake grants cs) cs.length c.group
      - Claims.spent cs (secondTake grants cs) i c.group
    secondTake grants cs i = if 0 < firstTake grants cs i then min (c.top - firstTake grants cs i) rest
      else Claims.atLeast c.charger.conf.pmin (min c.top rest) := by
  have hd : (passOne grants cs).2[i]? = some { c with power := firstTake grants cs i } := by
    rw [passOne_powers, List.getElem?_mapIdx, hc]
    rfl
  refine (turnTake_at raiseShare (passOne grants cs).1 hd).trans ?_
  rw [spent_passOne, passOne_left]
  rfl
/-- The two passes together spend no more of a group than its grant. -/
theorem spent_allot_le (g : Group) : Claims.spent cs (firstTake grants cs) cs.length g
    + Claims.spent cs (secondTake grants cs) cs.length g ≤ groupGet grants g := by
  have hone : Claims.spent cs (firstTake grants cs) cs.length g ≤ groupGet grants g :=
    spent_turnTake_le rateShare rateShare_le grants g
  have htwo := spent_turnTake_le raiseShare raiseShare_le (cs := (passOne grants cs).2) (passOne grants cs).1 g
  have hlen : (passOne grants cs).2.length = cs.length := by rw [passOne_powers, List.length_mapIdx]
  rw [hlen, spent_passOne, passOne_left] at htwo
  change Claims.spent cs (secondTake grants cs) _ _ ≤ groupGet grants g - Claims.spent cs (firstTake grants cs) _ _ at htwo
  omega
theorem allot_within_grant (g : Group) : Claims.allotted g (allot grants cs) ≤ groupGet grants g := by
  rw [allot_powers, allotted_powers, spent_add]
  exact spent_allot_le grants cs g
theorem allot_chargers : (allot grants cs).map (·.charger) = cs.map (·.charger) := by
  refine List.ext_getElem? fun i => ?_
  rw [allot_powers, List.getElem?_map, List.getElem?_mapIdx, List.getElem?_map, Option.map_map]
  rfl
/-- A claimant whose rate is no more than its ceiling is allotted nothing, or a power from its Pmin to its ceiling. -/
theorem take_bounds {i : Nat} {c : Claimant} (hc : cs[i]? = some c) (hrate : c.figures.rate ≤ c.top) :
    let power := firstTake grants cs i + secondTake grants cs i
    power = 0 ∨ (c.charger.conf.pmin ≤ power ∧ power ≤ c.top) := by
  have hone := firstTake_at grants cs hc
  have htwo := secondTake_at grants cs hc
  dsimp only at htwo ⊢
  generalize firstTake grants cs i = first at hone htwo ⊢
  generalize secondTake grants cs i = second at htwo ⊢
  split at htwo
  case isTrue hpos =>
    rcases hone ▸ atLeast_cases c.charger.conf.pmin _ with h | ⟨hmin, hval⟩ <;> omega
  case isFalse hnone =>
    rcases htwo ▸ atLeast_cases c.charger.conf.pmin _ with h | ⟨hmin, hval⟩ <;> omega
end

/-! ### The claimants of a boundary (R121 to R124) -/

section
variable {α : Type} {before : α → α → Bool} {R : α → α → Prop} (htrans : ∀ x y z, R x y → R y z → R x z)
  (hlt : ∀ x y, before x y = true → R x y) (hge : ∀ x y, ¬ before y x = true → R x y)
include htrans hlt hge

theorem insertBy_pairwise (x : α) {xs : List α} (h : xs.Pairwise R) : (insertBy before x xs).Pairwise R := by
  induction xs with
  | nil => exact List.pairwise_singleton R x
  | cons y ys ih =>
    obtain ⟨hy, hys⟩ := List.pairwise_cons.mp h
    unfold insertBy
    split
    case isTrue hbefore =>
      refine List.pairwise_cons.mpr ⟨fun z hz => ?_, ih hys⟩
      rcases (mem_insertBy _ _ _ _).mp hz with rfl | hz
      · exact hlt y z hbefore
      · exact hy z hz
    case isFalse hbefore =>
      have hxy := hge x y hbefore
      refine List.pairwise_cons.mpr ⟨fun z hz => ?_, h⟩
      rcases List.mem_cons.mp hz with rfl | hz
      · exact hxy
      · exact htrans x y z hxy (hy z hz)
/-- A list sorted by a strict order stands pairwise in a transitive relation that holds of two elements in their order, and of
two that the order does not reverse. -/
theorem sortBy_pairwise (xs : List α) : (sortBy before xs).Pairwise R := by
  induction xs with
  | nil => exact .nil
  | cons x xs ih => exact insertBy_pairwise htrans hlt hge x ih
end

theorem served_trans (x y z : Claimant) (hxy : Claims.served x y) (hyz : Claims.served y z) : Claims.served x z := by
  unfold Claims.served at *
  omega
theorem claimsFirst_iff (x y : Claimant) : claimsFirst x y = true ↔ ¬ Claims.served y x := by
  unfold claimsFirst Claims.served
  simp only [Bool.or_eq_true, Bool.and_eq_true, decide_eq_true_eq, beq_iff_eq]
  omega
theorem served_of_first (x y : Claimant) (h : claimsFirst x y = true) : Claims.served x y := by
  have hnot := (claimsFirst_iff x y).mp h
  unfold Claims.served at *
  omega

section
variable (s : State) (c : Charger)

theorem isClaimant_iff : s.isClaimant c = true ↔ Claims.claims s c := by
  unfold State.isClaimant Claims.claims
  simp only [Bool.and_eq_true, Bool.not_eq_true', beq_iff_eq, decide_eq_true_eq, and_assoc]
  refine and_congr_right' (and_congr ?stagger (and_congr ?need (and_congr_right' ?released)))
  case stagger => cases c.staggerEnd <;> simp
  case need =>
    show 0 < (Claims.needOf s c).getD 0 ↔ _
    cases Claims.needOf s c <;> simp
  case released =>
    unfold State.chargerBus
    cases s.occupant c.lane c.pos <;> simp
theorem ceilDiv_eq (x y : Nat) : ceilDiv x y = Claims.ceiling x y := by
  unfold ceilDiv Claims.ceiling
  cases y with
  | zero => rw [Nat.div_zero, Nat.div_zero]
  | succ y => rfl
theorem deadline_eq : s.deadline c = (Claims.figures s c).deadline := by
  unfold State.deadline Claims.figures
  dsimp only
  rw [clampInt_eq (by decide)]
  unfold State.chargerBus
  cases s.occupant c.lane c.pos <;> rfl
theorem figuresOf_eq : s.figuresOf c = Claims.figures s c := by
  unfold State.figuresOf
  dsimp only
  rw [deadline_eq, ceilDiv_eq, ceilDiv_eq, max_comm]
  rfl
end

end Sys2Proof.Machine

open Sys2Proof Sys2Proof.Machine

/-- Settles O29: both passes serve the claimants in turn (`turnTake_at`), within what their groups have (`spent_allot_le`); the
claimants are sorted by `claimsFirst`, which `Claims.served` is the weak order of. -/
theorem allotmentKeepsGrantsAndCeilings : Obligations.AllotmentKeepsGrantsAndCeilings := by
  unfold Obligations.AllotmentKeepsGrantsAndCeilings
  refine ⟨fun grants cs hrate => ⟨allot_within_grant grants cs, fun d hd => ?_, allot_chargers grants cs⟩,
    fun grants cs => ⟨firstTake grants cs, secondTake grants cs, ?_, fun i c hc => ?_⟩, fun s => ⟨isClaimant_iff s, ?_, ?_⟩⟩
  · rw [allot_powers, List.mem_mapIdx] at hd
    obtain ⟨i, hi, rfl⟩ := hd
    exact take_bounds grants cs (c := cs[i]) (List.getElem?_eq_getElem hi) (hrate _ (List.getElem_mem hi))
  · rw [allot_powers, List.length_mapIdx]
  · refine ⟨firstTake_at grants cs hc, secondTake_at grants cs hc, ?_⟩
    rw [allot_powers, List.getElem?_mapIdx, hc]
    rfl
  · exact sortBy_pairwise served_trans served_of_first (fun x y h => not_not.mp fun hn => h ((claimsFirst_iff y x).mpr hn)) _
  · unfold State.claimants
    simp only [figuresOf_eq]
    exact sortBy_perm _ _
end

section
/-! SUPPORT. A charger under its link's reports, its meter and its timers (R106 to R112, R128, R129). -/

namespace Sys2Proof.Machine

open Sys2Proof

variable {s : State} {c : Charger} {berth : Nat}

/-! ### The charger of a report (R105, R129) -/

theorem linkCharger_none (h : s.active = false ∨ s.chargerOf berth = none) : s.linkCharger berth = none := by
  unfold State.linkCharger
  rcases h with h | h <;> simp [h]
theorem linkCharger_some (ha : s.active = true) (hc : s.chargerOf berth = some c) : s.linkCharger berth = some c := by
  unfold State.linkCharger
  rw [if_pos ha, hc]
theorem updateCharger_updateCharger (n : Nat) {f : Charger → Charger} (hf : ∀ c, (f c).berth = c.berth) (g : Charger → Charger)
    (s : State) : (s.updateCharger n f).updateCharger n g = s.updateCharger n (fun c => g (f c)) := by
  unfold State.updateCharger
  simp only [State.setCharging_charging, List.map_map]
  refine congrArg (fun cs => s.setCharging { s.charging with chargers := cs }) (List.map_congr_left fun c _ => ?_)
  by_cases h : c.berth = n <;> simp [h, hf]
/-- A report marks the status request as answered, and then changes the charger (R106). -/
theorem updateCharger_reported (f : Charger → Charger) :
    (s.reported berth).updateCharger berth f = s.updateCharger berth (fun c => f { c with statusAsked := false }) :=
  updateCharger_updateCharger berth (f := fun c => { c with statusAsked := false }) (fun _ => rfl) f s
theorem connect_connected (n now settle : Nat) (c : Charger) :
    Charger.connect n now settle { c with statusAsked := false } = Claims.connected n now settle c := by
  unfold Charger.connect Claims.connected
  cases c.phase with
  | connected => simp only [beq_iff_eq]; rfl
  | _ => rfl
theorem needAt_needs (c : Charger) (f : Option Nat → Option Nat) (s : State) : s.needAt c f = Claims.needs c f s := by
  unfold State.needAt Claims.needs State.chargerBus
  cases s.occupant c.lane c.pos <;> rfl

/-! ### Link reports (R106, R108, R110, R111) -/

/-- A report or a pulse of no charger, or in a state that takes none, changes nothing (R129). -/
theorem exec_report_nowhere (h : s.linkCharger berth = none) (energy : Nat) :
    exec (.connectionReport berth energy) s = .next s ∧ exec (.disconnectReport berth) s = .next s ∧
    exec (.faultReport berth) s = .next s ∧ exec (.meterPulse berth) s = .next s := by
  show execConnectionReport berth energy s = _ ∧ execDisconnectReport berth s = _ ∧ execFaultReport berth s = _ ∧
    execMeterPulse berth s = _
  unfold execConnectionReport execDisconnectReport execFaultReport execMeterPulse
  rw [h]
  exact ⟨rfl, rfl, rfl, rfl⟩

section
variable (h : s.linkCharger berth = some c)
include h

theorem exec_connection_fault (energy : Nat) (hp : c.phase = .fault) :
    exec (.connectionReport berth energy) s = .next (s.reported berth) := by
  show execConnectionReport berth energy s = _
  unfold execConnectionReport
  rw [h]
  exact if_pos (beq_iff_eq.mpr hp)
theorem exec_connection (energy : Nat) (hp : c.phase ≠ .fault) :
    exec (.connectionReport berth energy) s = .next ((Claims.needs c (fun _ => some (min energy 6000))
      (s.updateCharger berth (Claims.connected (min energy 6000) s.now s.cfg.chargerSettle))).settle s []) := by
  show execConnectionReport berth energy s = _
  unfold execConnectionReport
  rw [h]
  refine (if_neg (by simpa using hp)).trans ?_
  dsimp only
  rw [updateCharger_reported, needAt_needs]
  simp only [connect_connected]
theorem exec_disconnect_idle (hp : c.phase = .idle) : exec (.disconnectReport berth) s = .next (s.reported berth) := by
  show execDisconnectReport berth s = _
  unfold execDisconnectReport
  rw [h]
  exact if_pos (beq_iff_eq.mpr hp)
theorem exec_disconnect (hp : c.phase ≠ .idle) : exec (.disconnectReport berth) s =
    .next ((s.updateCharger berth (fun x => Charger.disconnect { x with statusAsked := false })).lapsePlace berth) := by
  show execDisconnectReport berth s = _
  unfold execDisconnectReport
  rw [h, ← updateCharger_reported]
  exact if_neg (by simpa using hp)
theorem exec_faultReport_again (hp : c.phase = .fault) : exec (.faultReport berth) s = .next (s.reported berth) := by
  show execFaultReport berth s = _
  unfold execFaultReport
  rw [h]
  exact if_pos (beq_iff_eq.mpr hp)
theorem exec_faultReport (hp : c.phase ≠ .fault) : exec (.faultReport berth) s =
    .next (((s.updateCharger berth (fun x => { x.zero with statusAsked := false, phase := .fault })).lapsePlace berth).raise
      .chargerFault berth) := by
  show execFaultReport berth s = _
  unfold execFaultReport
  rw [h]
  refine (if_neg (by simpa using hp)).trans ?_
  rw [updateCharger_reported]
  rfl
end

/-! ### The need of a charger (R106) -/

theorem needs_occupied {b : Bus} (hb : s.occupant c.lane c.pos = some b) (f : Option Nat → Option Nat) :
    Claims.needs c f s = s.updateBus b.id (fun x => { x with need := f x.need }) := by
  unfold Claims.needs
  rw [hb]
theorem needs_empty (hb : s.occupant c.lane c.pos = none) (f : Option Nat → Option Nat) : Claims.needs c f s = s := by
  unfold Claims.needs
  rw [hb]
theorem chargerNeed_occupied {b : Bus} (hb : s.occupant c.lane c.pos = some b) : s.chargerNeed c = b.need := by
  unfold State.chargerNeed State.chargerBus
  rw [hb]
theorem chargerNeed_empty (hb : s.occupant c.lane c.pos = none) : s.chargerNeed c = c.session := by
  unfold State.chargerNeed State.chargerBus
  rw [hb]
/-- A record changed in what is not its place stands where it stood. -/
theorem occupant_updateBus (id : Nat) (f : Bus → Bus) (hf : ∀ b, (f b).berth? = b.berth?) (n p : Nat) :
    (s.updateBus id f).occupant n p = (s.occupant n p).map (fun b => if b.id == id then f b else b) := by
  have hplace : (fun b : Bus => b.berth? == some (n, p)) ∘ (fun b => if b.id == id then f b else b)
      = fun b => b.berth? == some (n, p) := by
    funext b
    rw [Function.comp_apply, apply_ite Bus.berth?, hf, ite_self]
  show (s.buses.records.map _).find? _ = (s.buses.records.find? _).map _
  rw [List.find?_map, hplace]
theorem occupant_needs {b : Bus} (hb : s.occupant c.lane c.pos = some b) (f : Option Nat → Option Nat) :
    (Claims.needs c f s).occupant c.lane c.pos = some { b with need := f b.need } := by
  rw [needs_occupied hb, occupant_updateBus b.id (fun x => { x with need := f x.need }) (fun _ => rfl), hb, Option.map_some,
    if_pos (beq_self_eq_true _)]

/-! ### Meter pulses (R112) -/

/-- The state in which a pulse has been taken off the charger's session and off the need of the record at its berth. -/
def counted (c : Charger) (s : State) : State :=
  Claims.needs c pulsed (s.updateCharger c.berth (fun x => { x with session := pulsed c.session }))

/-- A pulse takes one off the need of the charger, be it the record's or the session's. -/
theorem chargerNeed_counted (c : Charger) (s : State) :
    (counted c s).chargerNeed { c with session := pulsed c.session } = pulsed (s.chargerNeed c) := by
  unfold counted
  generalize ht : s.updateCharger c.berth (fun x => { x with session := pulsed c.session }) = t
  have hstands : t.occupant c.lane c.pos = s.occupant c.lane c.pos := ht ▸ rfl
  cases hb : s.occupant c.lane c.pos with
  | none =>
    rw [needs_empty (hstands.trans hb), chargerNeed_empty hb]
    exact chargerNeed_empty (c := { c with session := pulsed c.session }) (hstands.trans hb)
  | some b =>
    rw [chargerNeed_occupied hb]
    exact chargerNeed_occupied (c := { c with session := pulsed c.session }) (occupant_needs (hstands.trans hb) pulsed)
theorem pulsed_zero_iff (need : Option Nat) : pulsed need = some 0 ↔ need = some 0 ∨ need = some 1 := by
  cases need with
  | none => simp [pulsed]
  | some n => simp only [pulsed, Option.map_some, Option.some.injEq]; omega

section
variable (h : s.linkCharger c.berth = some c)
include h

theorem exec_meterPulse_idle (hp : c.phase = .idle) : exec (.meterPulse c.berth) s = .next s := by
  show execMeterPulse c.berth s = _
  unfold execMeterPulse
  rw [h]
  exact if_pos (beq_iff_eq.mpr hp)
theorem exec_meterPulse (hp : c.phase ≠ .idle) : exec (.meterPulse c.berth) s =
    .next (((counted c s).fillAt { c with session := pulsed c.session }).settle s []) := by
  show execMeterPulse c.berth s = _
  unfold execMeterPulse
  rw [h]
  refine (if_neg (by simpa using hp)).trans ?_
  dsimp only
  rw [needAt_needs]
  rfl
/-- A connected charger whose need the pulse brings to 0 is FULL. -/
theorem exec_meterPulse_full (hp : c.phase = .connected) (hn : s.chargerNeed c = some 0 ∨ s.chargerNeed c = some 1) :
    exec (.meterPulse c.berth) s = .next (((counted c s).updateCharger c.berth Charger.zero).settle s []) := by
  rw [exec_meterPulse h (by rw [hp]; decide)]
  unfold State.fillAt
  rw [chargerNeed_counted, (pulsed_zero_iff _).mpr hn, hp]
  rfl
theorem exec_meterPulse_counts (hp : c.phase ≠ .idle)
    (hn : c.phase = .connected → s.chargerNeed c ≠ some 0 ∧ s.chargerNeed c ≠ some 1) :
    exec (.meterPulse c.berth) s = .next ((counted c s).settle s []) := by
  rw [exec_meterPulse h hp]
  unfold State.fillAt
  rw [chargerNeed_counted, if_neg]
  rw [Bool.and_eq_true, beq_iff_eq, beq_iff_eq, pulsed_zero_iff]
  rintro ⟨hc, hz⟩
  exact not_or.mpr (hn hc) hz
end

/-! ### Settle time and ramp (R109, R128) -/

section
variable {e : Nat} (h : s.linkCharger berth = some c) (he : e ≤ s.now)
include h he

theorem exec_chargerSettleExpiry (hp : c.phase = .settling e) :
    exec (.chargerSettleExpiry berth) s = .next (s.updateCharger berth (fun x => { x with phase := .connected })) := by
  show execChargerSettleExpiry berth s = _
  unfold execChargerSettleExpiry
  rw [h]
  dsimp only
  rw [hp]
  exact if_neg (Nat.not_lt.mpr he)
theorem exec_rampTimerExpiry (hr : c.ramp = some e) : exec (.rampTimerExpiry berth) s =
    .next (s.updateCharger berth (Charger.rampStep s.cfg.rampStep (s.now + s.cfg.rampInterval))) := by
  show execRampTimerExpiry berth s = _
  unfold execRampTimerExpiry
  rw [h]
  exact if_pos (expired_some hr he)
end

end Sys2Proof.Machine

open Sys2Proof Sys2Proof.Machine

/-- Settles O27: the charger is that of `linkCharger_some`, each report or expiry one lemma for each of its phases; a pulse is
`exec_meterPulse_full` or `exec_meterPulse_counts` by the need it leaves (`chargerNeed_counted`). -/
theorem chargersFollowTheirLinksAndTimers : Obligations.ChargersFollowTheirLinksAndTimers := by
  unfold Obligations.ChargersFollowTheirLinksAndTimers
  refine ⟨fun s berth energy h => exec_report_nowhere (linkCharger_none h) energy, fun s c berth energy ha hc => ?_,
    fun s c berth e ha hc => ?_⟩
  · have h := linkCharger_some ha hc
    exact ⟨fun hp => ⟨exec_connection_fault h energy hp, exec_faultReport_again h hp⟩,
      fun hp => ⟨exec_connection h energy hp, exec_faultReport h hp⟩, exec_disconnect_idle h, exec_disconnect h⟩
  · have h := linkCharger_some ha hc
    obtain ⟨-, rfl⟩ := linkCharger_found h
    refine ⟨exec_meterPulse_idle h, exec_meterPulse_full h, fun hp => ?_, fun hp he => exec_chargerSettleExpiry h he hp,
      fun hr he => exec_rampTimerExpiry h he hr⟩
    rcases hp with ⟨e, hp⟩ | hp | ⟨hp, hn⟩
    · exact exec_meterPulse_counts h (by simp [hp]) (by simp [hp])
    · exact exec_meterPulse_counts h (by simp [hp]) (by simp [hp])
    · exact exec_meterPulse_counts h (by simp [hp]) (fun _ => hn)
end

section
/-! SUPPORT. The notices of the office: RUN, CLOCK, RUN_CANCEL and CLEAR_RUNS (R136 to R139, R141, R164, R195). -/

namespace Sys2Proof.Machine

open Sys2Proof

variable {s : State}

theorem office_heard (h : Claims.heardFromOffice s) : s.takesFrame = true ∧ s.office 0 = true := by
  obtain ⟨hh, hs⟩ := h
  exact ⟨takesFrame_of_hearing hh, by simp [State.office, State.fromPeer, hs.symm]⟩
theorem boundReleased_eq (n : Nat) : s.boundReleased n = Claims.releasedFor n s := by
  unfold State.boundReleased Claims.releasedFor
  refine congrArg s.buses.records.any (funext fun b => ?_)
  unfold Bus.isReleased
  cases b.place <;> rfl

/-! ### RUN (R136, R137, R141) -/

/-- The copies that a bound record takes again are the fields of the RUN (R141). -/
theorem copyFields_copied {f : RunFields} {r : Run} (hr : s.runOf f.run = some r) :
    (s.updateRun f.run (Run.takes f)).copyFields f.run = Claims.copied f (s.updateRun f.run (Claims.replaced f)) := by
  have hx : (s.updateRun f.run (Run.takes f)).runOf f.run = some (r.takes f) := by
    rw [runOf_updateRun _ _ (Run.takes f) fun _ => rfl, hr]
    rfl
  have hn : (r.takes f).run = f.run := runOf_number (r := r) hr
  have bound : ∀ g, (s.updateRun f.run g).boundTo f.run = s.boundTo f.run := fun _ => rfl
  unfold State.copyFields Claims.copied
  rw [hx, bound, bound]
  cases s.boundTo f.run with
  | none => rfl
  | some b =>
    dsimp only
    unfold State.nameRun
    rw [hn]
    rfl
theorem createRun_runTaken {f : RunFields} (hr : s.runOf f.run = none) : s.createRun f = Claims.runTaken f s := by
  unfold Claims.runTaken
  rw [hr]
  rfl
theorem replaceRun_runTaken {f : RunFields} {r : Run} (hr : s.runOf f.run = some r) :
    s.replaceRun f r = Claims.runTaken f s := by
  unfold State.replaceRun Claims.runTaken
  rw [hr]
  simp only [copyFields_copied hr, beq_iff_eq, Bool.or_eq_true, boundReleased_eq]
  cases hs : r.state with
  | departed => rfl
  | pending => rfl
  | claiming => rfl
  | claimedElsewhere => rfl
  | mine => rfl
  | late => cases r.ownMark <;> rfl
  | lapsed => rfl
  | cancelled => rfl
theorem takeRun_runTaken (f : RunFields) (s : State) : s.takeRun f = Claims.runTaken f s := by
  unfold State.takeRun
  cases hr : s.runOf f.run with
  | none => exact createRun_runTaken hr
  | some r => exact replaceRun_runTaken hr
theorem exec_run_office {f : RunFields} (h : Claims.heardFromOffice s) (h1 : 1 ≤ f.run) (h2 : f.run ≤ 999)
    (h3 : f.pullOut ≤ 1439) (h4 : f.route ≤ 255) (h5 : f.allowance ≤ 6000) (h6 : okDemand f.demand = true) :
    exec (.run 0 f.run f.pullOut f.route f.demand f.allowance) s = .next ((Claims.runTaken f s.frameEnded).settle
      s.frameEnded ((Claims.runTaken f s.frameEnded).pendingRun f.run)) := by
  obtain ⟨ht, ho⟩ := office_heard h
  rw [← takeRun_runTaken]
  exact congrArg Host.Outcome.next
    (hear_accepted ht (by simp [ho, okRun, okMinute, okByte, okAllowance, h1, h2, h3, h4, h5, h6]))
theorem exec_run_other {sender n pullOut route allowance : Nat} {d : Demand} (h : Claims.hearing s) (hs : sender ≠ 0) :
    exec (.run sender n pullOut route d allowance) s = .next s.frameEnded :=
  congrArg Host.Outcome.next (hear_rejected (takesFrame_mayDrive (takesFrame_of_hearing h)) (by simp [State.office, hs]))

/-! ### RUN_CANCEL (R138, R164) -/

theorem exec_runCancel {n : Nat} (h : Claims.heardFromOffice s) (h1 : 1 ≤ n) (h2 : n ≤ 999) :
    exec (.runCancel 0 n) s = .next ((s.frameEnded.takeCancel n).settle s.frameEnded []) := by
  obtain ⟨ht, ho⟩ := office_heard h
  exact congrArg Host.Outcome.next (hear_accepted ht (by simp [ho, okRun, h1, h2]))
theorem takeCancel_over {n : Nat} (h : ∀ r, s.runOf n = some r → r.state = .departed ∨ r.state = .cancelled) :
    s.takeCancel n = s := by
  unfold State.takeCancel
  cases hr : s.runOf n with
  | none => rfl
  | some r => exact if_pos (by simpa using h r hr)
theorem takeCancel_cancels {n : Nat} {r : Run} (hr : s.runOf n = some r) (hd : r.state ≠ .departed)
    (hc : r.state ≠ .cancelled) : s.takeCancel n = s.cancelRun n := by
  unfold State.takeCancel
  rw [hr]
  exact if_neg (by simp [hd, hc])
theorem releasingRun_iff (n : Nat) : s.releasingRun n = true ↔ ∃ rel, s.departures.release = some rel ∧ rel.run = n := by
  unfold State.releasingRun
  cases s.departures.release <;> simp

end Sys2Proof.Machine

open Sys2Proof Sys2Proof.Machine

/-- Settles O35: the run list takes a new run by `createRun_runTaken` and a listed one by `replaceRun_runTaken`. -/
theorem runIsTakenIntoTheRunList : Obligations.RunIsTakenIntoTheRunList := by
  unfold Obligations.RunIsTakenIntoTheRunList
  intro s f hh h1 h2 h3 h4 h5 h6
  refine ⟨fun hs => (exec_run_office ⟨hh, hs⟩ h1 h2 h3 h4 h5 h6).trans ?_, fun sender hn => exec_run_other hh hn⟩
  refine congrArg (fun extra => Host.Outcome.next (State.settle _ _ extra)) ?_
  unfold State.pendingRun
  cases (Claims.runTaken f s.frameEnded).runOf f.run with
  | none => rfl
  | some r => exact if_congr beq_iff_eq rfl rfl

/-- Settles O36: each notice is accepted by `office_heard`; a cancelled run in release has it ended first (`releasingRun_iff`). -/
theorem clockCancelAndClear : Obligations.ClockCancelAndClear := by
  unfold Obligations.ClockCancelAndClear
  intro s n h
  obtain ⟨ht, ho⟩ := office_heard h
  refine ⟨fun hn => congrArg Host.Outcome.next (hear_accepted ht (by simp [ho, okSecond, hn])), fun h1 h2 =>
    ⟨fun hover => ?_, fun r hr hd hc => ?_⟩, congrArg Host.Outcome.next (hear_accepted ht ho)⟩
  · rw [exec_runCancel h h1 h2, takeCancel_over (s := s.frameEnded) hover]
  · rw [exec_runCancel h h1 h2, takeCancel_cancels (s := s.frameEnded) hr hd hc, State.cancelRun]
    have hrel := releasingRun_iff (s := s.frameEnded) n
    exact ⟨fun hyes => by rw [if_pos (hrel.mpr hyes)]; rfl, fun hno => by rw [if_neg (mt hrel.mp hno)]; rfl⟩
end

section
/-! SUPPORT. CLAIM heard (R146, R148, R149). -/

namespace Sys2Proof.Machine

open Sys2Proof

variable {s : State}

/-! ### The notice taken (R149) -/

theorem exec_claim {sender n fleet cost : Nat} (h : Claims.heardFrom s sender) (h1 : 1 ≤ n) (h2 : n ≤ 999) (h3 : 1 ≤ fleet)
    (h4 : fleet ≤ 9999) (h5 : cost ≤ 4095) {t : State} (ht : s.frameEnded.takeClaim sender n fleet cost = t) :
    exec (.claim sender n fleet cost) s = .next (t.settle s.frameEnded []) := by
  obtain ⟨hh, hp⟩ := heardFrom_peer h
  subst ht
  exact congrArg Host.Outcome.next (hear_accepted hh (by simp [hp, okRun, okFleet, okClaimCost, h1, h2, h3, h4, h5]))
/-- A CLAIM for a named run, or for one not in the list, is ignored. -/
theorem takeClaim_unlisted {n : Nat} (h : ∀ r, s.runOf n = some r → r.isWildcard = false) (sender fleet cost : Nat) :
    s.takeClaim sender n fleet cost = s := by
  unfold State.takeClaim
  cases hr : s.runOf n with
  | none => rfl
  | some r => exact if_neg (by simp [h r hr])
section
variable {n : Nat} {r : Run} (hr : s.runOf n = some r) (hw : r.isWildcard = true)
include hr hw

theorem takeClaim_bid {cost : Nat} (hc : cost ≤ 4094) (sender fleet : Nat) :
    s.takeClaim sender n fleet cost = s.takeBid r ⟨sender, fleet, cost⟩ := by
  have hn : cost ≠ noFit := by unfold noFit; omega
  simp [State.takeClaim, hr, hw, hn]
theorem takeClaim_withdrawal (sender fleet : Nat) : s.takeClaim sender n fleet 4095 = s.takeWithdrawal r sender := by
  simp [State.takeClaim, hr, hw, noFit]
end

/-! ### Bids (R146, R148) -/

theorem hearBid_heardBid (bid : HeardClaim) (r : Run) : r.hearBid bid = { r with best := some (Claims.heardBid bid r.best) } := by
  unfold Run.hearBid
  cases hb : r.best with
  | none => rfl
  | some b =>
    simp only [Bool.or_eq_true, beq_iff_eq, betterPair_iff, Claims.heardBid]
    split
    · rfl
    · rw [← hb]
section
variable {r : Run} (bid : HeardClaim)

theorem takeBid_pending (hs : r.state = .pending) :
    s.takeBid r bid = s.updateRun r.run (fun x => { x with state := .claimedElsewhere, best := some bid }) := by
  simp [State.takeBid, hs]
theorem takeBid_claiming (hs : r.state = .claiming) : s.takeBid r bid =
    s.updateRun r.run (fun x => { x with best := some (Claims.heardBid bid x.best), heardOther := true }) := by
  simp [State.takeBid, hs, hearBid_heardBid]
theorem takeBid_claimedElsewhere (hs : r.state = .claimedElsewhere) : s.takeBid r bid =
    s.updateRun r.run (fun x => { x with best := some (Claims.heardBid bid x.best) }) := by
  simp only [State.takeBid, hs]
  exact congrArg (s.updateRun r.run) (funext (hearBid_heardBid bid))
theorem takeBid_unclaimed (hs : r.state = .mine) (hc : r.claim = none) : s.takeBid r bid = s := by
  simp [State.takeBid, hs, hc]
theorem takeBid_over (hs : r.state = .late ∨ r.state = .departed ∨ r.state = .lapsed ∨ r.state = .cancelled) :
    s.takeBid r bid = s := by
  rcases hs with hs | hs | hs | hs <;> simp [State.takeBid, hs]
section
variable {c : OwnClaim} (hs : r.state = .mine) (hc : r.claim = some c)
include hs hc

theorem takeBid_mine : s.takeBid r bid = s.bidForMine r c bid := by
  simp [State.takeBid, hs, hc]
/-- The run of a better bid is given up, its record freed, unless that is RELEASED. -/
theorem takeBid_yields (hb : bid.cost < c.cost ∨ (bid.cost = c.cost ∧ bid.station < s.cfg.station))
    (hrel : Claims.releasedFor r.run s = false) : s.takeBid r bid = (Claims.freed r.run s).updateRun r.run (fun x =>
      { x with state := .claimedElsewhere, claim := none, window := none, best := some bid }) := by
  rw [takeBid_mine bid hs hc]
  exact if_pos (by simpa [boundReleased_eq, hrel, betterPair_iff] using hb)
theorem takeBid_repeats (h : ¬ (bid.cost < c.cost ∨ (bid.cost = c.cost ∧ bid.station < s.cfg.station)) ∨
    Claims.releasedFor r.run s = true) :
    s.takeBid r bid = if s.inRun then s.send (.claim r.run c.fleet c.cost) else s := by
  rw [takeBid_mine bid hs hc]
  refine if_neg fun hy => ?_
  rw [Bool.and_eq_true, betterPair_iff, boundReleased_eq, Bool.not_eq_true'] at hy
  exact h.elim (absurd hy.1) fun hrel => by simp [hrel] at hy
end
end

/-! ### Withdrawals (R149) -/

section
variable {r : Run} {sender : Nat}

theorem bestFrom_iff : r.bestFrom sender = true ↔ ∃ b, r.best = some b ∧ b.station = sender := by
  unfold Run.bestFrom
  cases r.best <;> simp
theorem takeWithdrawal_other (h : ∀ b, r.best = some b → b.station ≠ sender) : s.takeWithdrawal r sender = s :=
  if_neg (bestFrom_iff.not.mpr fun ⟨b, hb, hst⟩ => h b hb hst)
section
variable {b : HeardClaim} (hb : r.best = some b) (hst : b.station = sender)
include hb hst

theorem takeWithdrawal_claimedElsewhere (hs : r.state = .claimedElsewhere) : s.takeWithdrawal r sender =
    s.updateRun r.run (fun x => { x with best := none, state := .pending }) := by
  simp [State.takeWithdrawal, bestFrom_iff, hb, hst, hs]
theorem takeWithdrawal_claiming (hs : r.state = .claiming) : s.takeWithdrawal r sender =
    s.updateRun r.run (fun x => { x with best := none }) := by
  simp [State.takeWithdrawal, bestFrom_iff, hb, hst, hs]
end
theorem takeWithdrawal_unclaimed (h1 : r.state ≠ .claiming) (h2 : r.state ≠ .claimedElsewhere) :
    s.takeWithdrawal r sender = s := by
  unfold State.takeWithdrawal
  split
  · split
    · exact absurd ‹_› h2
    · exact absurd ‹_› h1
    · rfl
  · rfl
end

end Sys2Proof.Machine

open Sys2Proof Sys2Proof.Machine

/-- Settles O37: `exec_claim` leaves a bid to the lemma of its run's state (`takeBid_pending`, `takeBid_yields`, …), a
withdrawal to `takeWithdrawal_claimedElsewhere` and its like. -/
theorem claimsHeardActByTheRunsState : Obligations.ClaimsHeardActByTheRunsState := by
  unfold Obligations.ClaimsHeardActByTheRunsState
  refine ⟨fun s r bid h hr h1 h2 h3 h4 h5 hw => ?_, fun s sender n fleet cost h h1 h2 h3 h4 =>
    ⟨fun hn hc => exec_claim h h1 h2 h3 h4 hc (takeClaim_unlisted (s := s.frameEnded) hn ..), fun r hr hw => ?_⟩⟩
  · have heard : ∀ {t : State}, s.frameEnded.takeBid r bid = t →
        exec (.claim bid.station r.run bid.fleet bid.cost) s = .next (t.settle s.frameEnded []) := fun ht =>
      exec_claim h h1 h2 h3 h4 (by omega) ((takeClaim_bid (s := s.frameEnded) hr hw h5 ..).trans ht)
    exact ⟨fun hs => heard (takeBid_pending bid hs), fun hs => heard (takeBid_claiming bid hs),
      fun hs => heard (takeBid_claimedElsewhere bid hs),
      fun c hs hc => ⟨fun ⟨hb, hrel⟩ => heard (takeBid_yields bid hs hc hb hrel),
        fun hno => heard (takeBid_repeats bid hs hc hno)⟩,
      fun hs hc => heard (takeBid_unclaimed bid hs hc), fun hs => heard (takeBid_over bid hs)⟩
  · obtain rfl := runOf_number hr
    have heard : ∀ {t : State}, s.frameEnded.takeWithdrawal r sender = t →
        exec (.claim sender r.run fleet 4095) s = .next (t.settle s.frameEnded []) := fun ht =>
      exec_claim h h1 h2 h3 h4 le_rfl ((takeClaim_withdrawal (s := s.frameEnded) hr hw ..).trans ht)
    exact ⟨fun b hb hst => ⟨fun hs => heard (takeWithdrawal_claimedElsewhere hb hst hs),
        fun hs => heard (takeWithdrawal_claiming hb hst hs), fun hc he => heard (takeWithdrawal_unclaimed hc he)⟩,
      fun hn => heard (takeWithdrawal_other hn)⟩
end

section
/-! SUPPORT. The claim window and the claim refresh timer (R142, R145, R147, R195). -/

namespace Sys2Proof.Machine

open Sys2Proof

variable {s before : State} {r : Run}

/-! ### The refresh timer of a run (R145, R195) -/

theorem periodOf_iff (n : Nat) : s.periodOf n = true ↔ ∃ old, s.runOf n = some old ∧ s.inClaimPeriod old = true := by
  unfold State.periodOf
  cases s.runOf n <;> simp
/-- The run has a place for a refresh timer: a wildcard run that is PENDING or CLAIMED_ELSEWHERE, in RUN (R145). -/
def State.refreshes (s : State) (r : Run) : Prop :=
  s.inRun = true ∧ r.isWildcard = true ∧ (r.state = .pending ∨ r.state = .claimedElsewhere)
theorem refreshOf_unplaced (h : ¬ s.refreshes r) : s.refreshOf before r = none :=
  if_neg (by simpa [State.refreshes, and_assoc] using h)
theorem refreshOf_placed (h : s.refreshes r) : s.refreshOf before r = if s.inClaimPeriod r
    then some (if before.periodOf r.run then r.refresh.getD (s.now + 60) else s.now + 60)
    else if before.periodOf r.run = true ∧ s.clock = before.clock then none else r.refresh := by
  obtain ⟨hi, hw, hs⟩ := h
  unfold State.refreshOf
  rw [if_pos (by simp [hi, hw, hs])]
  cases s.inClaimPeriod r <;> cases before.periodOf r.run <;> simp

/-! ### The expiries (R145, R147) -/

theorem exec_claimRefreshExpiry {e : Nat} (hr : s.runOf r.run = some r) (he : r.refresh = some e) (hn : e ≤ s.now) :
    exec (.claimRefreshExpiry r.run) s =
      .next ((s.updateRun r.run (fun x => { x with refresh := some (s.now + 60) })).settle s [r.run]) := by
  show execClaimRefreshExpiry r.run s = _
  unfold execClaimRefreshExpiry
  rw [hr]
  exact if_pos (expired_some he hn)
theorem exec_claimPeriodEntry (hr : s.runOf r.run = some r) : exec (.claimPeriodEntry r.run) s =
    .next ((if s.inRun && s.claimPlaced r && s.runTimeToGo r == ((s.cfg.claimLead * 60 : Nat) : Int)
      then s.updateRun r.run (fun x => { x with refresh := some (s.now + 60) }) else s).settle s [r.run]) := by
  show execClaimPeriodEntry r.run s = _
  unfold execClaimPeriodEntry State.startRefresh
  rw [hr]

theorem winsClaim_iff (c : OwnClaim) : s.winsClaim r c = true ↔
    ∀ h, r.best = some h → c.cost < h.cost ∨ (c.cost = h.cost ∧ s.cfg.station < h.station) := by
  unfold State.winsClaim
  cases r.best <;> simp [betterPair_iff]
theorem winRun_bound {c : OwnClaim} {b : Bus} (hb : s.busOf c.fleet = some b) {t : State}
    (ht : (s.updateRun r.run (fun x => { x with state := .mine, best := none, window := none })).nameRun b.id r = t) :
    s.winRun r c = if r.heardOther ∧ t.inRun then t.send (.claim r.run c.fleet c.cost) else t := by
  have hu : ∀ f, (s.updateRun r.run f).busOf c.fleet = some b := fun _ => hb
  unfold State.winRun
  simp only [hu, ht, ite_and]
  rfl
theorem exec_claimWindowExpiry {c : OwnClaim} {e : Nat} (hr : s.runOf r.run = some r) (hs : r.state = .claiming)
    (he : r.window = some e) (hn : e ≤ s.now) (hc : r.claim = some c) :
    exec (.claimWindowExpiry r.run) s = if s.winsClaim r c
    then .next ((s.winRun r c).settle s [])
    else .next ((s.updateRun r.run (fun x => { x.dropClaim with state := .claimedElsewhere })).settle s []) := by
  show execClaimWindowExpiry r.run s = _
  unfold execClaimWindowExpiry
  simp only [hr, hs, hc, expired_some he hn]

end Sys2Proof.Machine

open Sys2Proof Sys2Proof.Machine

/-- Settles O38: the refresh timers are those of `State.refreshOf`, read off `refreshOf_placed`; a claim window is decided by
`winsClaim_iff`. -/
theorem claimTimersDecideAndRenew : Obligations.ClaimTimersDecideAndRenew := by
  unfold Obligations.ClaimTimersDecideAndRenew
  refine ⟨fun s before => ⟨s.refreshOf before, fun r => ⟨refreshOf_unplaced, fun hp hi => ?_, fun hp ho => ?_⟩, rfl⟩,
    fun s r c b e hr => ⟨fun hs he hn hc => ?_, exec_claimRefreshExpiry hr, ?_⟩⟩
  · rw [refreshOf_placed hp, if_pos hi, ← periodOf_iff]
    exact ⟨fun hw => by rw [if_pos hw], fun hw => by rw [if_neg hw]⟩
  · rw [refreshOf_placed hp, if_neg (Bool.eq_false_iff.mp ho), ← periodOf_iff]
    exact ⟨fun hw => if_pos hw, fun hw => if_neg hw⟩
  · have hx := exec_claimWindowExpiry hr hs he hn hc
    refine ⟨fun hwon hb => ?_, fun hlost => hx.trans (if_neg (mt (winsClaim_iff c).mp hlost))⟩
    rw [hx, if_pos ((winsClaim_iff c).mpr hwon), winRun_bound hb rfl]
    rfl
  · have hx := exec_claimPeriodEntry hr
    have henters : (s.inRun && s.claimPlaced r && s.runTimeToGo r == ((s.cfg.claimLead * 60 : Nat) : Int)) = true ↔
        s.inRun = true ∧ Claims.waiting s r ∧ timeToGo s.clock.time (r.pullOut * 60) = (s.cfg.claimLead * 60 : Nat) := by
      simp only [Bool.and_eq_true, claimPlaced_iff, beq_iff_eq, and_assoc]
      rfl
    exact ⟨fun h => by rw [hx, if_pos (henters.mpr h)], fun h => by rw [hx, if_neg (mt henters.mp h)]⟩
end

section
/-! SUPPORT. The binding test (R140, R141, R150). -/

namespace Sys2Proof.Machine

open Sys2Proof

variable {s : State}

theorem boundReleased_iff (n : Nat) : s.boundReleased n = true ↔
    ∃ b ∈ s.buses.records, b.isReleased = true ∧ b.run = some n := by
  simp [State.boundReleased]

/-! ### The run chosen (R140) -/

theorem choosable_iff (fleet : Nat) (r : Run) :
    (r ∈ s.runs.runs ∧ (r.wants fleet && !s.boundReleased r.run) = true) ↔ Claims.choosable s fleet r := by
  have unkept : (!s.boundReleased r.run) = true ↔ ∀ b ∈ s.buses.records, b.isReleased = true → b.run ≠ some r.run := by
    rw [Bool.not_eq_true', ← Bool.not_eq_true, boundReleased_iff]
    push Not
    rfl
  rw [Bool.and_eq_true, wants_iff, unkept, and_assoc]
  rfl
theorem chosenRun_none {fleet : Nat} (h : ∀ r, ¬ Claims.choosable s fleet r) : s.chosenRun fleet = none :=
  List.find?_eq_none.mpr fun r hr hc => h r ((choosable_iff fleet r).mp ⟨hr, hc⟩)
/-- The run chosen is the lowest-numbered that may be. -/
theorem chosenRun_lowest (hp : (s.runs.runs.map (·.run)).Pairwise (· < ·)) {fleet : Nat} {r : Run}
    (hr : Claims.choosable s fleet r) (hl : ∀ q, Claims.choosable s fleet q → r.run ≤ q.run) : s.chosenRun fleet = some r :=
  (find?_least hp).mpr ⟨(choosable_iff fleet r).mpr hr, fun q hq hc => hl q ((choosable_iff fleet q).mp ⟨hq, hc⟩)⟩

/-! ### The run given up (R141, R150) -/

theorem giveUpRun_other {n fleet : Nat} (h : ∀ q, s.runOf n = some q → q.state ≠ .mine) : s.giveUpRun n fleet = s := by
  unfold State.giveUpRun
  cases hq : s.runOf n with
  | none => rfl
  | some q => exact if_neg (by simpa using h q hq)

/-! ### The test of one record (R140) -/

theorem bindingPassed_iff (b : Bus) : s.bindingPassed b = true ↔
    b.isReleased = true ∨ ∃ n r, b.run = some n ∧ s.runOf n = some r ∧ r.state = .late ∧ r.ownMark = true := by
  unfold State.bindingPassed
  rw [Bool.or_eq_true]
  refine or_congr_right ?_
  cases b.run with
  | none => simp
  | some n => cases h : s.runOf n <;> simp [h]
section
variable {b : Bus} (hd : (s.buses.records.map (·.id)).Nodup) (hb : b ∈ s.buses.records)
include hd hb

theorem bindBus_unnamed (hf : b.fleet = none) : s.bindBus b.id = s := by
  unfold State.bindBus
  rw [find?_id hd hb]
  dsimp only
  rw [hf]
variable {fleet : Nat} (hf : b.fleet = some fleet)
include hf

theorem bindBus_idle (h : s.bindingPassed b = true ∨ s.chosenRun fleet = none) : s.bindBus b.id = s := by
  unfold State.bindBus
  simp only [find?_id hd hb, hf]
  split
  · rfl
  next hp => rw [h.resolve_left hp]
variable (hp : ¬ s.bindingPassed b = true) {r : Run} (hc : s.chosenRun fleet = some r)
include hp hc

theorem bindBus_kept (hr : b.run = some r.run) : s.bindBus b.id = s := by
  simp [State.bindBus, find?_id hd hb, hf, hp, hc, hr]
theorem bindBus_free (hr : b.run = none) : s.bindBus b.id = Claims.bound b r s := by
  simp only [State.bindBus, find?_id hd hb, hf, hp, hc, hr]
  rfl
/-- A record bound to another run gives that up first. -/
theorem bindBus_moves {n : Nat} (hr : b.run = some n) (hn : n ≠ r.run) :
    s.bindBus b.id = Claims.bound b r (s.giveUpRun n fleet) := by
  simp only [State.bindBus, find?_id hd hb, hf, hp, hc, hr, beq_iff_eq, Option.some.injEq, hn]
  rfl
end

end Sys2Proof.Machine

open Sys2Proof Sys2Proof.Machine

/-- Settles O40: the run is that of `chosenRun_lowest`; the record keeps it, takes it, or moves to it (`bindBus_kept`,
`bindBus_free`, `bindBus_moves`). -/
theorem bindingTestsBindTheLowestRun : Obligations.BindingTestsBindTheLowestRun := by
  unfold Obligations.BindingTestsBindTheLowestRun
  refine ⟨fun s b fleet hd hord hb hf => ⟨fun h => ?_, fun r hp hr hl => ?_⟩,
    fun s => ⟨fun b hb hf hd => bindBus_unnamed hd hb hf, rfl⟩⟩
  · exact bindBus_idle hd hb hf (h.imp (bindingPassed_iff b).mpr chosenRun_none)
  · have hp := mt (bindingPassed_iff b).mp hp
    have hc := chosenRun_lowest hord hr hl
    refine ⟨bindBus_kept hd hb hf hp hc, bindBus_free hd hb hf hp hc, fun n hn hne => ?_⟩
    rw [bindBus_moves hd hb hf hp hc hn hne]
    exact ⟨fun q hq hm => by rw [giveUpRun_mine hq hm], fun h => by rw [giveUpRun_other h]⟩
end

section
/-! SUPPORT. The departure front and its mark, lapses and lateness (R134, R135, R155, R156, R158, R166, R167, R169). -/

namespace Sys2Proof.Machine

open Sys2Proof

variable {s before : State}

/-! ### The front and its mark (R135, R155) -/

theorem raiseFront_moved {n : Nat} (hf : s.front = some n) (hb : before.front ≠ some n) (he : before.runs.runs ≠ [])
    (hm : s.runs.frontMark < n) : s.raiseFront before = s.setRuns { s.runs with frontMark := n } := by
  unfold State.raiseFront
  rw [hf]
  exact if_pos (by simp [hb, he, hm])
theorem raiseFront_still (h : ∀ n, ¬ (s.front = some n ∧ before.front ≠ some n ∧ before.runs.runs ≠ [] ∧ s.runs.frontMark < n)) :
    s.raiseFront before = s := by
  unfold State.raiseFront
  cases hf : s.front with
  | none => rfl
  | some n => exact if_neg fun hc => h n ⟨hf, by simpa [and_assoc] using hc⟩
theorem holding_iff (x : RunState) : x.holding = true ↔
    x = .pending ∨ x = .claiming ∨ x = .claimedElsewhere ∨ x = .mine := by
  cases x <;> simp [RunState.holding]
theorem front_iff (hord : (s.runs.runs.map (·.run)).Pairwise (· < ·)) (n : Nat) : s.front = some n ↔
    (∃ r ∈ s.runs.runs, r.run = n ∧ r.state.holding = true) ∧ ∀ q ∈ s.runs.runs, q.state.holding = true → n ≤ q.run := by
  simp only [State.front, Option.map_eq_some_iff, find?_least hord]
  constructor
  · rintro ⟨r, ⟨⟨hr, hh⟩, hl⟩, rfl⟩
    exact ⟨⟨r, hr, rfl, hh⟩, hl⟩
  · rintro ⟨⟨r, hr, rfl, hh⟩, hl⟩
    exact ⟨r, ⟨⟨hr, hh⟩, hl⟩, rfl⟩
theorem behindFront_iff (hord : (s.runs.runs.map (·.run)).Pairwise (· < ·)) (n : Nat) : s.behindFront n = true ↔
    n < s.runs.frontMark ∨ n = s.runs.frontMark ∧ ∀ r ∈ s.runs.runs, r.run = n → ¬ r.state.holding = true := by
  unfold State.behindFront
  rw [Bool.or_eq_true, decide_eq_true_eq, Bool.and_eq_true, beq_iff_eq, Bool.not_eq_true', ← Bool.not_eq_true]
  refine or_congr_right (and_congr_right fun _ => ?_)
  cases hr : s.runOf n with
  | none =>
    have none_listed : ∀ r ∈ s.runs.runs, r.run ≠ n := by simpa [State.runOf] using hr
    exact iff_of_true Bool.false_ne_true fun r hm hn => absurd hn (none_listed r hm)
  | some x =>
    obtain ⟨hm, hn⟩ := runOf_found hr
    exact ⟨fun hx r hr' hrn => run_unique (hord.imp Nat.ne_of_lt) hr hr' hrn ▸ hx, fun h => h x hm hn⟩

/-! ### Lapses (R156, R169) -/

theorem lapses_iff (r : Run) : s.lapses r = true ↔
    (r.state = .pending ∨ r.state = .claiming ∨ r.state = .claimedElsewhere) ∧ s.clock.isSet = true ∧
      timeToGo s.clock.time (r.pullOut * 60) ≤ -((s.cfg.lateGrace * 60 : Nat) : Int) := by
  simp [State.lapses, State.gracePassed, State.runTimeToGo, or_assoc]
theorem lapseRun_lapses {r : Run} (hr : s.runOf r.run = some r) (h : s.lapses r = true) : s.lapseRun r.run =
    (s.updateRun r.run (fun x => { x with state := .lapsed, claim := none, window := none })).raiseFront s := by
  unfold State.lapseRun
  rw [hr]
  exact if_pos h
theorem lapseRun_stays {r : Run} (hr : s.runOf r.run = some r) (h : ¬ s.lapses r = true) : s.lapseRun r.run = s := by
  unfold State.lapseRun
  rw [hr]
  exact if_neg h

/-! ### Lateness (R158, R166) -/

theorem runOrMute_iff : s.runOrMute = true ↔ s.node.state = .run ∨ s.node.state = .mute := by
  simp [State.runOrMute]
theorem releasingRun_not (n : Nat) : (!s.releasingRun n) = true ↔ ∀ rel, s.departures.release = some rel → rel.run ≠ n := by
  rw [Bool.not_eq_true', ← Bool.not_eq_true, releasingRun_iff]
  push Not
  rfl
theorem parkedLeaving_iff (b : Bus) : (b.isParked && s.atLeaving b) = true ↔
    ∃ l lane pos, b.place = .parked lane pos ∧ s.laneOf lane = some l ∧ s.leavingPos l = some pos := by
  unfold Bus.isParked
  cases hp : b.place with
  | parked lane pos =>
    have hk : b.berth? = some (lane, pos) := by rw [Bus.berth?, hp]
    cases hl : s.laneOf lane <;> simp [State.atLeaving, hk, hl]
  | _ => simp
theorem busCanLeave_iff (r : Run) (b : Bus) : s.busCanLeave r b = true ↔
    (∃ l lane pos, b.place = .parked lane pos ∧ s.laneOf lane = some l ∧ s.leavingPos l = some pos) ∧
      Claims.ready b r.allowance ∧ b.hold = false := by
  unfold State.busCanLeave
  rw [Bool.and_eq_true, Bool.and_eq_true, parkedLeaving_iff, readyFor_iff, Bool.not_eq_true', and_assoc]
theorem lateDue_iff (r : Run) : s.lateDue r = true ↔ (s.node.state = .run ∨ s.node.state = .mute) ∧ s.clock.isSet = true ∧
    r.state = .mine ∧ s.front = some r.run ∧ timeToGo s.clock.time (r.pullOut * 60) ≤ (s.cfg.releaseLead * 60 : Nat) ∧
    (∀ rel, s.departures.release = some rel → rel.run ≠ r.run) ∧ ∃ b, s.boundTo r.run = some b ∧ ¬ s.busCanLeave r b = true := by
  have held : (match s.boundTo r.run with | some b => !s.busCanLeave r b | none => false) = true ↔
      ∃ b, s.boundTo r.run = some b ∧ ¬ s.busCanLeave r b = true := by
    cases s.boundTo r.run <;> simp
  have lead : s.releaseLeadReached r = true ↔
      s.clock.isSet = true ∧ timeToGo s.clock.time (r.pullOut * 60) ≤ (s.cfg.releaseLead * 60 : Nat) := by
    rw [State.releaseLeadReached, Bool.and_eq_true, decide_eq_true_eq]
    rfl
  unfold State.lateDue
  simp only [Bool.and_eq_true, runOrMute_iff, releasingRun_not, lead, beq_iff_eq]
  refine Iff.trans (and_congr_right fun _ => held) ?_
  tauto
/-- A run that is due is made LATE, and the test goes on with the front moved past it. -/
theorem latenessTests_due {r : Run} (h : s.runs.runs.find? (fun r => s.lateDue r) = some r) (k : Nat) :
    State.latenessTests (k + 1) s = State.latenessTests k ((s.makeLate r.run .runLate).raiseFront s) := by
  rw [State.latenessTests, h]
theorem latenessTests_none (h : ∀ r ∈ s.runs.runs, s.lateDue r = false) : ∀ k, State.latenessTests k s = s
  | 0 => rfl
  | k + 1 => by rw [State.latenessTests, List.find?_eq_none.mpr fun r hr => Bool.eq_false_iff.mp (h r hr)]

end Sys2Proof.Machine

open Sys2Proof Sys2Proof.Machine

/-- Settles O41: the front is the least of the holding runs (`front_iff`), and the mark follows it by `raiseFront_moved`; a
run lapses by `lapses_iff` and is late by `lateDue_iff`, and each is taken in turn. -/
theorem lapsesAndLatenessMoveTheFront : Obligations.LapsesAndLatenessMoveTheFront := by
  unfold Obligations.LapsesAndLatenessMoveTheFront
  refine ⟨fun s before => ⟨fun n ⟨hf, hb, he, hm⟩ => raiseFront_moved hf hb he hm, raiseFront_still⟩,
    fun s n hord => ?_, fun s r hr => ?_, fun s r => ?_,
    fun s k => ⟨fun r h => latenessTests_due h k, fun h => latenessTests_none h k, rfl, rfl⟩⟩
  · simp only [← holding_iff]
    exact ⟨front_iff hord n, behindFront_iff hord n⟩
  · rw [← lapses_iff]
    exact ⟨lapseRun_lapses hr, lapseRun_stays hr⟩
  · simp only [← busCanLeave_iff]
    exact lateDue_iff r
end

section
/-! SUPPORT. Releases begun, and the exit signal (R154, R156, R158 to R160, R165, R177, R202). -/

namespace Sys2Proof.Machine

open Sys2Proof

variable {s : State}

theorem exitSignal_iff (n : Nat) : s.exitSignal n = true ↔
    Claims.outputsOn s ∧ ∃ rel, s.departures.release = some rel ∧ rel.lane = n := by
  unfold State.exitSignal Claims.outputsOn
  rw [Bool.and_eq_true, Bool.and_eq_true, active_iff, beq_iff_eq]
  refine and_congr_right fun _ => ?_
  cases s.departures.release <;> simp

/-! ### The conditions (R156, R158, R165) -/

theorem releaseLeadReached_iff (r : Run) : s.releaseLeadReached r = true ↔
    s.clock.isSet = true ∧ timeToGo s.clock.time (r.pullOut * 60) ≤ (s.cfg.releaseLead * 60 : Nat) := by
  rw [State.releaseLeadReached, Bool.and_eq_true, decide_eq_true_eq]
  rfl
theorem exitGapHolds_iff : s.exitGapHolds = true ↔
    ∀ x, s.departures.lastExit = some x → s.cfg.exitGap ≤ secondsBetween s.clock.time x := by
  unfold State.exitGapHolds
  cases s.departures.lastExit <;> simp
theorem releasable_iff (r : Run) : s.releasable r = true ↔ ∃ b lane pos, Claims.mayLeave s r b lane pos := by
  have leaves : (match s.boundTo r.run with | some b => s.busCanLeave r b | none => false) = true ↔
      ∃ b, s.boundTo r.run = some b ∧ s.busCanLeave r b = true := by
    cases s.boundTo r.run <;> simp
  unfold State.releasable Claims.mayLeave
  simp only [Bool.and_eq_true, Bool.or_eq_true, beq_iff_eq, runOrMute_iff, releaseLeadReached_iff, exitGapHolds_iff]
  refine (and_congr_right fun _ => leaves).trans ?_
  simp only [busCanLeave_iff]
  constructor
  · rintro ⟨⟨⟨⟨⟨node, turn⟩, clock, lead⟩, gap⟩, none⟩, b, bound, ⟨l, lane, pos, parked, hl, leaving⟩, ready, free⟩
    exact ⟨b, lane, pos, node, clock, turn, lead, gap, none, bound, parked, ⟨l, hl, leaving⟩, ready, free⟩
  · rintro ⟨b, lane, pos, node, clock, turn, lead, gap, none, bound, parked, ⟨l, hl, leaving⟩, ready, free⟩
    exact ⟨⟨⟨⟨⟨node, turn⟩, clock, lead⟩, gap⟩, none⟩, b, bound, ⟨l, lane, pos, parked, hl, leaving⟩, ready, free⟩

/-! ### The release begun (R159, R160) -/

theorem zeroAt_eq (lane pos : Nat) (s : State) : s.zeroAt lane pos =
    s.setCharging { s.charging with chargers := s.charging.chargers.map (fun c =>
      if c.lane = lane ∧ c.pos = pos then { c with target := 0, planned := 0, present := 0, ramp := none } else c) } := by
  simp only [State.zeroAt, Charger.zero, Bool.and_eq_true, beq_iff_eq]
theorem beginRelease_parked {r : Run} {b : Bus} {lane pos fleet : Nat} (hp : b.place = .parked lane pos)
    (hf : b.fleet = some fleet) : s.beginRelease r b =
      ((s.setPlace b.id (.released lane pos)).setDepartures { s.departures with
        release := some ⟨r.run, fleet, lane, pos, s.now + s.cfg.releaseTimeout * 60, r.demand⟩ }).zeroAt lane pos := by
  unfold State.beginRelease
  rw [hp, hf]
  rfl
theorem releaseTest_none (h : ∀ r ∈ s.runs.runs, s.releasable r = false) : s.releaseTest = s := by
  unfold State.releaseTest
  rw [List.find?_eq_none.mpr fun r hr => Bool.eq_false_iff.mp (h r hr)]
theorem releaseTest_first {r : Run} {b : Bus} (hr : s.runs.runs.find? (fun x => s.releasable x) = some r)
    (hb : s.boundTo r.run = some b) : s.releaseTest = s.beginRelease r b := by
  unfold State.releaseTest
  simp only [hr, hb]

end Sys2Proof.Machine

open Sys2Proof Sys2Proof.Machine

/-- Settles O42: the conditions are those of `releasable_iff`; the first run that meets them is released
(`releaseTest_first`), as `beginRelease_parked` says. -/
theorem releaseBeginsUnderItsConditions : Obligations.ReleaseBeginsUnderItsConditions := by
  unfold Obligations.ReleaseBeginsUnderItsConditions
  refine ⟨fun s n => exitSignal_iff n, fun s r => ⟨releaseTest_none, releasable_iff r, fun b lane pos fleet hr hm hf => ?_⟩⟩
  obtain ⟨-, -, -, -, -, -, bound, parked, -, -, -⟩ := hm
  rw [releaseTest_first hr bound, beginRelease_parked parked hf, zeroAt_eq]
  rfl
end

section
/-! SUPPORT. The shunt test, its target, its marks and the display (R157, R171, R172, R175, R176). -/

namespace Sys2Proof.Machine

open Sys2Proof

variable {s : State}

/-! ### The target (R5, R8, R172) -/

theorem mem_bestLane_others (n : Need) (lane : Nat) (p : Nat × Nat) :
    p ∈ (s.lanes.filter (fun l => some l.number != some lane && s.laneFits l n)).map
        (fun l => (s.laneCost l n.service, l.number)) ↔
      ∃ l, (l ∈ s.lanes ∧ l.number ≠ lane ∧ s.laneFits l n = true) ∧ (s.laneCost l n.service, l.number) = p := by
  simp [and_assoc]
theorem bestLane_others_none (n : Need) (lane : Nat) : s.bestLane n (some lane) = none ↔
    ∀ l, ¬ (l ∈ s.lanes ∧ l.number ≠ lane ∧ s.laneFits l n = true) := by
  unfold State.bestLane
  simp [firstBy_none]
/-- The best lane but one is the cheapest of the others that fit, the lowest-numbered among equals. -/
theorem bestLane_others_some {n : Need} {lane cost target : Nat} (h : s.bestLane n (some lane) = some (cost, target)) :
    ∃ l, (l ∈ s.lanes ∧ l.number ≠ lane ∧ s.laneFits l n = true) ∧ l.number = target ∧
      ∀ y, y ∈ s.lanes ∧ y.number ≠ lane ∧ s.laneFits y n = true → s.laneCost l n.service < s.laneCost y n.service ∨
        s.laneCost l n.service = s.laneCost y n.service ∧ target ≤ y.number := by
  obtain ⟨hmem, hleast⟩ := firstBy_betterPair h
  obtain ⟨l, hl, he⟩ := (mem_bestLane_others n lane _).mp hmem
  obtain ⟨rfl, rfl⟩ := Prod.mk.injEq .. ▸ he
  exact ⟨l, hl, rfl, fun y hy => hleast _ ((mem_bestLane_others n lane _).mpr ⟨y, hy, rfl⟩)⟩
/-- A lane with entry room has an entry position. -/
theorem entryPos_of_room {l : Lane} (h : 0 < s.entryRoom l) : ∃ p, s.entryPos l = some p := by
  cases hm : s.entryMost l with
  | none => exact ⟨_, entryPos_empty hm⟩
  | some k =>
    unfold State.entryRoom at h
    unfold State.entryPos
    rw [hm] at h ⊢
    cases hk : l.kind <;> simp only [hk] at h ⊢
    · exact ⟨k - 1, if_pos (by omega)⟩
    · exact ⟨k + 1, if_pos (by omega)⟩
/-- With lane numbers distinct, a lane is found under its own. -/
theorem laneOf_self (hd : (s.lanes.map (·.number)).Nodup) {l : Lane} (hl : l ∈ s.lanes) : s.laneOf l.number = some l := by
  obtain ⟨k, hk⟩ := Option.isSome_iff_exists.mp
    (List.find?_isSome (p := fun x : Lane => x.number == l.number).mpr ⟨l, hl, beq_self_eq_true l.number⟩)
  exact hk.trans (congrArg some (laneOf_unique hd hk l hl rfl).symm)
theorem shuntNeed_eq (x : Bus) : s.shuntNeed x =
    ⟨x.cls, x.route, s.busService x, (x.run.bind s.runOf).map (·.allowance) != some 6000⟩ := by
  unfold State.shuntNeed State.busAllowance
  cases x.run <;> rfl
theorem shuntTarget_none {x : Bus} {lane : Nat} (h : s.bestLane (s.shuntNeed x) (some lane) = none) :
    s.shuntTarget x lane = none := by
  unfold State.shuntTarget
  rw [h]
/-- The target of a shunt is the best lane but its own, its to-berth that of the entry position. -/
theorem shuntTarget_best (hd : (s.lanes.map (·.number)).Nodup) {x : Bus} {l : Lane} {lane cost : Nat}
    (h : s.bestLane (s.shuntNeed x) (some lane) = some (cost, l.number)) (hl : l ∈ s.lanes)
    (hf : s.laneFits l (s.shuntNeed x) = true) :
    ∃ p, s.entryPos l = some p ∧ s.shuntTarget x lane = some (l.number, l.berthAt p) := by
  obtain ⟨p, hp⟩ := entryPos_of_room (Nat.zero_lt_of_lt (laneFits_room hf))
  refine ⟨p, hp, ?_⟩
  unfold State.shuntTarget
  simp only [h, laneOf_self hd hl, hp]

/-! ### The blocker (R157, R171) -/

theorem occupant_berth {n p : Nat} {b : Bus} (h : s.occupant n p = some b) : b.berth? = some (n, p) := by
  simpa using List.find?_some h
theorem leavingBus_iff (l : Lane) (b : Bus) : s.leavingBus l = some b ↔
    ∃ k, s.leavingPos l = some k ∧ s.occupant l.number k = some b := by
  unfold State.leavingBus
  cases s.leavingPos l <;> simp
theorem shuntLeadReached_iff (r : Run) : s.shuntLeadReached r = true ↔
    s.clock.isSet = true ∧ timeToGo s.clock.time (r.pullOut * 60) ≤ (s.cfg.shuntLead * 60 : Nat) := by
  rw [State.shuntLeadReached, Bool.and_eq_true, decide_eq_true_eq]
  rfl
/-- With handles distinct, a record is a blocker by its handle exactly when it is one. -/
theorem blockers_any_iff (hd : s.distinct) {x : Bus} {lane k : Nat} (hx : x ∈ s.buses.records)
    (hp : x.place = .parked lane k) (pos v : Nat) : (s.blockers lane pos v).any (fun y => y.id == x.id) = true ↔
      k < pos ∧ (x.pullOut = none ∨ v < s.busService x) := by
  have hk : x.berth? = some (lane, k) := by rw [Bus.berth?, hp]
  have itself : x ∈ s.blockers lane pos v ↔ k < pos ∧ (x.pullOut = none ∨ v < s.busService x) := by
    simp [State.blockers, hx, hk]
  rw [← itself, List.any_eq_true]
  constructor
  · rintro ⟨y, hy, he⟩
    obtain rfl : y = x := List.inj_on_of_nodup_map hd (List.mem_of_mem_filter hy) hx (by simpa using he)
    exact hy
  · exact fun h => ⟨x, h, beq_self_eq_true _⟩

/-! ### The shunt test (R171, R172) -/

/-- The shunt test of run `r`, its record `b` at a position of a lane, calls for a shunt of the record `x`. -/
def State.shuntCalled (s : State) (r : Run) (b x : Bus) (lane pos : Nat) : Bool :=
  s.cfg.impliedShunt && s.runOrMute && r.ours && s.shuntLeadReached r && !s.atLeaving b && x.isParked
    && (s.blockers lane pos (s.busService b)).any (fun y => y.id == x.id)
    && !(s.departures.shunts.any (fun o => o.fromLane == lane))
    && s.departures.shunts.length < 4
    && !(s.departures.failed.contains (lane, x.id))

section
variable {r : Run} {b x : Bus} {l : Lane} {lane pos : Nat} (hb : s.boundTo r.run = some b) (hp : b.place = .parked lane pos)
  (hl : s.laneOf lane = some l)
include hb hp hl

/-- A shunt is called for exactly where R171 wants one. -/
theorem shuntCalled_iff (hd : s.distinct) (hx : s.leavingBus l = some x) : s.shuntCalled r b x lane pos = true ↔
    ∃ k, Claims.shuntWanted s r b x l lane pos k := by
  obtain ⟨k, hk, ho⟩ := (leavingBus_iff l x).mp hx
  rw [laneOf_number hl] at ho
  have away : (!s.atLeaving b) = true ↔ k ≠ pos := by
    rw [Bool.not_eq_true', ← Bool.not_eq_true, atLeaving_iff (by rw [Bus.berth?, hp]) hl, hk]
    simp
  unfold State.shuntCalled Claims.shuntWanted
  simp only [Bool.and_eq_true, runOrMute_iff, shuntLeadReached_iff, away, Run.ours, Bool.or_eq_true, beq_iff_eq]
  constructor
  · rintro ⟨⟨⟨⟨⟨⟨⟨⟨⟨implied, node⟩, ours⟩, clock, lead⟩, -⟩, parked⟩, blocks⟩, unordered⟩, few⟩, unmarked⟩
    have hxp := parked_berth parked (occupant_berth ho)
    obtain ⟨before, later⟩ := (blockers_any_iff hd (occupant_mem ho) hxp _ _).mp blocks
    exact ⟨k, implied, node, ours, clock, lead, hb, hp, hl, hk, before, ho, hxp, later, by simpa using unordered,
      by simpa using few, by simpa using unmarked⟩
  · rintro ⟨j, implied, node, ours, clock, lead, -, -, -, hj, before, -, hxp, later, unordered, few, unmarked⟩
    obtain rfl : k = j := Option.some.inj (hk.symm.trans hj)
    exact ⟨⟨⟨⟨⟨⟨⟨⟨⟨implied, node⟩, ours⟩, clock, lead⟩, before.ne⟩, (isParked_iff x).mpr ⟨_, _, hxp⟩⟩,
      (blockers_any_iff hd (occupant_mem ho) hxp _ _).mpr ⟨before, later⟩⟩, by simpa using unordered⟩, by simpa using few⟩,
      by simpa using unmarked⟩
variable (hr : s.runOf r.run = some r)
include hr

section
variable (hx : s.leavingBus l = some x) (h : s.shuntCalled r b x lane pos = true)
include hx h

theorem shuntTest_unnamed (hf : x.fleet = none) : s.shuntTest r.run = (s.markFailed lane x.id).raise .shuntFailed lane := by
  simp only [State.shuntTest, hr, hb, hp, hl, hx, hf]
  exact if_pos h
theorem shuntTest_named {fleet k : Nat} (hf : x.fleet = some fleet) (hk : x.place = .parked lane k) :
    s.shuntTest r.run = s.issueShunt r.run x fleet lane k l := by
  have berth : x.berth? = some (lane, k) := by rw [Bus.berth?, hk]
  simp only [State.shuntTest, hr, hb, hp, hl, hx, hf, berth]
  exact if_pos h
end
end
/-- Where no shunt is called for, the test does nothing. -/
theorem shuntTest_uncalled {r : Run} (hr : s.runOf r.run = some r) (h : ∀ b lane pos l x, s.boundTo r.run = some b →
    b.place = .parked lane pos → s.laneOf lane = some l → s.leavingBus l = some x → ¬ s.shuntCalled r b x lane pos = true) :
    s.shuntTest r.run = s := by
  unfold State.shuntTest
  rw [hr]
  cases hb : s.boundTo r.run with
  | none => rfl
  | some b =>
    dsimp only
    split
    next lane pos hp =>
      cases hl : s.laneOf lane with
      | none => rfl
      | some l =>
        cases hx : s.leavingBus l with
        | none => simp only [hx]
        | some x =>
          simp only [hx]
          exact if_neg (h b lane pos l x hb hp hl hx)
    · rfl

/-! ### Orders and marks (R175, R176) -/

theorem issueShunt_failed {n fleet lane pos : Nat} {x : Bus} {l : Lane} (h : s.shuntTarget x lane = none) :
    s.issueShunt n x fleet lane pos l = (s.markFailed lane x.id).raise .shuntFailed fleet := by
  simp only [State.issueShunt, h]
theorem issueShunt_ordered {n fleet lane pos target toBerth : Nat} {x : Bus} {l : Lane}
    (h : s.shuntTarget x lane = some (target, toBerth)) : s.issueShunt n x fleet lane pos l =
      ((s.addReservation target ⟨.shunt, fleet⟩).setPlace x.id (.shunting lane pos)).setDepartures { s.departures with
        shunts := s.departures.shunts ++
          [⟨fleet, n, lane, pos, l.berthAt pos, target, toBerth, true, .atFrom, 1, s.now + s.cfg.shuntTimeout * 60⟩] } := by
  simp only [State.issueShunt, h]
  rfl
theorem mem_clearFailed (m : Nat × Nat) : m ∈ s.clearFailed.departures.failed ↔ m ∈ s.departures.failed ∧
    ∃ l b, s.laneOf m.1 = some l ∧ s.leavingBus l = some b ∧ b.id = m.2 := by
  unfold State.clearFailed
  rw [State.setDepartures_departures, List.mem_filter]
  refine and_congr_right fun _ => ?_
  cases s.laneOf m.1 with
  | none => simp
  | some l => cases h : s.leavingBus l <;> simp [h]

end Sys2Proof.Machine

open Sys2Proof Sys2Proof.Machine

/-- Settles O44: a shunt is called for where one is wanted (`shuntCalled_iff`), and then the blocker is marked or ordered
(`shuntTest_unnamed`, `shuntTest_named`); the target is the best of the other lanes (`shuntTarget_best`). -/
theorem shuntTestsOrderTheBlocker : Obligations.ShuntTestsOrderTheBlocker := by
  unfold Obligations.ShuntTestsOrderTheBlocker
  refine ⟨fun s r b x l lane pos k hd hr hw => ?_, fun s r hd hr hno => ?_, fun s x lane hd => ?_,
    fun s => ⟨fun h => ?_, fun before o h => ?_⟩, fun s => mem_clearFailed⟩
  · have ⟨_, _, _, _, _, hb, hp, hl, hk, _, ho, hxp, _, _, _, _⟩ := hw
    have hx : s.leavingBus l = some x := (leavingBus_iff l x).mpr ⟨k, hk, by rwa [laneOf_number hl]⟩
    have called := (shuntCalled_iff hb hp hl hd hx).mpr ⟨k, hw⟩
    refine ⟨shuntTest_unnamed hb hp hl hr hx called, fun fleet hf => ?_⟩
    rw [shuntTest_named hb hp hl hr hx called hf hxp]
    exact ⟨issueShunt_failed, fun target toBerth => issueShunt_ordered⟩
  · exact shuntTest_uncalled hr fun b lane pos l x hb hp hl hx hc =>
      have ⟨k, hw⟩ := (shuntCalled_iff hb hp hl hd hx).mp hc
      hno b x l lane pos k hw
  · dsimp only
    rw [← shuntNeed_eq]
    cases hbest : s.bestLane (s.shuntNeed x) (some lane) with
    | none =>
      have htn := shuntTarget_none hbest
      exact ⟨iff_of_true htn ((bestLane_others_none _ lane).mp hbest), fun target toBerth h => by simp [htn] at h⟩
    | some best =>
      obtain ⟨cost, target⟩ := best
      obtain ⟨l, ⟨hl, hne, hfit⟩, rfl, hleast⟩ := bestLane_others_some hbest
      obtain ⟨p, hp, ht⟩ := shuntTarget_best hd hbest hl hfit
      refine ⟨iff_of_false (by simp [ht]) fun h => h l ⟨hl, hne, hfit⟩, fun target toBerth h => ?_⟩
      obtain ⟨rfl, rfl⟩ : l.number = target ∧ l.berthAt p = toBerth := by simpa [ht] using h
      exact ⟨l, p, ⟨hl, hne, hfit⟩, rfl, hp, rfl, hleast⟩
  · rw [State.shuntDisplay, h]
    rfl
  · rw [State.shuntDisplay, h]
    exact List.getLast?_concat
end

section
/-! SUPPORT. The release and shunt timers, and the instants that call for the tests (R156, R162, R165, R174). -/

namespace Sys2Proof.Machine

open Sys2Proof

variable {s : State}

/-! ### The release timer (R162) -/

/-- The run of an ended release wants what it wanted before, whatever other runs there are. -/
theorem lateFor_runOf (alert : AlertCode) (again : Bool) {r : Run} {n : Nat} (hr : s.runOf n = some r) :
    ∃ x, (Claims.lateFor alert again r s).runOf n = some x ∧ x.demand = r.demand := by
  obtain rfl := runOf_number hr
  by_cases hc : r.state = .mine ∨ (again = true ∧ r.state = .late)
  · refine ⟨r.madeLate, (runOf_congr ((lateFor_runs alert again r s).trans (if_pos hc)) _).trans ?_, rfl⟩
    rw [runOf_updateRun _ _ Run.madeLate fun _ => rfl, hr]
    rfl
  · exact ⟨r, (runOf_congr ((lateFor_runs alert again r s).trans (if_neg hc)) _).trans hr, rfl⟩
/-- A release that fails with the demand of its run unchanged leaves the record its run. -/
theorem failRelease_unchanged (alert : AlertCode) (again : Bool) {rel : Release} {b : Bus} {lane pos : Nat} {r : Run}
    (hrel : s.departures.release = some rel) (hb : s.busOf rel.fleet = some b) (hp : b.place = .released lane pos)
    (hr : s.runOf rel.run = some r) (hd : r.demand = rel.demand) :
    s.failRelease alert again = Claims.lateFor alert again r s.endRelease := by
  have hr' : s.endRelease.runOf rel.run = some r := (runOf_congr (endRelease_runs hrel hb hp) _).trans hr
  obtain ⟨x, hx, hxd⟩ := lateFor_runOf alert again hr'
  rw [failRelease_late alert again hrel hr', freeAfterChange_same hx (hxd.trans hd)]
theorem exec_releaseTimerExpiry {rel : Release} (ha : s.active = true) (hr : s.departures.release = some rel)
    (ht : rel.timer ≤ s.now) :
    exec .releaseTimerExpiry s = .next ((s.failRelease .releaseTimeout false).settle s []) := by
  refine if_pos ?_
  rw [ha, expired_some (timer := s.departures.release.map (·.timer)) (by rw [hr]; rfl) ht]
  rfl

/-! ### The shunt timer (R174) -/

section
variable {fleet : Nat} {o : ShuntOrder} {x : Bus}

theorem exec_shuntTimerExpiry (ha : s.active = true) (ho : s.shuntOf fleet = some o) (hx : s.busOf fleet = some x)
    (ht : o.timer ≤ s.now) : exec (.shuntTimerExpiry fleet) s = .next ((s.shuntExpired o x).settle s []) := by
  show execShuntTimerExpiry fleet s = _
  unfold execShuntTimerExpiry
  rw [ha, ho, hx]
  exact if_neg (Nat.not_lt.mpr ht)
theorem shuntExpired_between_again (hp : o.phase = .between) (h : o.attempts < s.cfg.shuntAttempts) :
    s.shuntExpired o x = s.reissue o := by
  simp only [State.shuntExpired, hp, if_pos h]
theorem shuntExpired_between_last (hp : o.phase = .between) (h : s.cfg.shuntAttempts ≤ o.attempts) :
    s.shuntExpired o x = s.giveUpBetween o x := by
  simp only [State.shuntExpired, hp, if_neg (Nat.not_lt.mpr h)]
theorem shuntExpired_atFrom_last (hp : o.phase = .atFrom) (h : s.cfg.shuntAttempts ≤ o.attempts) :
    s.shuntExpired o x = s.giveUpAt o x := by
  simp only [State.shuntExpired, hp, if_neg (Nat.not_lt.mpr h)]
section
variable (hp : o.phase = .atFrom) (h : o.attempts < s.cfg.shuntAttempts)
include hp h

theorem shuntExpired_untargeted (ht : (s.releaseShunt o).shuntTarget x o.fromLane = none) :
    s.shuntExpired o x = s.giveUpAt o x := by
  simp only [State.shuntExpired, hp, if_pos h, State.reissueAt, ht]
theorem shuntExpired_retargeted {target toBerth : Nat}
    (ht : (s.releaseShunt o).shuntTarget x o.fromLane = some (target, toBerth)) :
    s.shuntExpired o x = ((s.releaseShunt o).addReservation target ⟨.shunt, o.fleet⟩).reissue
      { o with target := target, toBerth := toBerth, reserved := true } := by
  simp only [State.shuntExpired, hp, if_pos h, State.reissueAt, ht]
end
end

end Sys2Proof.Machine

open Sys2Proof Sys2Proof.Machine

/-- Settles O45: the release timer fails the release, the demand of its run unchanged (`failRelease_unchanged`); a shunt timer
does what the lemma of its order's phase and attempts says (`shuntExpired_retargeted`, …). -/
theorem departureTimersAndInstants : Obligations.DepartureTimersAndInstants := by
  unfold Obligations.DepartureTimersAndInstants
  refine fun s n => ⟨⟨rfl, rfl, rfl, rfl⟩, fun rel b lane pos r ha hrel ht hb hp hr hd => ?_,
    fun fleet o x ha ho hx ht => ?_⟩
  · rw [exec_releaseTimerExpiry ha hrel ht, failRelease_unchanged .releaseTimeout false hrel hb hp hr hd,
      ← endRelease_standing hrel hb hp]
    have hn := runOf_number hr
    refine ⟨fun hl => ?_, fun hm => ?_⟩
    · simp [Claims.lateFor, hl, hn]
    · simp [Claims.lateFor, hm, hn]
  · rw [exec_shuntTimerExpiry ha ho hx ht]
    refine ⟨fun h hp => ?_, fun h hp => ?_, fun h hp => ?_, fun h hp => ⟨fun hnone => ?_, fun target toBerth hsome => ?_⟩⟩
    · rw [shuntExpired_between_again hp h]
      rfl
    · rw [shuntExpired_between_last hp h]
      rfl
    · rw [shuntExpired_atFrom_last hp h]
      rfl
    · rw [shuntExpired_untargeted hp h hnone]
      rfl
    · rw [shuntExpired_retargeted hp h hsome]
      rfl
end

section
/-! SUPPORT. DEPART and LATE heard (R141, R163, R165, R168, R170). -/

namespace Sys2Proof.Machine

open Sys2Proof

variable {s : State}

/-! ### The notices taken (R165) -/

section
variable {sender n : Nat} (h : Claims.heardFrom s sender) (h1 : 1 ≤ n) (h2 : n ≤ 999)
include h h1 h2

theorem exec_depart {fleet second : Nat} (h3 : 1 ≤ fleet) (h4 : fleet ≤ 9999) (h5 : second ≤ 86399) :
    exec (.depart sender n fleet second) s = .next ((match s.runOf n with
      | some r => (s.frameEnded.offerExit second).departHeard r
      | none => s.frameEnded.offerExit second).settle s.frameEnded []) := by
  obtain ⟨hh, hp⟩ := heardFrom_peer h
  exact congrArg Host.Outcome.next
    (hear_accepted hh (by simp [hp, okRun, okFleet, okSecond, h1, h2, h3, h4, h5]))
theorem exec_late : exec (.late sender n) s = .next ((match s.runOf n with
      | some r => s.frameEnded.lateHeard r
      | none => s.frameEnded).settle s.frameEnded []) := by
  obtain ⟨hh, hp⟩ := heardFrom_peer h
  exact congrArg Host.Outcome.next (hear_accepted hh (by simp [hp, okRun, h1, h2]))
end
theorem exitAfter_eq (x : Nat) (s : State) : s.exitAfter x = Claims.exitAfter s x := by
  unfold State.exitAfter Claims.exitAfter
  cases s.clock.isSet <;> rfl

/-! ### What a DEPART does to its run (R163, R170) -/

theorem releasingRun_any (n : Nat) : s.releasingRun n = s.departures.release.any (fun rel => rel.run == n) := by
  unfold State.releasingRun
  cases s.departures.release <;> rfl
section
variable {r : Run}

theorem departHeard_departed (hs : r.state = .departed) :
    s.departHeard r = if r.ownDeparture then s.raise .doubleDeparture r.run else s := by
  simp only [State.departHeard, hs]
theorem departHeard_cancelled (hs : r.state = .cancelled) : s.departHeard r = s := by
  simp only [State.departHeard, hs]
theorem departHeard_unserved (hs : r.state = .pending ∨ r.state = .claiming ∨ r.state = .claimedElsewhere ∨ r.state = .lapsed) :
    s.departHeard r = s.departedElsewhere r.run := by
  rcases hs with hs | hs | hs | hs <;> simp only [State.departHeard, hs]
theorem departHeard_served (hs : r.state = .mine ∨ r.state = .late) : s.departHeard r =
    if s.releasingRun r.run then (s.endRelease.departedElsewhere r.run).raise .doubleDeparture r.run
    else s.departedElsewhere r.run := by
  rcases hs with hs | hs <;> simp only [State.departHeard, hs]

/-! ### What a LATE does to its run (R168) -/

theorem lateHeard_over (hs : r.state = .late ∨ r.state = .departed ∨ r.state = .lapsed ∨ r.state = .cancelled) :
    s.lateHeard r = s := by
  rcases hs with hs | hs | hs | hs <;> simp only [State.lateHeard, hs]
theorem lateHeard_mine (hs : r.state = .mine) : s.lateHeard r =
    s.updateRun r.run (fun x => { x with state := .late, claim := none, window := none, ownMark := true }) := by
  simp only [State.lateHeard, hs]
  rfl
theorem lateHeard_unserved (hs : r.state = .pending ∨ r.state = .claiming ∨ r.state = .claimedElsewhere) : s.lateHeard r =
    s.updateRun r.run (fun x => { x with state := .late, claim := none, window := none, ownMark := false }) := by
  rcases hs with hs | hs | hs <;> simp only [State.lateHeard, hs] <;> rfl
end

end Sys2Proof.Machine

open Sys2Proof Sys2Proof.Machine

/-- Settles O46: a DEPART for a listed run does what the lemma of its state says (`departHeard_served`, …), a LATE what
`lateHeard_mine` and its like say. -/
theorem departAndLateHeard : Obligations.DepartAndLateHeard := by
  unfold Obligations.DepartAndLateHeard
  intro s sender n fleet second h h1 h2 h3 h4 h5
  have departs := exec_depart h h1 h2 h3 h4 h5
  have lates := exec_late h h1 h2
  have offered : s.frameEnded.offerExit second =
      s.frameEnded.setDepartures { s.departures with lastExit := some (Claims.exitAfter s second) } :=
    congrArg (fun x => s.frameEnded.setDepartures { s.departures with lastExit := some x }) (exitAfter_eq second s)
  rw [offered] at departs
  refine ⟨fun hr => ?_, fun r hr => ?_⟩
  · rw [hr] at departs lates
    exact ⟨departs, lates⟩
  · rw [hr] at departs lates
    obtain rfl := runOf_number hr
    dsimp only at departs lates ⊢
    rw [departs, lates]
    refine ⟨fun hs => ?_, fun hs => ?_, fun hs => ?_, fun hs => ?_, fun hs => ?_, fun hs => ?_, fun hs => ?_⟩
    · rw [departHeard_departed hs, lateHeard_over (.inr (.inl hs))]
      exact ⟨rfl, rfl⟩
    · rw [departHeard_cancelled hs, lateHeard_over (.inr (.inr (.inr hs)))]
      exact ⟨rfl, rfl⟩
    · rw [departHeard_unserved (.inr (.inr (.inr hs))), lateHeard_over (.inr (.inr (.inl hs)))]
      exact ⟨rfl, rfl⟩
    · rw [departHeard_unserved (hs.imp_right (.imp_right .inl)), lateHeard_unserved hs]
      exact ⟨rfl, rfl⟩
    · rw [lateHeard_mine hs]
    · rw [lateHeard_over (.inl hs)]
    · rw [departHeard_served hs, releasingRun_any]
      rfl
end

section
/-! SUPPORT. What every command keeps of the node, its configuration, its timebase and its clock (R191, R194, R197, R201): the
commands that may bring a station clash, ROLL, DRAW and a frame given as its bytes, stand apart from the others. -/

namespace Sys2Proof.Machine

open Sys2Proof

variable {s t : State} {c : Instr}

/-- The commands that may bring a station clash (R191). -/
def mayClash : Instr → Bool
  | .roll .. | .draw .. | .frameRejected _ => true
  | _ => false

/-- What a command that is no start leaves: the node as it is, but that figures of its own station make it MUTE (R191, R194,
R197, R201). -/
def Spared (c : Instr) (s t : State) : Prop :=
  t.cfg = s.cfg ∧ t.now = s.now ∧ t.pending = s.pending ∧ (s.clock.isSet = true → t.clock.isSet = true) ∧
    (t.node = s.node ∨ (t.node = { s.node with state := .mute, listenTimer := none } ∧ s.listenOrRun = true ∧
      Claims.hearing s ∧ Claims.ownFigures s.cfg.station c = true))

/-- The command is answered with a next state, spared by a command that is no start. -/
def Answered (c : Instr) (s : State) : Prop := ∃ t, exec c s = .next t ∧ (isStart c = false → Spared c s t)

theorem Calm.spared (h : Calm s t) : Spared c s t := ⟨h.cfg, h.now, h.pending, h.isSet, .inl h.node⟩
theorem answers.answered (h : answers c s) : Answered c s := by
  obtain ⟨t, e, k⟩ := h
  exact ⟨t, e, fun _ => k.toCalm.spared⟩
/-- A start that is answered has nothing more to show. -/
theorem answered_start (h : ∃ t, exec c s = .next t) (hc : isStart c = true) : Answered c s := by
  obtain ⟨t, e⟩ := h
  exact ⟨t, e, fun hn => absurd hc (by simp [hn])⟩

/-! ### Figures of the node's own station (R191) -/

theorem hearing_of_takesFrame (h : s.takesFrame = true) : Claims.hearing s := by
  simpa [State.takesFrame, State.hears, Claims.hearing, and_assoc] using h
/-- A station clash takes a node in LISTEN or RUN to MUTE, and leaves any other as it is. -/
theorem clash_spares (hh : Claims.hearing s) (ho : Claims.ownFigures s.cfg.station c = true) :
    Spared c s s.frameEnded.clash := by
  unfold State.clash
  split
  · rename_i hl
    obtain ⟨u, f, k, -, e⟩ := enterMute_from s.frameEnded
    have h := settle_keeps s.frameEnded [] (Keeps.refl s.frameEnded.enterMute)
    generalize s.frameEnded.enterMute.settle s.frameEnded [] = t at h ⊢
    rw [e] at h
    exact ⟨h.cfg.trans k.cfg, h.now.trans k.now, h.pending.trans k.pending,
      fun hs => (congrArg Clock.isSet (h.clock.trans k.clock)).trans hs, .inr ⟨h.node.trans k.node, hl, hh, ho⟩⟩
  · exact (Calm.refl s).spared
/-- A notice is spared when its effect is, at a node that takes it. -/
theorem hear_spares (a : Bool) (f : State → State) (hf : Claims.hearing s → Spared c s (f s.frameEnded)) :
    Spared c s (s.hear a f) := by
  have ended : Spared c s s.frameEnded := (Calm.refl s).spared
  unfold State.hear
  split
  · split
    · rename_i h
      exact hf (hearing_of_takesFrame (Bool.and_eq_true _ _ ▸ h).1)
    · exact ended
  · exact (Calm.refl s).spared
theorem roll_answered (sender : Nat) (ask wash bypass : Bool) (lanes berths chargers x y z : Nat) (s : State) :
    Answered (.roll sender ask wash bypass lanes berths chargers x y z) s := by
  refine ⟨_, rfl, fun _ => hear_spares _ _ fun hh => ?_⟩
  split
  · exact clash_spares hh (by assumption)
  · split
    · exact (answerAsk_keeps _ (frameEnded_keeps (Keeps.refl s))).calm.spared
    · exact (answerAsk_keeps _ (takeRoll_keeps _ _ _ (frameEnded_keeps (Keeps.refl s)))).calm.spared
theorem draw_answered (sender a b c x y z : Nat) (s : State) : Answered (.draw sender a b c x y z) s := by
  refine ⟨_, rfl, fun _ => hear_spares _ _ fun hh => ?_⟩
  split
  · exact clash_spares hh (by assumption)
  · split
    · exact (Calm.refl s).spared
    · exact (takeDraw_keeps _ _ _ (frameEnded_keeps (Keeps.refl s))).calm.spared

/-! ### Every command -/

theorem configReadComplete_answered (image : List Byte) (s : State) : Answered (.configReadComplete image) s := by
  refine answered_start ?_ rfl
  show ∃ t, execConfigReadComplete image s = .next t
  unfold execConfigReadComplete
  repeat' split
  all_goals exact ⟨_, rfl⟩
theorem start_answered (hc : isStart c = true) (s : State) : Answered c s := by
  have of_bounded (h : bounded c s) : Answered c s := answered_start (h.imp fun _ k => k.1) hc
  cases c with
  | powerOn => exact of_bounded (powerOn_bounds s)
  | resetLineAsserted => exact of_bounded (resetLineAsserted_bounds s)
  | resetHoldExpiry => exact of_bounded (resetHoldExpiry_bounds s)
  | resetLineReleased => exact of_bounded (resetLineReleased_bounds s)
  | configReadComplete image => exact configReadComplete_answered image s
  | listenTimerExpiry => exact of_bounded (listenTimerExpiry_bounds s)
  | restartAnswerLeft => exact of_bounded (restartAnswerLeft_bounds s)
  | _ => cases hc
/-- A command that is no start and can bring no clash is answered, and keeps the node. -/
theorem answers_of_plain (hs : isStart c = false) (hc : mayClash c = false) (s : State) : answers c s := by
  cases c with
  | powerOn | resetLineAsserted | resetHoldExpiry | resetLineReleased | configReadComplete | listenTimerExpiry
  | restartAnswerLeft => cases hs
  | roll | draw | frameRejected => cases hc
  | laneReaderReading => exact (laneReaderReading_sound _ _ _ _ s)
  | berthDetectorChange => exact (berthDetectorChange_sound _ _ _ s)
  | berthSettleExpiry => exact (berthSettleExpiry_sound _ _ s)
  | surveyPeriodEnd => exact (surveyPeriodEnd_sound _ s)
  | entryReaderReading => exact (entryReaderReading_sound _ s)
  | bypassReaderReading => exact (bypassReaderReading_sound _ s)
  | stageDetectorChange => exact (stageDetectorChange_sound _ _ s)
  | entryCallTimeout => exact (entryCallTimeout_sound s)
  | spinupExpiry => exact (spinupExpiry_sound _ s)
  | dwellExpiry => exact (dwellExpiry_sound _ s)
  | runonExpiry => exact (runonExpiry_sound _ s)
  | advanceTimeout => exact (advanceTimeout_sound _ s)
  | stopInputAsserted => exact (stopInputAsserted_sound s)
  | stopInputCleared => exact (stopInputCleared_sound s)
  | temperatureReading => exact (temperatureReading_sound _ s)
  | frostClearExpiry => exact (frostClearExpiry_sound s)
  | callTimerExpiry => exact (callTimerExpiry_sound s)
  | unplacedRetryExpiry => exact (unplacedRetryExpiry_sound _ s)
  | offerWindowExpiry => exact (offerWindowExpiry_sound _ s)
  | takeWaitExpiry => exact (takeWaitExpiry_sound s)
  | takeWatchExpiry => exact (takeWatchExpiry_sound _ s)
  | transitTimeout => exact (transitTimeout_sound _ s)
  | connectionReport => exact (connectionReport_sound _ _ s)
  | disconnectReport => exact (disconnectReport_sound _ s)
  | faultReport => exact (faultReport_sound _ s)
  | meterPulse => exact (meterPulse_sound _ s)
  | chargerSettleExpiry => exact (chargerSettleExpiry_sound _ s)
  | rampTimerExpiry => exact (rampTimerExpiry_sound _ s)
  | turnBoundary => exact (turnBoundary_sound s)
  | planHoldExpiry => exact (planHoldExpiry_sound s)
  | drawTimerExpiry => exact (drawTimerExpiry_sound s)
  | freshnessTimerExpiry => exact (freshnessTimerExpiry_sound _ s)
  | feederInputChange => exact (feederInputChange_sound _ _ _ s)
  | feederRefreshExpiry => exact (feederRefreshExpiry_sound _ s)
  | claimWindowExpiry => exact (claimWindowExpiry_sound _ s)
  | claimRefreshExpiry => exact (claimRefreshExpiry_sound _ s)
  | claimPeriodEntry => exact (claimPeriodEntry_sound _ s)
  | shuntLeadReached => exact (shuntLeadReached_sound _ s)
  | shuntTimerExpiry => exact (shuntTimerExpiry_sound _ s)
  | releaseLeadReached => exact (releaseLeadReached_sound _ s)
  | releaseTimerExpiry => exact (releaseTimerExpiry_sound s)
  | gracePassed => exact (gracePassed_sound _ s)
  | exitGapHolds => exact (exitGapHolds_sound s)
  | feeder => exact (feeder_sound _ _ _ _ s)
  | clock => exact (clock_sound _ _ s)
  | run => exact (run_sound _ _ _ _ _ _ s)
  | runCancel => exact (runCancel_sound _ _ s)
  | clearRuns => exact (clearRuns_sound _ s)
  | parkCall => exact (parkCall_sound _ _ _ _ _ _ _ s)
  | offer => exact (offer_sound _ _ _ _ s)
  | take => exact (take_sound _ _ _ _ _ s)
  | found => exact (found_sound _ _ _ s)
  | claim => exact (claim_sound _ _ _ _ s)
  | depart => exact (depart_sound _ _ _ _ s)
  | late => exact (late_sound _ _ s)
  | answerOrAlertHeard => exact (answerOrAlertHeard_sound _ _ _ s)
  | frameAbandoned => exact (frameAbandoned_sound _ s)
  | frameSendStart => exact (frameSendStart_sound s)
  | frameWithdrawn => exact (frameWithdrawn_sound s)
  | frameSent => exact (frameSent_sound s)
  | ackButtonPress => exact (ackButtonPress_sound s)
  | survey => exact (survey_sound _ _ _ s)
  | identify => exact (identify_sound _ _ _ s)
  | laneOpen => exact (laneOpen_sound _ _ _ s)
  | laneClose => exact (laneClose_sound _ _ _ s)
  | laneKind => exact (laneKind_sound _ _ _ s)
  | washSkip => exact (washSkip_sound _ _ _ s)
  | washResume => exact (washResume_sound _ _ _ s)
  | hold => exact (hold_sound _ _ _ s)
  | unhold => exact (unhold_sound _ _ _ s)
  | feed => exact (feed_sound _ _ _ s)
  | forget => exact (forget_sound _ _ _ s)
  | ack => exact (ack_sound _ _ _ s)
  | report => exact (report_sound _ _ _ s)
  | restart => exact (restart_sound _ _ _ s)
  | orderUnknownKind => exact (orderUnknownKind_sound _ _ _ _ s)
  | idleOf10BitTimes => exact (idleOf10BitTimes_sound s)
  | orderForAnotherStation => exact (orderForAnotherStation_sound _ _ _ _ _ s)
theorem exec_answered_of_ne_frameRejected (hc : ∀ bytes, c ≠ .frameRejected bytes) (s : State) : Answered c s := by
  cases hs : isStart c with
  | true => exact start_answered hs s
  | false =>
    cases hm : mayClash c with
    | false => exact (answers_of_plain hs hm s).answered
    | true =>
      cases c with
      | roll => exact roll_answered _ _ _ _ _ _ _ _ _ _ s
      | draw => exact draw_answered _ _ _ _ _ _ _ s
      | frameRejected bytes => exact absurd rfl (hc bytes)
      | _ => cases hm
/-- A frame given as its bytes holds own figures when the command that it spells does. -/
theorem ownFigures_read {own : Nat} {bytes : List Byte} (h : readFrame own bytes = some c) :
    Claims.ownFigures own (.frameRejected bytes) = Claims.ownFigures own c := by
  obtain ⟨-, sender, kind, body, rfl⟩ := readFrame_some h
  unfold Claims.ownFigures
  dsimp only
  rw [h]
  cases hb : readBody own sender kind body with
  | frameRejected bytes => exact absurd hb (readBody_ne_frameRejected _ _ _ _ _)
  | _ => rfl
theorem readBody_isStart (own sender kind : Nat) (body : List Byte) : isStart (readBody own sender kind body) = false := by
  unfold readBody readOrder orderOfKind
  dsimp only
  repeat' split
  all_goals rfl
theorem frameRejected_answered (bytes : List Byte) (s : State) : Answered (.frameRejected bytes) s := by
  cases hr : readFrame s.cfg.station bytes with
  | none =>
    exact ⟨_, frameRejected_discards hr, fun _ => hear_spares _ _ fun _ => (Calm.refl s).spared⟩
  | some c =>
    have own := ownFigures_read hr
    unfold Answered Spared
    rw [frameRejected_reads hr, own]
    obtain ⟨-, sender, kind, body, rfl⟩ := readFrame_some hr
    obtain ⟨t, e, h⟩ := exec_answered_of_ne_frameRejected (readBody_ne_frameRejected s.cfg.station sender kind body) s
    exact ⟨t, e, fun _ => h (readBody_isStart _ _ _ _)⟩
theorem exec_answered (c : Instr) (s : State) : Answered c s := by
  by_cases hc : ∃ bytes, c = .frameRejected bytes
  · obtain ⟨bytes, rfl⟩ := hc
    exact frameRejected_answered bytes s
  · exact exec_answered_of_ne_frameRejected (fun bytes e => hc ⟨bytes, e⟩) s

/-! ### The node states (R192, R200, R201) -/

theorem listenOrRun_iff : s.listenOrRun = true ↔ s.node.state = .listen ∨ s.node.state = .run := by simp [State.listenOrRun]
theorem inRun_iff : s.inRun = true ↔ s.node.state = .run := by simp [State.inRun]

end Sys2Proof.Machine

open Sys2Proof Sys2Proof.Machine

/-- Settles O59: every command is answered, and all but the starts spare the node (`exec_answered`). -/
theorem onlyStartsAndClashesChangeTheNode : Obligations.OnlyStartsAndClashesChangeTheNode := by
  unfold Obligations.OnlyStartsAndClashesChangeTheNode
  intro c s
  obtain ⟨t, e, h⟩ := exec_answered c s
  exact ⟨t, e, h, active_iff, listenOrRun_iff, inRun_iff⟩
end

section
/-! SUPPORT. What the receiver takes from the line, and its idle (R181, R184, R185, R192, R200, R202, R206). -/

namespace Sys2Proof.Machine

open Sys2Proof

variable {s : State} {c : Instr}

/-- A frame other than one given as its bytes is heard: accepted or not, and with an effect of its own. -/
theorem exec_frame_hears (h : Claims.isFrame c = true) (hc : ∀ bytes, c ≠ .frameRejected bytes) (s : State) :
    ∃ a f, exec c s = .next (s.hear a f) := by
  cases c with
  | frameRejected bytes => exact absurd rfl (hc bytes)
  | orderUnknownKind sender tag kind args =>
    show ∃ a f, execOrderUnknownKind sender tag kind args s = _
    unfold execOrderUnknownKind
    split
    · exact ⟨_, _, rfl⟩
    · exact ⟨_, _, rfl⟩
  | roll | draw | feeder | clock | run | runCancel | clearRuns | parkCall | offer | take | found | claim | depart | late
  | answerOrAlertHeard | orderForAnotherStation | survey | identify | laneOpen | laneClose | laneKind | washSkip
  | washResume | hold | unhold | feed | forget | ack | report | restart => exact ⟨_, _, rfl⟩
  | _ => cases h
theorem isFrame_readBody (own sender kind : Nat) (body : List Byte) :
    Claims.isFrame (readBody own sender kind body) = true := by
  unfold readBody readOrder orderOfKind
  dsimp only
  repeat' split
  all_goals rfl
/-- Every frame is heard. -/
theorem exec_isFrame (h : Claims.isFrame c = true) (s : State) : ∃ a f, exec c s = .next (s.hear a f) := by
  by_cases hc : ∃ bytes, c = .frameRejected bytes
  · obtain ⟨bytes, rfl⟩ := hc
    cases hr : readFrame s.cfg.station bytes with
    | none => exact ⟨_, _, frameRejected_discards hr⟩
    | some d =>
      rw [frameRejected_reads hr]
      obtain ⟨-, sender, kind, body, rfl⟩ := readFrame_some hr
      exact exec_frame_hears (isFrame_readBody _ _ _ _) (readBody_ne_frameRejected _ _ _ _) s
  · exact exec_frame_hears h (fun bytes e => hc ⟨bytes, e⟩) s
theorem takesFrame_iff : s.takesFrame = true ↔ Claims.hearing s := ⟨hearing_of_takesFrame, takesFrame_of_hearing⟩
/-- A frame without an effect ends. -/
theorem hear_nothing (h : s.mayDrive = true) (a : Bool) : s.hear a (fun s => s) = s.frameEnded := by
  unfold State.hear
  rw [if_pos h, ite_self]
theorem exec_frameAbandoned (cause : AbandonCause) (s : State) : exec (.frameAbandoned cause) s =
    if s.mayDrive then match cause with
      | .idle => .next (s.setLink { s.link with receiver := .ready, idle := 10 })
      | .stopBitLow => .next s.frameEnded
      | .lengthAbove32 => .next s.frameEnded
    else .next s := rfl

end Sys2Proof.Machine

open Sys2Proof Sys2Proof.Machine

/-- Settles O47: every frame is heard (`exec_isFrame`), and what a frame heard comes to stands in `hear_deaf`, `hear_ignored`
and `hear_nothing`. -/
theorem receiverTakesTheLine : Obligations.ReceiverTakesTheLine := by
  unfold Obligations.ReceiverTakesTheLine
  intro s
  dsimp only
  rw [← mayDrive_iff]
  refine ⟨fun hd => ⟨fun c hc => ?_, fun cause => ?_⟩, fun hd => ⟨fun hn c hc => ?_, ?_, ?_, ?_⟩, fun hh => ?_,
    fun bytes c hr => frameRejected_reads hr, fun hi => congrArg _ (idleFor_counting 10 hi),
    fun hb => congrArg _ (idleFor_busy 10 hb)⟩
  · obtain ⟨a, f, e⟩ := exec_isFrame hc s
    rw [e, hear_deaf (Bool.eq_false_iff.mpr hd)]
  · rw [exec_frameAbandoned, if_neg hd]
  · obtain ⟨a, f, e⟩ := exec_isFrame hc s
    rw [e, hear_ignored hd (Bool.eq_false_iff.mpr (hn ∘ takesFrame_iff.mp))]
    rfl
  · rw [exec_frameAbandoned, if_pos hd]
    rfl
  · rw [exec_frameAbandoned, if_pos hd]
    rfl
  · rw [exec_frameAbandoned, if_pos hd]
  · have hd : s.mayDrive = true := takesFrame_mayDrive (takesFrame_of_hearing hh)
    exact ⟨fun _ _ _ => congrArg _ (hear_nothing hd true), fun _ _ _ _ _ => congrArg _ (hear_nothing hd true),
      fun bytes hr => (frameRejected_discards hr).trans (congrArg _ (hear_nothing hd false))⟩
end

section
/-! SUPPORT. The levels of a frame on the line, and the bit at which a station withdraws (R179, R187). -/

namespace Sys2Proof.Machine

open Sys2Proof

/-! ### The levels of a byte and of a frame (R179) -/

theorem byteLevels_length (b : Byte) : (byteLevels b).length = 10 := rfl
theorem byteLevels_data (b : Byte) {j : Nat} (h : j < 8) : (byteLevels b)[1 + j]? = some (b.getLsbD (7 - j)) := by
  interval_cases j <;> rfl
theorem frameLevels_length (bytes : List Byte) : (frameLevels bytes).length = 10 * bytes.length := by
  induction bytes with
  | nil => rfl
  | cons b bytes ih =>
    have h : (frameLevels (b :: bytes)).length = 10 + (frameLevels bytes).length := List.length_append
    rw [h, ih, List.length_cons]
    omega
/-- The levels of byte `i` stand from bit `10 i` on. -/
theorem frameLevels_getElem? {k : Nat} (hk : k < 10) {b : Byte} : ∀ {bytes : List Byte} {i : Nat}, bytes[i]? = some b →
    (frameLevels bytes)[10 * i + k]? = (byteLevels b)[k]?
  | x :: bytes, 0, h => by
    obtain rfl : x = b := Option.some.inj h
    rw [Nat.mul_zero, Nat.zero_add]
    exact List.getElem?_append_left hk
  | x :: bytes, i + 1, h => by
    have skip : (frameLevels (x :: bytes))[10 * (i + 1) + k]? = (frameLevels bytes)[10 * (i + 1) + k - 10]? :=
      List.getElem?_append_right (by rw [byteLevels_length]; omega)
    rw [skip, show 10 * (i + 1) + k - 10 = 10 * i + k by omega]
    exact frameLevels_getElem? hk (bytes := bytes) h
theorem frameLevels_append (xs ys : List Byte) : frameLevels (xs ++ ys) = frameLevels xs ++ frameLevels ys :=
  List.flatMap_append

/-! ### The bit of a withdrawal (R187) -/

theorem withdrawsAt_same (b : Bool) (xs ys : List Bool) :
    withdrawsAt (b :: xs) (b :: ys) = (withdrawsAt xs ys).map (· + 1) := by
  cases b <;> simp [withdrawsAt, lineLevel, List.findIdx?_cons]
/-- A station that drives high against low withdraws there. -/
theorem withdrawsAt_high (xs ys : List Bool) : withdrawsAt (true :: xs) (false :: ys) = some 0 := rfl
/-- A station that drives low reads its own level. -/
theorem withdrawsAt_low (xs ys : List Bool) : withdrawsAt (false :: xs) (true :: ys) = (withdrawsAt xs ys).map (· + 1) := by
  simp [withdrawsAt, lineLevel, List.findIdx?_cons]
/-- Where two stations drive the same levels neither withdraws. -/
theorem withdrawsAt_append (c xs ys : List Bool) :
    withdrawsAt (c ++ xs) (c ++ ys) = (withdrawsAt xs ys).map (· + c.length) := by
  induction c with
  | nil => simp
  | cons b c ih =>
    rw [List.cons_append, List.cons_append, withdrawsAt_same, ih, Option.map_map]
    exact congrArg (fun f => Option.map f _) (funext fun n => Nat.add_assoc _ _ _)
theorem withdrawsAt_self (xs : List Bool) : withdrawsAt xs xs = none := by
  have h := withdrawsAt_append xs [] []
  rwa [List.append_nil] at h

/-! ### The lower of two bytes (R187) -/

/-- The lowest `n` bits of a number, the most significant first. -/
def bitsFrom (x : Nat) : Nat → List Bool
  | 0 => []
  | n + 1 => x.testBit n :: bitsFrom x n

theorem byteLevels_bits (b : Byte) : byteLevels b = false :: bitsFrom b.toNat 8 ++ [true] := rfl
theorem bitsFrom_length (x : Nat) : ∀ n, (bitsFrom x n).length = n
  | 0 => rfl
  | n + 1 => congrArg (· + 1) (bitsFrom_length x n)
/-- Of two numbers the lower has the lower bit where they first differ. -/
theorem bitsFrom_first_differ {x y : Nat} : ∀ {n : Nat}, x % 2 ^ n < y % 2 ^ n →
    ∃ c u v, bitsFrom x n = c ++ false :: u ∧ bitsFrom y n = c ++ true :: v
  | 0, h => by simp [Nat.mod_one] at h
  | n + 1, h => by
    rw [Nat.mod_pow_succ, Nat.mod_pow_succ, ← Nat.toNat_testBit, ← Nat.toNat_testBit] at h
    have hx : x % 2 ^ n < 2 ^ n := Nat.mod_lt _ (Nat.two_pow_pos n)
    have hy : y % 2 ^ n < 2 ^ n := Nat.mod_lt _ (Nat.two_pow_pos n)
    have same (hb : x.testBit n = y.testBit n) :
        ∃ c u v, bitsFrom x (n + 1) = c ++ false :: u ∧ bitsFrom y (n + 1) = c ++ true :: v := by
      rw [hb] at h
      obtain ⟨c, u, v, hu, hv⟩ := bitsFrom_first_differ (x := x) (y := y) (n := n) (by omega)
      exact ⟨y.testBit n :: c, u, v, by rw [bitsFrom, hu, hb]; rfl, by rw [bitsFrom, hv]; rfl⟩
    cases xb : x.testBit n <;> cases yb : y.testBit n
    · exact same (xb.trans yb.symm)
    · exact ⟨[], bitsFrom x n, bitsFrom y n, by rw [bitsFrom, xb]; rfl, by rw [bitsFrom, yb]; rfl⟩
    · rw [xb, yb, Bool.toNat_true, Bool.toNat_false] at h
      omega
    · exact same (xb.trans yb.symm)
/-- Of two bytes the lower drives low where they first differ, within its ten bits. -/
theorem byteLevels_first_differ {x y : Byte} (h : x.toNat < y.toNat) :
    ∃ c u v, c.length < 10 ∧ byteLevels x = c ++ false :: u ∧ byteLevels y = c ++ true :: v := by
  have hx : x.toNat % 2 ^ 8 = x.toNat := Nat.mod_eq_of_lt x.isLt
  have hy : y.toNat % 2 ^ 8 = y.toNat := Nat.mod_eq_of_lt y.isLt
  obtain ⟨c, u, v, hu, hv⟩ := bitsFrom_first_differ (hx.symm ▸ hy.symm ▸ h)
  have hl : 8 = c.length + (u.length + 1) := by
    have := congrArg List.length hu
    rwa [bitsFrom_length, List.length_append, List.length_cons] at this
  refine ⟨false :: c, u ++ [true], v ++ [true], by rw [List.length_cons]; omega, ?_, ?_⟩
  · rw [byteLevels_bits, hu]
    simp
  · rw [byteLevels_bits, hv]
    simp

end Sys2Proof.Machine

open Sys2Proof Sys2Proof.Machine

/-- Settles O49: at the first bit in which two frames differ the greater drives high against low, and the lower reads the
level it drives (`byteLevels_first_differ`). -/
theorem theLowerFrameKeepsTheLine : Obligations.TheLowerFrameKeepsTheLine := by
  unfold Obligations.TheLowerFrameKeepsTheLine
  refine ⟨rfl, rfl, rfl, fun bytes i b hb => ⟨?_, ?_, fun j hj => ?_⟩, fun pre post other x y hxy => ?_,
    fun bytes => withdrawsAt_self _⟩
  · exact frameLevels_getElem? (k := 0) (by decide) hb
  · exact frameLevels_getElem? (k := 9) (by decide) hb
  · rw [Nat.add_assoc, frameLevels_getElem? (by omega) hb, byteLevels_data b hj]
  · obtain ⟨c, u, v, hc, hu, hv⟩ := byteLevels_first_differ hxy
    have split (z : Byte) (c' u' : List Bool) (rest : List Byte) (h : byteLevels z = c' ++ u') :
        frameLevels (pre ++ z :: rest) = (frameLevels pre ++ c') ++ (u' ++ frameLevels rest) := by
      rw [frameLevels_append, List.append_assoc, ← List.append_assoc c', ← h]
      rfl
    have hn : (frameLevels pre ++ c).length = 10 * pre.length + c.length := by
      rw [List.length_append, frameLevels_length]
    dsimp only
    rw [split x c _ post hu, split y c _ other hv, withdrawsAt_append, withdrawsAt_append, hn, List.cons_append,
      List.cons_append, withdrawsAt_high, withdrawsAt_low]
    refine ⟨c.length, hc, congrArg some (Nat.zero_add _), fun j hj => ?_⟩
    obtain ⟨k, hk, rfl⟩ := Option.map_eq_some_iff.mp hj
    obtain ⟨m, -, rfl⟩ := Option.map_eq_some_iff.mp hk
    omega
end

section
/-! SUPPORT. The send queue: notices offered to it, and the frames begun, sent and withdrawn (R186 to R189, R192). -/

namespace Sys2Proof.Machine

open Sys2Proof

variable {s : State} {n : Notice} {w : Nat} {rest : List SendFrame}

/-! ### A notice offered to the queue (R188, R189, R192) -/

theorem frameClasses_by_kind (n : Notice) : (n.isUrgent = true ↔ n.kind ∈ [0x03, 0x0A, 0x0D, 0x0E]) ∧
    (n.isRoll = true ↔ n.kind = 0x01) ∧ (n.isDraw = true ↔ n.kind = 0x02) := by
  cases n <;> simp [Notice.isUrgent, Notice.isRoll, Notice.isDraw, Notice.kind]
/-- The other frames that wait: all but the one under way (R189). -/
theorem waiting_other (l : Link) : l.waiting .other = if l.sending = some .other then l.other.tail else l.other := by
  simp [Link.waiting, Link.frames]
theorem drawWaits_iff (l : Link) : l.drawWaits = true ↔ ∃ x ∈ l.waiting .other, x.notice.isDraw = true := List.any_eq_true
theorem drawWaits_false (l : Link) : l.drawWaits = false ↔ ∀ x ∈ l.waiting .other, x.notice.isDraw = false := by
  simp [Link.drawWaits]
theorem replaceDraw_first (n : Notice) {d : SendFrame} (post : List SendFrame) (hd : d.notice.isDraw = true) :
    ∀ {pre : List SendFrame}, (∀ x ∈ pre, x.notice.isDraw = false) →
      replaceDraw n (pre ++ d :: post) = pre ++ { d with notice := n } :: post
  | [], _ => if_pos hd
  | x :: pre, h => by
    obtain ⟨hx, hpre⟩ := List.forall_mem_cons.mp h
    have ih := replaceDraw_first n post hd hpre
    rw [List.cons_append, replaceDraw, if_neg (by simp [hx]), ih, List.cons_append]
/-- The first waiting DRAW takes the new notice. -/
theorem replaceWaitingDraw_first {l : Link} {pre post : List SendFrame} {d : SendFrame}
    (hw : l.waiting .other = pre ++ d :: post) (hd : d.notice.isDraw = true) (hp : ∀ x ∈ pre, x.notice.isDraw = false) :
    l.replaceWaitingDraw n = { l with other :=
      (if l.sending = some .other then l.other.take 1 else []) ++ (pre ++ { d with notice := n } :: post) } := by
  rw [waiting_other] at hw
  unfold Link.replaceWaitingDraw
  simp only [beq_iff_eq]
  split_ifs at hw ⊢
  · rw [hw, replaceDraw_first n post hd hp]
  · rw [hw, replaceDraw_first n post hd hp, List.nil_append]
theorem send_silent (h : s.listenOrRun = false) : s.send n = s := offerFrame_silent _ h
theorem send_merged (h : s.listenOrRun = true) (hn : n.isDraw = true) (hw : s.link.drawWaits = true) :
    s.send n = s.setLink (s.link.replaceWaitingDraw n) := by
  unfold State.send State.offerFrame
  rw [if_pos h, if_pos (by simp [hn, hw])]
theorem send_unmerged (h : s.listenOrRun = true) (hn : n.isDraw = false ∨ s.link.drawWaits = false) :
    s.send n = if s.link.size < 16 then s.setLink (s.link.push ⟨n, 0, false⟩) else s.dropOnFull ⟨n, 0, false⟩ := by
  unfold State.send State.offerFrame
  rw [if_pos h, if_neg (by simpa [imp_iff_not_or] using hn)]
theorem push_by_class (l : Link) : l.push ⟨n, 0, false⟩ =
    if n.isUrgent then { l with urgent := l.urgent ++ [⟨n, 0, false⟩] }
    else { l with other := l.other ++ [⟨n, 0, false⟩] } := by
  unfold Link.push Notice.frameClass
  cases n.isUrgent <;> rfl

/-! ### The send of the head frame (R186) -/

theorem headClass_urgent {l : Link} (hs : l.sending = none) {f : SendFrame} (hu : l.urgent = f :: rest) :
    l.headClass = some .urgent := by
  unfold Link.headClass
  rw [hs, hu]
theorem headClass_other {l : Link} (hs : l.sending = none) (hu : l.urgent = []) {f : SendFrame} (ho : l.other = f :: rest) :
    l.headClass = some .other := by
  unfold Link.headClass
  rw [hs, hu, ho]
theorem headClass_empty {l : Link} (hs : l.sending = none) (hu : l.urgent = []) (ho : l.other = []) : l.headClass = none := by
  unfold Link.headClass
  rw [hs, hu, ho]
theorem sendStart_still (h : s.gapAtHand = false ∨ s.link.headClass = none) : exec .frameSendStart s = .next s := by
  show execFrameSendStart s = _
  unfold execFrameSendStart
  split
  · rename_i hg hc
    simp [hg, hc] at h
  · rfl
theorem sendStart_begun (h : s.gapAtHand = true) {c : FrameClass} (hc : s.link.headClass = some c) :
    exec .frameSendStart s = .next (s.setLink { s.link with sending := some c, receiver := .waitIdle, idle := 0 }) := by
  show execFrameSendStart s = _
  unfold execFrameSendStart
  rw [h, hc]
theorem gapAtHand_busy (h : ¬ Claims.countsIdle s) : s.gapAtHand = false := by
  unfold State.gapAtHand State.gapWithin
  rw [Bool.eq_false_iff.mpr (h ∘ lineIdle_iff.mp), Bool.false_and]
/-- On an idle line the head frame starts when its gap lies before the next ten bit times. -/
theorem sendStart_head (hi : Claims.countsIdle s) {c : FrameClass} (hc : s.link.headClass = some c)
    (hf : s.link.frames c = ⟨n, w, false⟩ :: rest) :
    let gap := (if n.isUrgent then 40 else 64) + 2 * s.cfg.station
    (gap < s.link.idle + 10 → exec .frameSendStart s =
      .next (s.setLink { s.link with sending := some c, receiver := .waitIdle, idle := 0 })) ∧
    (s.link.idle + 10 ≤ gap → exec .frameSendStart s = .next s) := by
  have gap : s.gapAtHand = decide ((if n.isUrgent then 40 else 64) + 2 * s.cfg.station ≤ s.link.idle + 9) := by
    unfold State.gapAtHand State.gapWithin Link.head?
    rw [lineIdle_iff.mpr hi, hc]
    simp only [hf, List.head?_cons]
    rfl
  refine ⟨fun h => sendStart_begun ?_ hc, fun h => sendStart_still (.inl ?_)⟩
  · rw [gap]
    exact decide_eq_true (by omega)
  · rw [gap]
    exact decide_eq_false (by omega)

/-! ### A frame sent or withdrawn (R187 to R189) -/

theorem head?_sending {l : Link} {c : FrameClass} (hs : l.sending = some c) {f : SendFrame} (hf : l.frames c = f :: rest) :
    l.head? = some f := by
  unfold Link.head? Link.headClass
  simp only [hs, hf, List.head?_cons]
theorem nothing_under_way (h : s.link.sending = none) : exec .frameSent s = .next s ∧ exec .frameWithdrawn s = .next s := by
  show execFrameSent s = _ ∧ execFrameWithdrawn s = _
  unfold execFrameSent execFrameWithdrawn
  rw [h]
  exact ⟨rfl, rfl⟩
section
variable {c : FrameClass}

theorem exec_frameSent (hs : s.link.sending = some c) (hf : s.link.frames c = ⟨n, w, false⟩ :: rest) :
    exec .frameSent s = .next (s.setLink (Claims.left c .waitIdle s.link)) := by
  show execFrameSent s = _
  unfold execFrameSent
  rw [hs, head?_sending hs hf, ← drop_left]
  rfl
theorem exec_frameWithdrawn (hs : s.link.sending = some c) {f : SendFrame} (hf : s.link.frames c = f :: rest) :
    exec .frameWithdrawn s = .next (s.withdrawFrame c f) := by
  show execFrameWithdrawn s = _
  unfold execFrameWithdrawn
  rw [hs, head?_sending hs hf]
theorem receives_drop (c : FrameClass) (s : State) :
    (s.setLink (s.link.drop c)).receives = s.setLink (Claims.left c .receiving s.link) := by
  rw [← drop_left]
  rfl
/-- The sixteenth withdrawal drops the frame. -/
theorem withdrawFrame_last (hw : 15 ≤ w) : s.withdrawFrame c ⟨n, w, false⟩ =
    if s.node.state = .configFault then s.setLink (Claims.left c .receiving s.link)
    else (s.setLink (Claims.left c .receiving s.link)).raise .linkCongested n.kind := by
  unfold State.withdrawFrame
  rw [if_pos (Nat.succ_le_succ hw), receives_drop]
  simp only [beq_iff_eq]
  rfl
/-- A DRAW behind which another waits is removed (R189). -/
theorem withdrawFrame_superseded (hw : w < 15) (hn : n.isDraw = true) (hd : s.link.drawWaits = true) :
    s.withdrawFrame c ⟨n, w, false⟩ = s.setLink (Claims.left c .receiving s.link) := by
  unfold State.withdrawFrame
  rw [if_neg (by simpa using hw), if_pos (by simp [hn, hd]), receives_drop]
/-- Any other frame stays, with one withdrawal more (R187). -/
theorem withdrawFrame_stays (hw : w < 15) (hd : ¬ (n.isDraw = true ∧ s.link.drawWaits = true)) :
    s.withdrawFrame c ⟨n, w, false⟩ = (s.setLink (s.link.keep c)).receives := by
  unfold State.withdrawFrame
  rw [if_neg (by simpa using hw), if_neg (by simpa using hd)]
end

end Sys2Proof.Machine

open Sys2Proof Sys2Proof.Machine

/-- Settles O50: the cases of an offer to the queue (`send_merged`, `send_unmerged`), of a send (`sendStart_head`) and of a
withdrawal (`withdrawFrame_last` and its like). -/
theorem framesAreQueuedSentOrWithdrawn : Obligations.FramesAreQueuedSentOrWithdrawn := by
  unfold Obligations.FramesAreQueuedSentOrWithdrawn
  refine ⟨frameClasses_by_kind, fun s n => ?_, fun s n w rest => ?_⟩
  · dsimp only
    refine ⟨send_silent, fun hl => ⟨fun pre d post hn hw hd hp => ?_, fun hu => ?_⟩⟩
    · rw [← waiting_other] at hw
      have waits : s.link.drawWaits = true := (drawWaits_iff _).mpr ⟨d, by simp [hw], hd⟩
      rw [send_merged hl hn waits, replaceWaitingDraw_first hw hd hp]
    · rw [← waiting_other, ← drawWaits_false] at hu
      rw [send_unmerged hl hu]
      refine ⟨fun hr => ?_, fun hr => ?_⟩
      · rw [if_pos (show s.link.size < 16 from hr), push_by_class]
      · rw [if_neg (show ¬ s.link.size < 16 from Nat.not_lt.mpr hr)]
        exact ⟨fun hl => if_pos hl, fun hl => if_neg (by simp [hl])⟩
  · dsimp only
    refine ⟨fun hi => ?_, fun hb => sendStart_still (.inl (gapAtHand_busy hb)), nothing_under_way,
      fun hs hf hn => ?_, fun hs hf => ?_⟩
    · have hs : s.link.sending = none := hi.2.2.1
      exact ⟨fun hu => sendStart_head hi (headClass_urgent hs hu) hu,
        fun hu ho => sendStart_head hi (headClass_other hs hu ho) ho,
        fun hu ho => sendStart_still (.inr (headClass_empty hs hu ho))⟩
    · have withdrawn := exec_frameWithdrawn (c := .urgent) hs hf
      refine ⟨exec_frameSent hs hf, fun hw => ?_, fun hw => ?_⟩
      · rw [withdrawn, withdrawFrame_stays hw (by simp [hn])]
        unfold Link.keep
        dsimp only
        rw [hf]
        rfl
      · rw [withdrawn, withdrawFrame_last hw]
    · have withdrawn := exec_frameWithdrawn (c := .other) hs hf
      have draws : s.link.drawWaits = true ↔ ∃ x ∈ rest, x.notice.isDraw = true := by
        rw [drawWaits_iff, waiting_other, if_pos hs, hf, List.tail_cons]
      refine ⟨exec_frameSent hs hf, fun hw hd => ?_, fun hw hd => ?_, fun hw => ?_⟩
      · rw [← draws] at hd
        rw [withdrawn, withdrawFrame_stays hw hd]
        unfold Link.keep
        dsimp only
        rw [hf]
        rfl
      · rw [withdrawn, withdrawFrame_superseded hw hd.1 (draws.mpr hd.2)]
      · rw [withdrawn, withdrawFrame_last hw]
end

section
/-! SUPPORT. The tests of R184 on the bytes of a frame: its check, its length, its kind and its fields (R180, R182 to R184). -/

namespace Sys2Proof.Machine

open Sys2Proof

variable {own station kind check : Nat} {body : List Byte}

/-! ### The check (R182) -/

/-- The end-around sum of some bytes is their sum modulo 65 535, and 0 only for a sum of 0. -/
theorem sumWords_spec (bytes : List Byte) : sumWords (wordsOf bytes) ≤ 65535 ∧
    sumWords (wordsOf bytes) % 65535 = Claims.pairSum bytes % 65535 ∧
    (sumWords (wordsOf bytes) = 0 ↔ Claims.pairSum bytes = 0) := by
  obtain ⟨hs, hw⟩ := wordsOf_spec bytes
  have h := foldl_addCarry (wordsOf bytes) (Nat.zero_le _) hw
  rwa [Nat.zero_add, hs] at h
theorem checkPasses_iff (bytes : List Byte) (hc : check ≤ 65535) :
    checkPasses bytes check = true ↔ Claims.allOnes (Claims.pairSum bytes + check) := by
  obtain ⟨h1, h2, h3⟩ := sumWords_spec bytes
  obtain ⟨k1, k2, k3⟩ := addCarry_spec h1 hc
  unfold checkPasses Claims.allOnes
  rw [beq_iff_eq]
  omega
theorem checkOf_eq {bytes : List Byte} (h : 0 < Claims.pairSum bytes) :
    checkOf bytes = (65535 - Claims.pairSum bytes % 65535) % 65535 := by
  obtain ⟨h1, h2, h3⟩ := sumWords_spec bytes
  unfold checkOf
  omega
/-- The sum of a frame is never 0, for its kind is not. -/
theorem pairSum_head (hk : 1 ≤ kind) (hk' : kind ≤ 255) (rest : List Byte) :
    0 < Claims.pairSum (byte station :: byte kind :: rest) := by
  have h := byte_toNat kind hk'
  unfold Claims.pairSum
  omega

/-! ### Fields (R180, R183) -/

theorem field_one (body : List Byte) (i : Nat) : Claims.field body i 1 = bodyByte body i := by
  unfold Claims.field bodyByte
  rw [← List.head?_drop]
  cases body.drop i <;> simp
theorem field_succ {i n : Nat} (h : i + n < body.length) :
    Claims.field body i (n + 1) = Claims.field body i n * 256 + bodyByte body (i + n) := by
  unfold Claims.field bodyByte
  have hn : n < (body.drop i).length := by rw [List.length_drop]; omega
  rw [List.take_succ_eq_append_getElem hn, List.foldl_append, List.getElem_drop, List.getElem?_eq_getElem h]
  rfl
theorem field_two {i : Nat} (h : i + 1 < body.length) : Claims.field body i 2 = body16 body i := by
  rw [field_succ h, field_one]
  rfl
theorem field_three {i : Nat} (h : i + 2 < body.length) : Claims.field body i 3 = body24 body i := by
  rw [field_succ h, field_two (by omega)]
  unfold body24 body16
  rw [show i + 1 + 1 = i + 2 from rfl]
  omega

/-! ### Kind, length and fields (R183, R184) -/

/-- A body of this length passes the test of Length for its kind (R184). -/
def lengthFits (kind length : Nat) : Bool :=
  match kindLengths kind with
  | some (lo, hi) => lo ≤ length && length ≤ hi
  | none => false

theorem kindLengths_none (h : 17 < kind) : kindLengths kind = none := by
  unfold kindLengths
  split
  case h_18 => rfl
  all_goals omega
theorem noticeTable_bounds : ∀ row ∈ Claims.noticeTable, 1 ≤ row.1 ∧ row.1 ≤ 17 ∧ row.2.2.1 ≤ 32 := by decide
theorem lengthFits_iff {length : Nat} : lengthFits kind length = true ↔
    ∃ row ∈ Claims.noticeTable, row.1 = kind ∧ row.2.1 ≤ length ∧ length ≤ row.2.2.1 := by
  by_cases hk : kind ≤ 17
  · simp only [Claims.noticeTable, List.mem_cons, exists_eq_or_imp, exists_eq_left, List.not_mem_nil, or_false]
    interval_cases kind
    all_goals simp [lengthFits, kindLengths]
  · unfold lengthFits
    rw [kindLengths_none (Nat.lt_of_not_le hk)]
    exact ⟨nofun, fun ⟨row, hr, he, _⟩ => absurd (he ▸ (noticeTable_bounds row hr).2.1) hk⟩
theorem lengthFits_bounds {length : Nat} (h : lengthFits kind length = true) :
    1 ≤ kind ∧ kind ≤ 17 ∧ length ≤ 32 := by
  obtain ⟨row, hr, rfl, -, hl⟩ := lengthFits_iff.mp h
  obtain ⟨h1, h2, h3⟩ := noticeTable_bounds row hr
  exact ⟨h1, h2, hl.trans h3⟩
/-- The test of Fields is the ranges of the table, and the codes of RUN, PARK_CALL and ALERT besides. -/
theorem fieldsOk_iff {row : Nat × Nat × Nat × List (Nat × Nat × Nat × Nat)} (hr : row ∈ Claims.noticeTable)
    (hl : row.2.1 ≤ body.length) : fieldsOk row.1 body = true ↔
      (∀ x ∈ row.2.2.2, x.2.2.1 ≤ Claims.field body x.1 x.2.1 ∧ Claims.field body x.1 x.2.1 ≤ x.2.2.2) ∧
        Claims.codesFit row.1 body := by
  simp only [Claims.noticeTable, List.mem_cons, List.not_mem_nil, or_false] at hr
  rcases hr with rfl | rfl | rfl | rfl | rfl | rfl | rfl | rfl | rfl | rfl | rfl | rfl | rfl | rfl | rfl | rfl | rfl
  all_goals
    dsimp only at hl
    simp (disch := omega) [fieldsOk, Claims.codesFit, field_one, field_two, field_three, okLane, okKilowatts, okSecond, okRun,
      okMinute, okFleet, okAllowance, okPeer, okCost, okClaimCost, okStation, and_assoc]
  -- The demand of RUN and the pull-out of PARK_CALL take more than a range.
  · omega
  · omega
/-- The tests of Kind, Length and Fields, by the notice table (R184). -/
theorem bodyFits_iff : Claims.bodyFits kind body ↔ lengthFits kind body.length = true ∧ fieldsOk kind body = true := by
  rw [lengthFits_iff]
  constructor
  · rintro ⟨⟨row, hr, rfl, h1, h2, hx⟩, hc⟩
    exact ⟨⟨row, hr, rfl, h1, h2⟩, (fieldsOk_iff hr h1).mpr ⟨hx, hc⟩⟩
  · rintro ⟨⟨row, hr, rfl, h1, h2⟩, hf⟩
    obtain ⟨hx, hc⟩ := (fieldsOk_iff hr h1).mp hf
    exact ⟨⟨row, hr, rfl, h1, h2, hx⟩, hc⟩

/-! ### The acceptance of a frame (R184) -/

/-- The tests of R184 on a frame of whole bytes. -/
def passes (own station kind check : Nat) (body : List Byte) : Prop :=
  Claims.allOnes (Claims.pairSum ([byte station, byte kind, byte body.length] ++ body) + check) ∧ station ≤ 31 ∧
    Claims.bodyFits kind body ∧ (4 ≤ kind → kind ≤ 7 → station = 0) ∧ (station = own → kind = 1 ∨ kind = 2)

theorem officeOnly_iff : officeOnly kind = true ↔ 4 ≤ kind ∧ kind ≤ 7 := by
  simp only [officeOnly, Bool.or_eq_true, beq_iff_eq]
  omega
theorem frameAccepted_cons (own : Nat) (station kind length : Byte) (rest : List Byte) :
    frameAccepted own (station :: kind :: length :: rest) = (rest.length == length.toNat + 2
      && checkPasses (station :: kind :: length :: rest |>.take (3 + length.toNat)) (body16 rest length.toNat)
      && okStation station.toNat && lengthFits kind.toNat length.toNat && fieldsOk kind.toNat (rest.take length.toNat)
      && (station.toNat == 0 || !officeOnly kind.toNat)
      && (station.toNat != own || kind.toNat == 0x01 || kind.toNat == 0x02)) := rfl
theorem body16_check (hc : check ≤ 65535) (body : List Byte) : body16 (body ++ be16 check) body.length = check := by
  have h := num16_be16 check hc
  unfold body16 bodyByte
  rw [List.getElem?_append_right (Nat.le_refl _), List.getElem?_append_right (Nat.le_succ _), Nat.sub_self,
    Nat.succ_sub (Nat.le_refl _), Nat.sub_self]
  exact h
theorem frameAccepted_iff (hs : station ≤ 255) (hk : kind ≤ 255) (hc : check ≤ 65535) (hb : body.length ≤ 255) :
    frameAccepted own ([byte station, byte kind, byte body.length] ++ body ++ be16 check) = true ↔
      passes own station kind check body := by
  have htake : ([byte station, byte kind, byte body.length] ++ body ++ be16 check).take (3 + body.length) =
      [byte station, byte kind, byte body.length] ++ body := List.take_left' (by simp; omega)
  have hlen : (body ++ be16 check).length = body.length + 2 := List.length_append
  simp only [List.cons_append, List.nil_append] at htake ⊢
  rw [frameAccepted_cons, byte_toNat _ hs, byte_toNat _ hk, byte_toNat _ hb, htake, body16_check hc, List.take_left, hlen]
  unfold passes
  rw [bodyFits_iff]
  simp only [Bool.and_eq_true, checkPasses_iff _ hc, Bool.or_eq_true, Bool.not_eq_true', bne_iff_ne, beq_iff_eq, okStation,
    decide_eq_true_eq, ← Bool.not_eq_true, officeOnly_iff, List.cons_append, List.nil_append]
  tauto
/-- A frame that passes the tests of R184 is read by its kind and body, and no other is read. -/
theorem readFrame_bytes (hs : station ≤ 255) (hk : kind ≤ 255) (hc : check ≤ 65535) (hb : body.length ≤ 255) :
    (passes own station kind check body → readFrame own ([byte station, byte kind, byte body.length] ++ body ++ be16 check) =
      some (readBody own station kind body)) ∧
    (¬ passes own station kind check body →
      readFrame own ([byte station, byte kind, byte body.length] ++ body ++ be16 check) = none) := by
  rw [← frameAccepted_iff hs hk hc hb]
  simp only [List.cons_append, List.nil_append]
  unfold readFrame
  dsimp only
  rw [byte_toNat _ hs, byte_toNat _ hk, byte_toNat _ hb, List.take_left]
  exact ⟨fun h => if_pos h, fun h => if_neg h⟩
/-- Bytes that do not end two bytes behind the body that their header announces are not read (R180). -/
theorem readFrame_length {bytes : List Byte}
    (h : ∀ x y z rest, bytes = x :: y :: z :: rest → rest.length ≠ z.toNat + 2) : readFrame own bytes = none := by
  unfold readFrame
  split
  · rename_i station kind length rest
    refine if_neg ?_
    rw [frameAccepted_cons, beq_eq_false_iff_ne.mpr (h _ _ _ _ rfl)]
    simp
  · rfl
/-- A body of a kind spells a command at a station: it passes the tests of Kind, Length and Fields, and is read as it. -/
def Spells (own sender kind : Nat) (body : List Byte) (c : Instr) : Prop :=
  lengthFits kind body.length = true ∧ fieldsOk kind body = true ∧ readBody own sender kind body = c

/-- What a body spells is read from the frame of a station that may send it: its check passes. -/
theorem readFrame_frame {c : Instr} (h : Spells own station kind body c) (hs : station ≤ 31)
    (ho : 4 ≤ kind → kind ≤ 7 → station = 0) (hw : station = own → kind = 1 ∨ kind = 2) :
    readFrame own (Claims.frame station kind body) = some c := by
  obtain ⟨hl, hf, rfl⟩ := h
  obtain ⟨hk, hk', hb⟩ := lengthFits_bounds hl
  have sum := pairSum_head (station := station) hk (by omega) (byte body.length :: body)
  refine (readFrame_bytes (by omega) (by omega) (by omega) (by omega)).1 ⟨?_, hs, bodyFits_iff.mpr ⟨hl, hf⟩, ho, hw⟩
  simp only [List.cons_append, List.nil_append]
  unfold Claims.allOnes
  omega
end Sys2Proof.Machine
end

section
/-! SUPPORT. Each notice is read from its bytes as it was sent (R180, R183, R206, R207). -/

namespace Sys2Proof.Machine

open Sys2Proof

variable {own station : Nat}

/-! ### Bytes and fields read back (R180, R183) -/

@[simp] theorem bodyByte_zero {n : Nat} (h : n ≤ 255) (rest : List Byte) : bodyByte (byte n :: rest) 0 = n :=
  byte_toNat n h
@[simp] theorem bodyByte_succ (x : Byte) (rest : List Byte) (i : Nat) : bodyByte (x :: rest) (i + 1) = bodyByte rest i := rfl
@[simp] theorem bodyByte_skip (n : Nat) (rest : List Byte) (i : Nat) : bodyByte (be16 n ++ rest) (i + 2) = bodyByte rest i :=
  rfl
@[simp] theorem body16_zero {n : Nat} (h : n ≤ 65535) (rest : List Byte) : body16 (be16 n ++ rest) 0 = n := num16_be16 n h
@[simp] theorem body16_only {n : Nat} (h : n ≤ 65535) : body16 (be16 n) 0 = n := num16_be16 n h
@[simp] theorem body16_succ (x : Byte) (rest : List Byte) (i : Nat) : body16 (x :: rest) (i + 1) = body16 rest i := rfl
@[simp] theorem body16_skip (n : Nat) (rest : List Byte) (i : Nat) : body16 (be16 n ++ rest) (i + 2) = body16 rest i := rfl
@[simp] theorem body24_only {n : Nat} (h : n ≤ 16777215) : body24 (be24 n) 0 = n := by
  simp [body24, body16, bodyByte, be24]
  omega
@[simp] theorem body24_succ (x : Byte) (rest : List Byte) (i : Nat) : body24 (x :: rest) (i + 1) = body24 rest i := rfl
@[simp] theorem body24_skip (n : Nat) (rest : List Byte) (i : Nat) : body24 (be16 n ++ rest) (i + 2) = body24 rest i := rfl
@[simp] theorem be16_length (n : Nat) : (be16 n).length = 2 := rfl
@[simp] theorem be24_length (n : Nat) : (be24 n).length = 3 := rfl
theorem flags_read (a b c : Bool) (rest : List Byte) :
    bodyFlag (byte (flagBits [a, b, c]) :: rest) 0 = a ∧ bodyFlag (byte (flagBits [a, b, c]) :: rest) 1 = b ∧
      bodyFlag (byte (flagBits [a, b, c]) :: rest) 2 = c := by
  unfold bodyFlag
  rw [bodyByte_zero (by cases a <;> cases b <;> cases c <;> decide)]
  cases a <;> cases b <;> cases c <;> decide
theorem groupOfCode_read (g : Group) : groupOfCode (groupCode g) = g := by cases g <;> rfl
theorem stateOfCode_read (st : FeederState) : stateOfCode (feederCode st) = st := by cases st <;> rfl
theorem classOfCode_read (c : BusClass) : classOfCode (classCode c) = c := by cases c <;> rfl
theorem groupCode_range (g : Group) : 1 ≤ groupCode g ∧ groupCode g ≤ 3 := by cases g <;> decide
theorem feederCode_range (st : FeederState) : 1 ≤ feederCode st ∧ feederCode st ≤ 3 := by cases st <;> decide
theorem classCode_range (c : BusClass) : 1 ≤ classCode c ∧ classCode c ≤ 3 := by cases c <;> decide
theorem answerCode_range (c : AnswerCode) : 1 ≤ answerCode c ∧ answerCode c ≤ 5 := by cases c <;> decide

/-! ### The notices that a node sends (R183) -/

theorem roll_spelled {ask : Bool} {d : Description} {m : PerGroup Nat} (h : Claims.inRange (.roll ask d m)) :
    Spells own station 0x01 (Notice.roll ask d m).body ((Notice.roll ask d m).heardAs station) := by
  obtain ⟨h1, h2, h3, h4, h5, hm⟩ := h
  have ha : m.a ≤ 4000 := hm .a
  have hb : m.b ≤ 4000 := hm .b
  have hc : m.c ≤ 4000 := hm .c
  refine ⟨rfl, ?_, ?_⟩
  · simp (disch := omega) [Notice.body, fieldsOk, okLane, okKilowatts, *]
  · simp (disch := omega) [Notice.body, Notice.heardAs, readBody, flags_read]
theorem draw_spelled {c p : PerGroup Nat} (h : Claims.inRange (.draw c p)) :
    Spells own station 0x02 (Notice.draw c p).body ((Notice.draw c p).heardAs station) := by
  obtain ⟨ha, ha'⟩ : c.a ≤ 4000 ∧ p.a ≤ 4000 := h .a
  obtain ⟨hb, hb'⟩ : c.b ≤ 4000 ∧ p.b ≤ 4000 := h .b
  obtain ⟨hc, hc'⟩ : c.c ≤ 4000 ∧ p.c ≤ 4000 := h .c
  refine ⟨rfl, ?_, ?_⟩
  · simp (disch := omega) [Notice.body, fieldsOk, okKilowatts, *]
  · simp (disch := omega) [Notice.body, Notice.heardAs, readBody]
theorem feeder_spelled (g : Group) (st : FeederState) (hot : Bool) :
    Spells own station 0x03 (Notice.feeder g st hot).body ((Notice.feeder g st hot).heardAs station) := by
  cases g <;> cases st <;> cases hot <;> exact ⟨rfl, rfl, rfl⟩
theorem parkCall_spelled {c : Call} (h : Claims.inRange (.parkCall c)) :
    Spells own station 0x08 (Notice.parkCall c).body ((Notice.parkCall c).heardAs station) := by
  obtain ⟨seq, fleet, cls, route, pullOut, washed⟩ := c
  obtain ⟨h1, h2, h3, hr, hm⟩ := h
  obtain ⟨k1, k2⟩ := classCode_range cls
  dsimp only at h1 h2 h3 hr hm
  have hr' : route.getD 0 ≤ 255 := by cases route <;> simp_all
  have hm' : pullOut.getD 0 ≤ 1439 := by cases pullOut <;> simp_all
  refine ⟨rfl, ?_, ?_⟩
  · simp (disch := omega) [Notice.body, fieldsOk, okFleet, okMinute, *]
  · have flags : ∀ rest i, bodyFlag ((be16 fleet ++ byte (classCode cls) :: rest).drop 3) i = bodyFlag rest i :=
      fun _ _ => rfl
    have hroute : (if route.isSome then some (route.getD 0) else none) = route := by cases route <;> rfl
    have hminute : (if pullOut.isSome then some (pullOut.getD 0) else none) = pullOut := by cases pullOut <;> rfl
    simp (disch := omega) [Notice.body, Notice.heardAs, readBody, readParkCall, flags, flags_read, classOfCode_read, hroute,
      hminute]
theorem offer_spelled {caller seq cost : Nat} (h : Claims.inRange (.offer caller seq cost)) :
    Spells own station 0x09 (Notice.offer caller seq cost).body ((Notice.offer caller seq cost).heardAs station) := by
  obtain ⟨h1, h2, h3, h4⟩ := h
  refine ⟨rfl, ?_, ?_⟩
  · simp (disch := omega) [Notice.body, fieldsOk, okPeer, okCost, *]
  · simp (disch := omega) [Notice.body, Notice.heardAs, readBody]
theorem take_spelled {caller seq lane cost : Nat} (h : Claims.inRange (.take caller seq lane cost)) :
    Spells own station 0x0A (Notice.take caller seq lane cost).body ((Notice.take caller seq lane cost).heardAs station) := by
  obtain ⟨h1, h2, h3, h4, h5, h6⟩ := h
  refine ⟨rfl, ?_, ?_⟩
  · simp (disch := omega) [Notice.body, fieldsOk, okPeer, okLane, okCost, *]
  · simp (disch := omega) [Notice.body, Notice.heardAs, readBody]
theorem found_spelled {fleet lane : Nat} (h : Claims.inRange (.found fleet lane)) :
    Spells own station 0x0B (Notice.found fleet lane).body ((Notice.found fleet lane).heardAs station) := by
  obtain ⟨h1, h2, h3, h4⟩ := h
  refine ⟨rfl, ?_, ?_⟩
  · simp (disch := omega) [Notice.body, fieldsOk, okFleet, okLane, *]
  · simp (disch := omega) [Notice.body, Notice.heardAs, readBody]
theorem claim_spelled {n fleet cost : Nat} (h : Claims.inRange (.claim n fleet cost)) :
    Spells own station 0x0C (Notice.claim n fleet cost).body ((Notice.claim n fleet cost).heardAs station) := by
  obtain ⟨h1, h2, h3, h4, h5⟩ := h
  refine ⟨rfl, ?_, ?_⟩
  · simp (disch := omega) [Notice.body, fieldsOk, okRun, okFleet, okClaimCost, *]
  · simp (disch := omega) [Notice.body, Notice.heardAs, readBody]
theorem depart_spelled {n fleet second : Nat} (h : Claims.inRange (.depart n fleet second)) :
    Spells own station 0x0D (Notice.depart n fleet second).body ((Notice.depart n fleet second).heardAs station) := by
  obtain ⟨h1, h2, h3, h4, h5⟩ := h
  refine ⟨rfl, ?_, ?_⟩
  · simp (disch := omega) [Notice.body, fieldsOk, okRun, okFleet, okSecond, *]
  · simp (disch := omega) [Notice.body, Notice.heardAs, readBody]
theorem late_spelled {n : Nat} (h : Claims.inRange (.late n)) :
    Spells own station 0x0E (Notice.late n).body ((Notice.late n).heardAs station) := by
  obtain ⟨h1, h2⟩ := h
  refine ⟨rfl, ?_, ?_⟩
  · simp (disch := omega) [Notice.body, fieldsOk, okRun, *]
  · simp (disch := omega) [Notice.body, Notice.heardAs, readBody]
theorem answer_spelled {target tag next : Nat} {code : AnswerCode} {payload : List Byte}
    (h : Claims.inRange (.answer target tag code next payload)) :
    Spells own station 0x10 (Notice.answer target tag code next payload).body
      ((Notice.answer target tag code next payload).heardAs station) := by
  obtain ⟨h1, h2⟩ := h
  obtain ⟨k1, k2⟩ := answerCode_range code
  refine ⟨?_, ?_, rfl⟩
  · simp [Notice.body, lengthFits, kindLengths]
    omega
  · simp (disch := omega) [Notice.body, fieldsOk, okStation, *]
theorem alert_spelled {code : AlertCode} {subject : Nat} {time : Option Nat} (h : Claims.inRange (.alert code subject time)) :
    Spells own station 0x11 (Notice.alert code subject time).body ((Notice.alert code subject time).heardAs station) := by
  obtain ⟨h1, h2⟩ := h
  refine ⟨rfl, ?_, rfl⟩
  cases time with
  | none => simp (disch := omega) [Notice.body, fieldsOk, h1]
  | some x =>
    have hx := h2 x rfl
    simp (disch := omega) [Notice.body, fieldsOk, okSecond, h1, hx]
theorem notice_spelled {n : Notice} (h : Claims.inRange n) : Spells own station n.kind n.body (n.heardAs station) := by
  cases n with
  | roll => exact roll_spelled h
  | draw => exact draw_spelled h
  | feeder => exact feeder_spelled _ _ _
  | parkCall => exact parkCall_spelled h
  | offer => exact offer_spelled h
  | take => exact take_spelled h
  | found => exact found_spelled h
  | claim => exact claim_spelled h
  | depart => exact depart_spelled h
  | late => exact late_spelled h
  | answer => exact answer_spelled h
  | alert => exact alert_spelled h

end Sys2Proof.Machine
end

section
/-! SUPPORT. What the office's notices and the orders spell, the frames as sent, and the notices that fail a test (R180, R182 to
R184, R206, R207). -/

namespace Sys2Proof.Machine

open Sys2Proof

variable {own station : Nat}

/-! ### The office's notices, and orders (R183, R206, R207) -/

theorem demandBytes_eq (d : Demand) : Claims.demandBytes d = be16 (demandCode d) := by
  cases d with
  | fleet n => rfl
  | ofClass c => cases c <;> rfl
theorem demand_read {d : Demand} (h : ∀ f, d = .fleet f → 1 ≤ f ∧ f ≤ 9999) : demandCode d ≤ 65535 ∧
    (okFleet (demandCode d) = true ∨ 0xFF01 ≤ demandCode d ∧ demandCode d ≤ 0xFF03) ∧
      demandOfCode (demandCode d) = d := by
  cases d with
  | fleet n =>
    obtain ⟨h1, h2⟩ := h n rfl
    have low : ¬ 0xFF00 ≤ n := by omega
    exact ⟨Nat.le_trans h2 (by decide), .inl (by simp [demandCode, okFleet, h1, h2]), if_neg low⟩
  | ofClass c => cases c <;> decide
theorem clock_spelled {second : Nat} (h : second ≤ 86399) :
    Spells own station 0x04 (be24 second) (.clock station second) := by
  refine ⟨rfl, ?_, ?_⟩
  · simp (disch := omega) [fieldsOk, okSecond, h]
  · simp (disch := omega) [readBody]
theorem run_spelled {n minute route allowance : Nat} {demand : Demand} (h1 : 1 ≤ n) (h2 : n ≤ 999) (h3 : minute ≤ 1439)
    (h4 : route ≤ 255) (h5 : allowance ≤ 6000) (hd : ∀ f, demand = .fleet f → 1 ≤ f ∧ f ≤ 9999) :
    Spells own station 0x05 (be16 n ++ be16 minute ++ [byte route] ++ Claims.demandBytes demand ++ be16 allowance)
      (.run station n minute route demand allowance) := by
  obtain ⟨k1, k2, k3⟩ := demand_read hd
  rw [demandBytes_eq]
  refine ⟨rfl, ?_, ?_⟩
  · simp (disch := omega) [fieldsOk, okRun, okMinute, okAllowance, *]
  · simp (disch := omega) [readBody, k3]
theorem runCancel_spelled {n : Nat} (h1 : 1 ≤ n) (h2 : n ≤ 999) :
    Spells own station 0x06 (be16 n) (.runCancel station n) := by
  refine ⟨rfl, ?_, ?_⟩
  · simp (disch := omega) [fieldsOk, okRun, *]
  · simp (disch := omega) [readBody]
theorem clearRuns_spelled : Spells own station 0x07 [] (.clearRuns station) := ⟨rfl, rfl, rfl⟩
theorem orderOf_eq (sender tag : Nat) (args : List Byte) (kind : Nat) :
    orderOfKind kind sender tag args = Claims.orderOf sender tag args kind := by
  unfold orderOfKind Claims.orderOf
  split <;> rfl
theorem order_spelled {sender target tag kind : Nat} {args : List Byte} (h1 : target ≤ 31) (h2 : tag ≤ 255)
    (h3 : kind ≤ 255) (h4 : args.length ≤ 29) : Spells own sender 0x0F ([byte target, byte tag, byte kind] ++ args)
      (if target = own then Claims.orderOf sender tag args kind else .orderForAnotherStation sender target tag kind args) := by
  refine ⟨?_, ?_, ?_⟩
  · simp [lengthFits, kindLengths]
    omega
  · simp (disch := omega) [fieldsOk, okStation, h1]
  · simp (disch := omega) [readBody, readOrder, orderOf_eq]

/-! ### Frames as sent (R180, R182, R183) -/

theorem kind_range (n : Notice) : 1 ≤ n.kind ∧ n.kind ≤ 255 ∧ ¬ (4 ≤ n.kind ∧ n.kind ≤ 7) := by
  cases n <;> simp [Notice.kind]
theorem wire_eq (station : Nat) (n : Notice) : n.wire station = Claims.frame station n.kind n.body := by
  obtain ⟨h1, h2, -⟩ := kind_range n
  unfold Notice.wire Claims.frame
  rw [show checkOf (n.unchecked station) = _ from checkOf_eq (pairSum_head h1 h2 _)]
  rfl
theorem frame_length (station kind : Nat) (body : List Byte) : (Claims.frame station kind body).length = body.length + 5 := by
  simp [Claims.frame]
theorem bytes_payload (payload : List Byte) : Claims.bytes (payload.map (fun b => (1, b.toNat))) = payload := by
  induction payload with
  | nil => rfl
  | cons b payload ih => rw [List.map_cons, bytes_one, ih, byte, BitVec.ofNat_toNat, BitVec.setWidth_eq]
theorem answerCode_eq (c : AnswerCode) : answerCode c = Claims.code [.done, .refused, .invalid, .busy, .notFound] c := by
  cases c <;> rfl
theorem laidOut_eq (n : Notice) : n.kind = (Claims.laidOut n).1 ∧ n.body = Claims.bytes (Claims.laidOut n).2 := by
  cases n with
  | feeder g st hot => cases g <;> cases st <;> cases hot <;> exact ⟨rfl, rfl⟩
  | _ => simp [Notice.kind, Notice.body, Claims.laidOut, bytes_nil, bytes_one, bytes_two, bytes_three, flags_eq, classCode_eq,
      answerCode_eq, alertCode_eq, bytes_payload]
/-- A notice in range, of a station that may send it, is read as what it is. -/
theorem readFrame_wire {n : Notice} (hs : station ≤ 31) (hn : Claims.inRange n)
    (hw : station ≠ own ∨ n.isRoll = true ∨ n.isDraw = true) :
    readFrame own (n.wire station) = some (n.heardAs station) := by
  obtain ⟨-, -, office⟩ := kind_range n
  obtain ⟨-, roll, draw⟩ := frameClasses_by_kind n
  rw [roll, draw] at hw
  rw [wire_eq]
  exact readFrame_frame (notice_spelled hn) hs (fun h1 h2 => absurd ⟨h1, h2⟩ office) fun e => hw.resolve_left (· e)

/-! ### Notices that fail a test (R184) -/

variable {s : State} {c : Instr}

/-- An order is taken and judged (R206). -/
theorem exec_order {k : (Nat → Nat → List Byte → Instr) × Nat} (hk : k ∈ Claims.orderKinds) (sender tag : Nat)
    (args : List Byte) (s : State) : ∃ (α : Type) (p : Option α) (j : α → State → Verdict),
      exec (k.1 sender tag args) s = .next (s.takeOrder sender tag args p j) := by
  simp only [Claims.orderKinds, List.mem_cons, List.not_mem_nil, or_false] at hk
  rcases hk with rfl | rfl | rfl | rfl | rfl | rfl | rfl | rfl | rfl | rfl | rfl | rfl | rfl | rfl
  all_goals exact ⟨_, _, _, rfl⟩
theorem peer_iff {sender : Nat} : s.peer sender = true ↔ sender ≤ 31 ∧ sender ≠ s.cfg.station := by
  simp [State.peer, okStation, State.fromPeer]
theorem office_iff {sender : Nat} : s.office sender = true ↔ sender = 0 ∧ sender ≠ s.cfg.station := by
  simp [State.office, State.fromPeer]
theorem okOptional_iff {ok : Nat → Bool} {o : Option Nat} : okOptional ok o = true ↔ ∀ n, o = some n → ok n = true := by
  cases o <;> simp [okOptional]
theorem okDemand_iff {d : Demand} : okDemand d = true ↔ ∀ n, d = .fleet n → okFleet n = true := by
  cases d <;> simp [okDemand]
theorem orderFrame_bad {sender tag : Nat} {args : List Byte}
    (h : 31 < sender ∨ sender = s.cfg.station ∨ 255 < tag ∨ 29 < args.length) :
    (okOrderFrame sender tag args && s.fromPeer sender) = false := by
  simp only [okOrderFrame, okStation, okByte, State.fromPeer, ← Bool.not_eq_true, Bool.and_eq_true, decide_eq_true_eq,
    bne_iff_ne]
  omega
/-- A notice that fails a test of R184 only ends. -/
theorem exec_discarded (hh : Claims.hearing s) (hc : Claims.discarded s.cfg.station c) :
    exec c s = .next s.frameEnded := by
  have hd : s.mayDrive = true := takesFrame_mayDrive (takesFrame_of_hearing hh)
  have ends {a : Bool} {f : State → State} (ha : a ≠ true) :
      (.next (s.hear a f) : Host.Outcome State Fault Refusal) = .next s.frameEnded :=
    congrArg _ (hear_rejected hd (Bool.eq_false_iff.mpr ha))
  cases c with
  | roll | draw | feeder | clock | runCancel | clearRuns | offer | take | found | claim | depart | late =>
    refine ends fun ha => ?_
    simp only [Bool.and_eq_true, decide_eq_true_eq, peer_iff, office_iff, okStation, okPeer, okByte, okLane, okKilowatts, okRun,
      okFleet, okSecond, okCost, okClaimCost] at ha
    simp only [Claims.discarded, Claims.outside] at hc
    omega
  | run sender n minute route demand allowance =>
    refine ends fun ha => ?_
    simp only [Bool.and_eq_true, decide_eq_true_eq, office_iff, okRun, okMinute, okByte, okDemand_iff, okFleet,
      okAllowance] at ha
    obtain ⟨⟨⟨⟨⟨hs, hn⟩, hm⟩, hr⟩, hf⟩, ha⟩ := ha
    simp only [Claims.discarded, Claims.outside] at hc
    rcases hc with h | h | h | h | h | h | ⟨fleet, he, h⟩
    case inr.inr.inr.inr.inr.inr =>
      have := hf fleet he
      omega
    all_goals omega
  | parkCall sender seq fleet cls route minute washed =>
    refine ends fun ha => ?_
    simp only [Bool.and_eq_true, decide_eq_true_eq, peer_iff, okByte, okFleet, okOptional_iff, okMinute] at ha
    obtain ⟨⟨⟨⟨hs, hq⟩, hf⟩, hr⟩, hm⟩ := ha
    simp only [Claims.discarded, Claims.outside] at hc
    rcases hc with h | h | h | h | ⟨r, he, h⟩ | ⟨m, he, h⟩
    case inr.inr.inr.inr.inl => exact absurd (hr r he) (Nat.not_le.mpr h)
    case inr.inr.inr.inr.inr => exact absurd (hm m he) (Nat.not_le.mpr h)
    all_goals omega
  | orderUnknownKind sender tag kind args =>
    show execOrderUnknownKind sender tag kind args s = _
    unfold execOrderUnknownKind
    split
    · exact congrArg _ (hear_nothing hd true)
    · exact ends (Bool.eq_false_iff.mp (orderFrame_bad hc))
  | _ =>
    obtain ⟨k, hk, sender, tag, args, e, h⟩ := hc
    obtain ⟨α, p, j, hx⟩ := exec_order hk sender tag args s
    rw [e, hx]
    exact ends (Bool.eq_false_iff.mp (orderFrame_bad h))

end Sys2Proof.Machine

open Sys2Proof Sys2Proof.Machine

/-- Settles O48: what a body of a kind spells (`notice_spelled`, `run_spelled`, `order_spelled` and their like) is read from its
frame (`readFrame_frame`); bytes are read where they pass the tests (`readFrame_bytes`); a notice that fails one only ends
(`exec_discarded`). -/
theorem noticesAreReadAsTheyWereSent : Obligations.NoticesAreReadAsTheyWereSent := by
  unfold Obligations.NoticesAreReadAsTheyWereSent
  refine ⟨fun own station n hs hn hw => ⟨readFrame_wire hs hn hw, ?_, wire_eq _ _⟩, laidOut_eq, ?_, ?_, ?_,
    fun own bytes h => readFrame_length h, fun s c => ⟨rfl, exec_discarded⟩⟩
  · rw [wire_eq, frame_length]
  · intro own second n minute route allowance demand ho h1 h2 h3 h4 h5 h6 hd
    have office {kind : Nat} {body : List Byte} {c : Instr} (h : Spells own 0 kind body c) :
        readFrame own (Claims.frame 0 kind body) = some c :=
      readFrame_frame h (by decide) (fun _ _ => rfl) fun e => absurd e.symm ho
    exact ⟨office (clock_spelled h1), office (run_spelled h2 h3 h4 h5 h6 hd), office (runCancel_spelled h2 h3),
      office clearRuns_spelled⟩
  · intro own sender target tag kind args hs hw h1 h2 h3 h4
    exact readFrame_frame (order_spelled h1 h2 h3 h4) hs (by omega) (absurd · hw)
  · intro own station kind check body hs hk hc hb
    dsimp only
    obtain ⟨read, unread⟩ := readFrame_bytes (own := own) hs hk hc hb
    constructor
    · intro h
      by_contra hn
      rw [unread hn] at h
      cases h
    · intro h
      rw [read h]
      rfl
end

section
/-! SUPPORT. The outputs while the node does not drive them, the cold start and the reset line (R105, R129, R177, R200 to R204,
R213). -/

namespace Sys2Proof.Machine

open Sys2Proof

variable {s : State}

/-! ### The outputs (R105, R129, R177, R200, R202) -/

/-- The gate that stands before every output: the node drives its outputs. -/
theorem drives_iff : (s.active && s.node.resetLine == .released) = true ↔ Claims.outputsOn s := by
  simp [Claims.outputsOn, active_iff]
theorem linkPower_on (h : Claims.outputsOn s) (c : Charger) : s.linkPower c = c.present := if_pos (drives_iff.mpr h)
theorem linkPower_off (h : ¬ Claims.outputsOn s) (c : Charger) : s.linkPower c = 0 := if_neg (h ∘ drives_iff.mp)
theorem entrySignal_off (h : ¬ Claims.outputsOn s) : s.entrySignal = false := by
  have hd := Bool.eq_false_iff.mpr (h ∘ drives_iff.mp)
  rw [State.entrySignal, hd, Bool.false_and, Bool.false_and]
theorem stageSignal_off (h : ¬ Claims.outputsOn s) (k : Nat) : s.stageSignal k = false := by
  have hl := Bool.eq_false_iff.mpr fun hl => h (lit_iff.mp hl).1
  rw [State.stageSignal, hl, Bool.false_and]
theorem equipmentRuns_off (h : ¬ Claims.outputsOn s) (k : Nat) : s.equipmentRuns k = false :=
  Bool.eq_false_iff.mpr fun hr => h (lit_iff.mp ((equipmentRuns_iff k).mp hr).1).1
theorem exitSignal_off (h : ¬ Claims.outputsOn s) (n : Nat) : s.exitSignal n = false :=
  Bool.eq_false_iff.mpr fun hr => h ((exitSignal_iff n).mp hr).1

/-! ### The commands of the node as a whole (R202 to R204, R213) -/

theorem coldStart_eq (s : State) : s.coldStart = Claims.cold s.node.resetLine s := rfl
theorem exec_powerOn {line : ResetLine} (h : s.node.resetLine = line) :
    exec .powerOn s = .next (Claims.cold line.atPowerOn s) := by
  subst h
  exact congrArg Host.Outcome.next (coldStart_eq _)
/-- A line that is not held lets the alert list drive the alert line (R213). -/
theorem alertLine_released (h : s.node.resetLine = .released) :
    s.alertLine = (s.alerts.full || s.alerts.entries.any (fun x => !x.acknowledged)) := by
  unfold State.alertLine
  rw [h]
  rfl
/-- A held line keeps the alert line at the level of the press (R202). -/
theorem alertLine_held {e : Nat} {level : Bool} (h : s.node.resetLine = .held e level ∨ s.node.resetLine = .heldLong level) :
    s.alertLine = level := by
  unfold State.alertLine
  rcases h with h | h <;> rw [h]
theorem exec_resetLineAsserted_released (h : s.node.resetLine = .released) : exec .resetLineAsserted s =
    .next ((s.setLink { s.link with sending := none, receiver := .waitIdle, idle := 0 }).setNode
      { s.node with resetLine := .held (s.now + 1) s.alertLine }) := by
  show execResetLineAsserted s = _
  unfold execResetLineAsserted
  simp only [h]
theorem exec_resetLineAsserted_held {e : Nat} {level : Bool}
    (h : s.node.resetLine = .held e level ∨ s.node.resetLine = .heldLong level) : exec .resetLineAsserted s = .next s := by
  show execResetLineAsserted s = _
  unfold execResetLineAsserted
  rcases h with h | h <;> simp only [h]
theorem exec_resetHoldExpiry_due {e : Nat} {level : Bool} (h : s.node.resetLine = .held e level) (he : e ≤ s.now) :
    exec .resetHoldExpiry s = .next (Claims.cold (.heldLong level) s) := by
  show execResetHoldExpiry s = _
  unfold execResetHoldExpiry
  simp only [h, if_pos he, coldStart_eq]
  rfl
theorem exec_resetLineReleased_released (h : s.node.resetLine = .released) : exec .resetLineReleased s = .next s := by
  show execResetLineReleased s = _
  unfold execResetLineReleased
  simp only [h]
/-- A release within the second of the hold restarts warm where the node took commands, and cold from LOADING and
CONFIG_FAULT (R200, R202). -/
theorem exec_resetLineReleased_held {e : Nat} {level : Bool} (h : s.node.resetLine = .held e level) :
    exec .resetLineReleased s = .next (if s.active then Claims.warm (s.setNode { s.node with resetLine := .released })
      else Claims.cold .released s) := by
  show execResetLineReleased s = _
  unfold execResetLineReleased
  simp only [h, warmRestart_eq, coldStart_eq]
  rfl
theorem exec_resetLineReleased_heldLong {level : Bool} (h : s.node.resetLine = .heldLong level) :
    exec .resetLineReleased s = .next (Claims.cold .released s) := by
  show execResetLineReleased s = _
  unfold execResetLineReleased
  simp only [h, coldStart_eq]
  rfl

end Sys2Proof.Machine

open Sys2Proof Sys2Proof.Machine

/-- Settles O54: every output lies behind the one gate of `drives_iff`, and the four commands go by the reset line as it stands;
a cold start is `coldStart_eq`, a warm one `warmRestart_eq`. -/
theorem powerOnAndTheResetLine : Obligations.PowerOnAndTheResetLine := by
  unfold Obligations.PowerOnAndTheResetLine
  refine ⟨fun s => ⟨fun h => ⟨entrySignal_off h, fun k => ⟨stageSignal_off h k, equipmentRuns_off h k⟩, exitSignal_off h,
    linkPower_off h⟩, linkPower_on⟩, fun s e level => ?_⟩
  dsimp only
  refine ⟨fun h => exec_powerOn h, fun h => exec_powerOn h, fun h => exec_powerOn h, fun h => ⟨alertLine_released h, ?_⟩,
    fun h => ⟨alertLine_held h, exec_resetLineAsserted_held h⟩, exec_resetHoldExpiry_due, fun h ha => ?_, ?_,
    exec_resetLineReleased_released⟩
  · rw [exec_resetLineAsserted_released h, alertLine_released h]
  · rw [exec_resetLineReleased_held h, if_pos ha]
  · rintro (⟨h, ha⟩ | h)
    · rw [exec_resetLineReleased_held h, if_neg (Bool.eq_false_iff.mp ha)]
    · exact exec_resetLineReleased_heldLong h
end

section
/-! SUPPORT. Arguments out of their range, and the orders answered BUSY or INVALID (R206, R207). -/

namespace Sys2Proof.Machine

open Sys2Proof

/-! ### A number out of a range fails the model's test of it (R207) -/

theorem inRange_of_outside {lo hi n : Nat} (h : Claims.outside lo hi n) : (decide (lo ≤ n) && decide (n ≤ hi)) = false := by
  rcases h with h | h
  · rw [decide_eq_false (Nat.not_le.mpr h), Bool.false_and]
  · rw [decide_eq_false (Nat.not_le.mpr h), Bool.and_false]
theorem upTo_of_outside {hi n : Nat} (h : Claims.outside 0 hi n) : decide (n ≤ hi) = false :=
  decide_eq_false (Nat.not_le.mpr (h.resolve_left (Nat.not_lt_zero n)))
theorem kindByte_of_outside {n : Nat} (h : Claims.outside 1 2 n) : (n == 1 || n == 2) = false := by
  simp only [Claims.outside] at h
  simp only [Bool.or_eq_false_iff, beq_eq_false_iff_ne]
  omega

/-! ### Arguments that are not read (R207) -/

variable {ok ok₁ ok₂ : Nat → Bool} {args : List Byte}

theorem args1_bad (h : ok (Claims.argument args 0) = false) : args1 ok args = none := by
  by_cases hl : args.length = 1
  · obtain ⟨x, rfl⟩ := List.length_eq_one_iff.mp hl
    exact if_neg (Bool.eq_false_iff.mp h)
  · exact args1_none _ _ hl
theorem args2_bad (h : ok (Claims.argument2 args 0) = false) : args2 ok args = none := by
  by_cases hl : args.length = 2
  · obtain ⟨x, y, rfl⟩ := List.length_eq_two.mp hl
    exact if_neg (Bool.eq_false_iff.mp h)
  · exact args2_none _ _ hl
theorem args11_bad (h : ok₁ (Claims.argument args 0) = false ∨ ok₂ (Claims.argument args 1) = false) :
    args11 ok₁ ok₂ args = none := by
  by_cases hl : args.length = 2
  · obtain ⟨x, y, rfl⟩ := List.length_eq_two.mp hl
    exact if_neg (Bool.eq_false_iff.mp (Bool.and_eq_false_iff.mpr h))
  · exact args11_none _ _ _ hl
theorem laneKindArgs_bad (h : Claims.outside 1 8 (Claims.argument args 0) ∨ Claims.outside 1 2 (Claims.argument args 1)) :
    laneKindArgs args = none := by
  unfold laneKindArgs
  rw [args11_bad (h.imp inRange_of_outside kindByte_of_outside)]
theorem feedArgs_bad (h : Claims.outside 1 99 (Claims.argument args 0) ∨ Claims.outside 0 7 (Claims.argument args 1)) :
    feedArgs args = none := by
  unfold feedArgs
  rw [args11_bad (h.imp inRange_of_outside upTo_of_outside)]
theorem identifyArgs_bad (h : Claims.outside 1 8 (Claims.argument args 0) ∨ Claims.outside 1 6 (Claims.argument args 1) ∨
    Claims.outside 1 9999 (Claims.argument2 args 2)) : identifyArgs args = none := by
  by_cases hl : args.length = 4
  · match args, hl with
    | [x, y, a, b], _ =>
      refine if_neg (Bool.eq_false_iff.mp ?_)
      rw [Bool.and_assoc, Bool.and_eq_false_iff, Bool.and_eq_false_iff]
      exact h.imp inRange_of_outside (.imp inRange_of_outside inRange_of_outside)
  · exact identifyArgs_none _ hl
/-- The subject of an ACK is examined with a code other than 0 alone (R213; log 39). -/
theorem ackArgs_bad (h : Claims.outside 0 18 (Claims.argument args 0) ∨
    Claims.argument args 0 ≠ 0 ∧ Claims.outside 0 9999 (Claims.argument2 args 1)) : ackArgs args = none := by
  by_cases hl : args.length = 3
  · match args, hl with
    | [x, a, b], _ =>
      refine if_neg (Bool.eq_false_iff.mp ?_)
      rw [Bool.and_eq_false_iff, Bool.or_eq_false_iff, beq_eq_false_iff_ne]
      exact h.imp upTo_of_outside (.imp_right upTo_of_outside)
  · exact ackArgs_none _ hl

/-! ### BUSY and INVALID (R206, R207) -/

variable {s : State} {sender tag : Nat}

/-- An order whose arguments are not read is answered INVALID, and changes nothing else. -/
theorem takeOrder_unread {α : Type} (h : Claims.ordered s sender tag) (hl : args.length ≤ 29) {p : Option α} (hp : p = none)
    (j : α → State → Verdict) : s.takeOrder sender tag args p j = Claims.answered sender tag .invalid s.frameEnded := by
  obtain ⟨hh, h1, h2, h3, h4⟩ := h
  rw [takeOrder_free p j (takesFrame_of_hearing hh) h1 h2 h3 hl h4, hp]
  rfl
theorem next_unread {α : Type} (h : Claims.ordered s sender tag) (hl : args.length ≤ 29) {p : Option α} (hp : p = none)
    (j : α → State → Verdict) : (.next (s.takeOrder sender tag args p j) : Host.Outcome State Fault Refusal) =
      .next (Claims.answered sender tag .invalid s.frameEnded) :=
  congrArg Host.Outcome.next (takeOrder_unread h hl hp j)
/-- An order of a kind not listed is taken as one whose arguments are not read. -/
theorem exec_orderUnknownKind {kind : Nat} (h : Claims.outside 1 14 kind) (s : State) :
    exec (.orderUnknownKind sender tag kind args) s =
      .next (s.takeOrder sender tag args (none : Option Unit) fun _ _ => .no .invalid) :=
  if_neg (Bool.eq_false_iff.mp (inRange_of_outside h))
theorem exec_wrongLength (ho : Claims.ordered s sender tag) (hl : args.length ≤ 29) :
    ∀ k ∈ Claims.orderKinds, args.length ≠ k.2 →
      exec (k.1 sender tag args) s = .next (Claims.answered sender tag .invalid s.frameEnded) := by
  have invalid {α : Type} {p : Option α} (hp : p = none) {j : α → State → Verdict} := next_unread ho hl hp j
  simp only [Claims.orderKinds, List.forall_mem_cons]
  exact ⟨fun h => invalid (args1_none _ _ h), fun h => invalid (identifyArgs_none _ h),
    fun h => invalid (args1_none _ _ h), fun h => invalid (args1_none _ _ h), fun h => invalid (laneKindArgs_none _ h),
    fun h => invalid (args2_none _ _ h), fun h => invalid (args0_none _ h), fun h => invalid (args2_none _ _ h),
    fun h => invalid (args2_none _ _ h), fun h => invalid (feedArgs_none _ h), fun h => invalid (args1_none _ _ h),
    fun h => invalid (ackArgs_none _ h), fun h => invalid (args11_none _ _ _ h), fun h => invalid (args0_none _ h), nofun⟩
theorem exec_badArguments (ho : Claims.ordered s sender tag) (hl : args.length ≤ 29) :
    ∀ k ∈ Claims.badArguments, k.2 args →
      exec (k.1 sender tag args) s = .next (Claims.answered sender tag .invalid s.frameEnded) := by
  have invalid {α : Type} {p : Option α} (hp : p = none) {j : α → State → Verdict} := next_unread ho hl hp j
  have lane (h : Claims.outside 1 8 (Claims.argument args 0)) : laneArgs args = none := args1_bad (inRange_of_outside h)
  have fleet (h : Claims.outside 1 9999 (Claims.argument2 args 0)) : fleetArgs args = none := args2_bad (inRange_of_outside h)
  simp only [Claims.badArguments, List.forall_mem_cons]
  exact ⟨fun h => invalid (args1_bad (upTo_of_outside h)), fun h => invalid (identifyArgs_bad h),
    fun h => invalid (lane h), fun h => invalid (lane h), fun h => invalid (laneKindArgs_bad h),
    fun h => invalid (fleet h), fun h => invalid (fleet h), fun h => invalid (fleet h), fun h => invalid (feedArgs_bad h),
    fun h => invalid (args1_bad (inRange_of_outside h)), fun h => invalid (ackArgs_bad h),
    fun h => invalid (args11_bad (.inl (inRange_of_outside h))), nofun⟩

end Sys2Proof.Machine

open Sys2Proof Sys2Proof.Machine

/-- Settles O9: every order comes to `State.takeOrder` (`exec_order`, `exec_orderUnknownKind`), which is `takeOrder_busy` while
another is in execution; else the arguments are not read (`exec_wrongLength`, `exec_badArguments`). -/
theorem ordersBusyOrInvalid : Obligations.OrdersBusyOrInvalid := by
  unfold Obligations.OrdersBusyOrInvalid
  constructor
  · intro s o sender tag args hh h1 h2 h3 hl ho
    refine ⟨fun k hk => ?_, fun kind hkind => ?_⟩
    · obtain ⟨α, p, j, hx⟩ := exec_order hk sender tag args s
      rw [hx, takeOrder_busy p j (takesFrame_of_hearing hh) h1 h2 h3 hl ho]
      rfl
    · rw [exec_orderUnknownKind hkind, takeOrder_busy _ _ (takesFrame_of_hearing hh) h1 h2 h3 hl ho]
      rfl
  · intro s sender tag args ho hl
    refine ⟨exec_wrongLength ho hl, exec_badArguments ho hl, fun kind hkind => ?_⟩
    rw [exec_orderUnknownKind hkind, next_unread ho hl rfl]
end

section
/-! SUPPORT. The alert list: what it stores, the button and ACK (R212, R213). -/

namespace Sys2Proof.Machine

open Sys2Proof

variable {s : State} {code : AlertCode} {subject : Nat}

/-! ### The first entry of a kind (R212, R213) -/

theorem removeFirst_append {α : Type} {p : α → Bool} {e : α} (he : p e = true) (post : List α) :
    ∀ {pre : List α}, (∀ x ∈ pre, p x = false) → removeFirst p (pre ++ e :: post) = pre ++ post
  | [], _ => if_pos he
  | x :: pre, h => by
    obtain ⟨hx, hpre⟩ := List.forall_mem_cons.mp h
    rw [List.cons_append, removeFirst, if_neg (Bool.eq_false_iff.mp hx), removeFirst_append he post hpre, List.cons_append]
theorem ackFirst_append {e : AlertEntry} (he : e.acknowledged = false) (post : List AlertEntry) :
    ∀ {pre : List AlertEntry}, (∀ x ∈ pre, x.acknowledged = true) →
      ackFirst (pre ++ e :: post) = pre ++ Claims.acked e :: post
  | [], _ => if_neg (Bool.eq_false_iff.mp he)
  | x :: pre, h => by
    obtain ⟨hx, hpre⟩ := List.forall_mem_cons.mp h
    rw [List.cons_append, ackFirst, if_pos hx, ackFirst_append he post hpre, List.cons_append]

/-! ### Storing (R212) -/

theorem storeAlert_room (h : s.alerts.entries.length < 16) : s.storeAlert code subject =
    s.setAlerts { s.alerts with entries := s.alerts.entries ++ [⟨code, subject, s.stamp, false⟩] } :=
  congrArg s.setAlerts (if_pos h)
theorem storeAlert_replaces {e : AlertEntry} {pre post : List AlertEntry} (hs : s.alerts.entries = pre ++ e :: post)
    (hl : 15 ≤ pre.length + post.length) (hpre : ∀ x ∈ pre, x.acknowledged = false) (he : e.acknowledged = true) :
    s.storeAlert code subject =
      s.setAlerts { s.alerts with entries := pre ++ post ++ [⟨code, subject, s.stamp, false⟩] } := by
  have full : ¬ s.alerts.entries.length < 16 := by
    rw [hs, List.length_append, List.length_cons]
    omega
  have found : s.alerts.entries.any (·.acknowledged) = true :=
    List.any_eq_true.mpr ⟨e, hs ▸ List.mem_append_right pre List.mem_cons_self, he⟩
  unfold State.storeAlert Alerts.store
  rw [if_neg full, if_pos found, hs, removeFirst_append he post hpre]
theorem storeAlert_full (hl : 16 ≤ s.alerts.entries.length) (h : ∀ x ∈ s.alerts.entries, x.acknowledged = false) :
    s.storeAlert code subject = s.setAlerts { s.alerts with full := true } := by
  have none_acked : s.alerts.entries.any (·.acknowledged) = false :=
    List.any_eq_false.mpr fun x hx => Bool.eq_false_iff.mp (h x hx)
  unfold State.storeAlert Alerts.store
  rw [if_neg (Nat.not_lt.mpr hl), if_neg (Bool.eq_false_iff.mp none_acked)]

/-! ### The button (R200, R213) -/

theorem ackButton_first {e : AlertEntry} {pre post : List AlertEntry} (hs : s.alerts.entries = pre ++ e :: post)
    (hpre : ∀ x ∈ pre, x.acknowledged = true) (he : e.acknowledged = false) (hn : s.node.state ≠ .configFault) :
    exec .ackButtonPress s = .next (s.setAlerts ⟨pre ++ Claims.acked e :: post, false⟩) := by
  have unacked : s.alerts.entries.any (fun x => !x.acknowledged) = true :=
    List.any_eq_true.mpr ⟨e, hs ▸ List.mem_append_right pre List.mem_cons_self, by rw [he]; rfl⟩
  show execAckButtonPress s = _
  unfold execAckButtonPress
  rw [if_pos (Bool.and_eq_true_iff.mpr ⟨bne_iff_ne.mpr hn, unacked⟩), hs, ackFirst_append he post hpre]
theorem ackButton_idle (h : (∀ x ∈ s.alerts.entries, x.acknowledged = true) ∨ s.node.state = .configFault) :
    exec .ackButtonPress s = .next s := by
  refine if_neg fun hc => ?_
  obtain ⟨running, unacked⟩ := Bool.and_eq_true_iff.mp hc
  rcases h with h | h
  · obtain ⟨x, hx, hu⟩ := List.any_eq_true.mp unacked
    rw [h x hx] at hu
    exact absurd hu (by decide)
  · exact bne_iff_ne.mp running h

/-! ### ACK (R213) -/

variable {sender tag k : Nat}

theorem ackPicks_eq (k subject : Nat) : ackPicks k subject = fun x =>
    decide (x.acknowledged = false ∧ (k = 0 ∨ (Claims.alertNumber x.code = k ∧ x.subject = subject))) := by
  funext x
  simp [ackPicks, alertCode_eq, ← Bool.beq_eq_decide_eq]
/-- With code 0 the subject read picks nothing out, whatever it is. -/
theorem ackArgs_bytes (hk : k ≤ 18) (hs : k = 0 ∨ subject ≤ 9999) :
    ∃ m, ackArgs (byte k :: be16 subject) = some (k, m) ∧ ackPicks k m = ackPicks k subject := by
  rcases hs with rfl | hs
  · exact ⟨num16 (byte (subject / 256)) (byte subject), by simp [ackArgs, be16, byte], rfl⟩
  · refine ⟨subject, ?_, rfl⟩
    simp [ackArgs, be16, byte_toNat k (by omega), num16_be16 subject (by omega), hk, hs]
theorem acknowledge_eq (a : Alerts) (k subject : Nat) : a.acknowledge k subject =
    ⟨a.entries.map (fun x => if ackPicks k subject x then Claims.acked x else x),
      if a.entries.filter (ackPicks k subject) = [] then a.full else false⟩ := by
  unfold Alerts.acknowledge
  congr 1
  by_cases h : a.entries.filter (ackPicks k subject) = []
  · have hany : a.entries.any (ackPicks k subject) = false := List.any_eq_false.mpr (List.filter_eq_nil_iff.mp h)
    rw [if_pos h, hany, Bool.not_false, Bool.and_true]
  · have hany : a.entries.any (ackPicks k subject) = true := by
      by_contra hn
      exact h (List.filter_eq_nil_iff.mpr (List.any_eq_false.mp (Bool.eq_false_iff.mpr hn)))
    rw [if_neg h, hany, Bool.not_true, Bool.and_false]

/-- An order carried out at once, its answer with a payload. -/
theorem takeOrder_done {α : Type} (h : Claims.ordered s sender tag) {args : List Byte} (hl : args.length ≤ 29)
    {p : Option α} {y : α} (hp : p = some y) {j : α → State → Verdict} {t : State} {next : Nat} {payload : List Byte}
    (hj : j y s.frameEnded = .done t next payload) :
    s.takeOrder sender tag args p j = t.answer sender tag .done next payload := by
  rw [takeOrder_judged h hl hp, hj]

section
variable (ho : Claims.ordered s sender tag) (hk : k ≤ 18) (hs : k = 0 ∨ subject ≤ 9999)
include ho hk hs

theorem exec_ack_nothing (hp : s.alerts.entries.filter (ackPicks k subject) = []) (h0 : k ≠ 0) :
    exec (.ack sender tag (byte k :: be16 subject)) s = .next (Claims.answered sender tag .notFound s.frameEnded) := by
  obtain ⟨m, ha, hm⟩ := ackArgs_bytes hk hs
  refine congrArg Host.Outcome.next (takeOrder_no ho (by simp [be16]) ha (if_pos ?_))
  show ((s.alerts.entries.filter (ackPicks k m)).length == 0 && k != 0) = true
  simp [hm, hp, h0]
theorem exec_ack_picked (hp : s.alerts.entries.filter (ackPicks k subject) ≠ [] ∨ k = 0) :
    exec (.ack sender tag (byte k :: be16 subject)) s =
      .next ((s.frameEnded.setAlerts (s.alerts.acknowledge k subject)).send
        (.answer sender tag .done 0 [byte (s.alerts.entries.filter (ackPicks k subject)).length])) := by
  obtain ⟨m, ha, hm⟩ := ackArgs_bytes hk hs
  have carried : ¬ ((s.alerts.entries.filter (ackPicks k m)).length == 0 && k != 0) = true := by
    rw [hm, Bool.and_eq_true_iff, beq_iff_eq, List.length_eq_zero_iff, bne_iff_ne]
    exact fun ⟨hnil, h0⟩ => hp.elim (· hnil) h0
  rw [acknowledge_eq, ← hm, ← acknowledge_eq]
  exact congrArg Host.Outcome.next (takeOrder_done ho (by simp [be16]) ha (if_neg carried))
end

end Sys2Proof.Machine

open Sys2Proof Sys2Proof.Machine

/-- Settles O51: an alert is stored by the room of its list (`storeAlert_room`, `storeAlert_replaces`, `storeAlert_full`); the
button is `ackButton_first` or `ackButton_idle`, an ACK `exec_ack_nothing` or `exec_ack_picked`. -/
theorem alertsAreStoredAndAcknowledged : Obligations.AlertsAreStoredAndAcknowledged := by
  unfold Obligations.AlertsAreStoredAndAcknowledged
  intro s code subject sender tag k e pre post
  dsimp only
  refine ⟨rfl, storeAlert_room, storeAlert_replaces, storeAlert_full, ackButton_first, ackButton_idle,
    fun ho hk hs => ?_⟩
  rw [← ackPicks_eq]
  refine ⟨exec_ack_nothing ho hk hs, fun hp => ?_⟩
  rw [exec_ack_picked ho hk hs hp, acknowledge_eq]
  simp only [ackPicks_eq, decide_eq_true_eq]
end

section
/-! SUPPORT. The step on a queue that holds a command (log 2); `step_second` is the step on an empty one. -/

open Sys2Proof

namespace Sys2Proof.Machine

/-- Of two queues put in one after the other the later stands. -/
@[simp] theorem State.setPending_setPending (s : State) (x y : List Instr) :
    (s.setPending x).setPending y = s.setPending y := rfl

theorem step_front {s : State} {c : Instr} {rest : List Instr} (h : s.pending = c :: rest) :
    step s = exec c (s.setPending rest) := by
  unfold step
  rw [h]

end Sys2Proof.Machine

open Sys2Proof Sys2Proof.Machine

/-- Settles O1: the step takes the front command (`step_front`), and the rest takes the queue's place
(`State.setPending_setPending`). -/
theorem stepRunsTheFrontCommand : Obligations.StepRunsTheFrontCommand := by
  unfold Obligations.StepRunsTheFrontCommand
  intro c rest s
  rw [step_front (s.setPending_pending (c :: rest)), State.setPending_setPending]
end
